-- ==== Sys2Proof/Word.lean ====
section
/-! DEFINITION. The word types of the machine and their plainest arithmetic.
Every register is 32 bits wide and little-endian (R5); a device address is 40 bits wide (R36). -/
namespace Sys2Proof

/-- A register word (R5). -/
abbrev Word := BitVec 32

/-- A byte of memory or of a packet. -/
abbrev Byte := BitVec 8

/-- A saturating counter of `w` bits: one more, or the ceiling it has reached. -/
def satInc (w n : Nat) : Nat := if n + 1 < 2 ^ w then n + 1 else 2 ^ w - 1

/-- Clamping of a natural number to a legal range (R8). -/
def clampNat (lo hi n : Nat) : Nat := if n < lo then lo else if hi < n then hi else n

/-- Clamping of an integer to a legal range (R8). -/
def clampInt (lo hi n : Int) : Int := if n < lo then lo else if hi < n then hi else n

end Sys2Proof
end

