-- ==== Sys2Proof/Types.lean ====
section
/-! DEFINITION. The enumerations and records that the operands of the commands and the state share. -/
namespace Sys2Proof

/-- The three ordering codes (R1). -/
inductive OrderCode where
  | u48 | u32 | u24
  deriving DecidableEq, Repr

/-- The two PCIe ports (R440). -/
inductive PPort where
  | a | b
  deriving DecidableEq, Repr

/-- A PCIe function: the PF of a port (`vf = 0`) or one of its 31 VFs (R443, R575). -/
structure HostFn where
  port : PPort
  vf : Fin 32
  deriving DecidableEq, Repr

/-- The states of a power domain (R155, R156). -/
inductive DomState where
  | off | on | ret
  deriving DecidableEq, Repr

/-- A running state table: a Procedure instance of Zenith, a Stream Channel's or a Nightwatch pattern table (R145). -/
inductive Engine where
  | zenith (i : Fin 8)
  | stream (s : Fin 16)
  | nightwatch (t : Fin 4)
  deriving DecidableEq, Repr

/-- Supplies whose loss leaves Crust, Hearth and the memory dies undefined (R161). -/
inductive CrustSupply where
  | vddCrust | vio | memory
  deriving DecidableEq, Repr

/-- Message kinds of Meridian (R320). -/
inductive MerOp where
  | rd | wrf | wrm | rdc | wra | slot | ctl
  deriving DecidableEq, Repr

/-- A Meridian message: its header fields, its data, and the fields of a CTL message (R320). -/
structure MerMsg where
  op : MerOp
  cls : Nat
  poison : Bool
  srcHome : Nat
  master : Nat
  tag : Nat
  /-- Device address; for SLOT, the Rack number on the consumer's Star. -/
  addr : Nat
  deadline : Nat
  /-- 0 OK, 1 DENIED, 2 LOST. -/
  status : Nat
  /-- Byte enables of a WRM. -/
  enables : Nat
  data : List Byte
  /-- SLOT: the Rack tag's FRAME_END and USER. -/
  frameEnd : Bool
  user : Nat
  /-- CTL: the kind of control message and its fields. -/
  ctlKind : Nat
  ctl : List Nat
  deriving DecidableEq, Repr

/-- What memory-error detection reports on the access of one block (R282, R283). A command carries a list of these, for the
blocks that it accesses in their order; beyond the list there is no error. -/
inductive MemErr where
  | none
  /-- Inline ECC: a single-bit error. -/
  | corrected
  /-- Inline ECC: an uncorrectable error. -/
  | uncorrectable
  /-- Link ECC: corrected; retried once with success; failed twice. -/
  | linkCorrected
  | linkRetried
  | linkFailed
  deriving DecidableEq, Repr

/-- What the SFDP table of the flash announces (R110, R459): its highest mode (0 x1, 1 x2, 2 x4), whether x4 needs no QE bit or
finds it set, its highest clock in MHz, its density in MiB, and whether it has read commands with 4-byte addresses. -/
structure Sfdp where
  mode : Fin 3
  quad : Bool
  mhz : Nat
  mib : Nat
  four : Bool
  deriving DecidableEq, Repr

/-- How the world outside the Star answers an access to a host window or a remote Star (R297, R331). -/
inductive ExtStatus where
  | ok | unsupported | abort | poisoned | timeout | denied | lost
  deriving DecidableEq, Repr

/-- The answer to the part of an access that leaves the Star: the bytes it returns, in address order. -/
structure ExtReply where
  data : List Byte
  status : ExtStatus
  deriving DecidableEq, Repr

/-- What a link receives where a flit stands (R314, R319, R323): a skip flit, or the bytes after FEC, whether FEC could
correct them, and how many symbols it corrected. -/
structure RxFlit where
  skip : Bool
  fec : Bool
  corrected : Nat
  bytes : List Byte
  deriving DecidableEq, Repr

/-- A flit as the link layer reads it (R319, R323): it passed FEC and CRC, symbols corrected, IDLE, FSEQ, ACK with its
NAK and VALID bits, and the credits it returns: units to each pool, and slots by Rack number. -/
structure MerFlit where
  good : Bool
  corrected : Nat
  idle : Bool
  fseq : Nat
  ack : Nat
  nak : Bool
  valid : Bool
  crReq : Nat
  crRsp : Nat
  crCtl : Nat
  racks : List (Nat × Nat)
  deriving DecidableEq, Repr

/-- What a Star says in a Set (R340): the leaving Star's offer of a Homed window, another Star's answer to it, its
acknowledgement of a relocation, which it has left dark where it was its 65th, and its acknowledgement of SET_FINAL. -/
inductive SetOffer where
  | offer (leaver base size : Nat)
  | accept (home addr : Nat)
  | decline (home : Nat)
  | relocated (home : Nat) (dark : Bool)
  | done (home : Nat)
  deriving DecidableEq, Repr

/-- A received packet with no handler of its own (R416): a header beyond correction, a SoT sync error, or a packet that
carries nothing the port takes, its header corrected or not. -/
inductive RxOther where
  | badHeader
  | badSync
  | unused (corrected : Bool)
  deriving DecidableEq, Repr

/-- How an AUX transaction ended (R429). -/
inductive AuxReply where
  | ack | nack | defer | timeout
  deriving DecidableEq, Repr

/-- What memory answers to scan-out for a line of one layer (R423): the pixel from which data is late, if any. -/
structure ScanRead where
  late : Option Nat
  err : List MemErr
  e : ExtReply
  deriving DecidableEq, Repr

end Sys2Proof
end

