-- ==== Sys2Proof/Syntax.lean ====
section
/-! DEFINITION. The commands of the block: one constructor per row of spec/opcode_table.json, with the operands the
rule of the row gives it. What the world answers (samples, packets, completions, levels) comes as operands. -/
namespace Sys2Proof

/-- A command. -/
inductive Instr where
  /-- REGISTER_WRITE (R6): A host or Zenith write to a register field that has no row of its own stores the value, clamped to the field's legal range, or is ignored, as its access type states. -/
  | registerWrite (f : HostFn) (bar2 : Bool) (off : Nat) (size : Nat) (data : BitVec 64)
  /-- VDD_NW_RISE (R469): VDD_NW comes into range: Nightwatch resets to UNCONFIGURED, checks retention memory and drives PWRREQ_N low at its cold start. -/
  | vddNwRise
  /-- VDD_NW_LOSS (R489): Loss of VDD_NW closes any wake window and stops Nightwatch. -/
  | vddNwLoss
  /-- POR_N_ASSERT (R168): POR_N goes low: Crust and Hearth enter power-on reset, the fault log and the loaded Recipe are lost, and MODULE_RDY_N is released. -/
  | porNAssert
  /-- POR_N_DEASSERT (R108): POR_N goes high: BOOTSEL is sampled, and the crystal and boot ROM start-up begins. -/
  | porNDeassert (bootsel : Fin 4) (addrSel : Bool)
  /-- PERST_N_ASSERT (R576): PERST_N goes low: domains other than CRUST_AON turn OFF, their registers return to reset values, and the loaded Recipe is lost. -/
  | perstNAssert
  /-- PERST_N_DEASSERT (R108): PERST_N goes high while POR_N is high: the boot ROM runs again under the held BOOTSEL value. -/
  | perstNDeassert
  /-- BOOT_ROM_START (R165): After its start-up delay, the boot ROM starts running, turns on domains 112 to 116 and starts Epoch counting. -/
  | bootRomStart
  /-- CONFIG_SPACE_BUILT (R166): PCIe configuration space is built on both ports, and the ports stop answering with Configuration Request Retry Status. -/
  | configSpaceBuilt
  /-- AUTO_SPI_LOAD (R110): Under BOOTSEL 00 or 01, the boot ROM starts the loader on the SPI NOR flash, first reading SFDP and the header. -/
  | autoSpiLoad (flash : Option Sfdp)
  /-- LOAD (R111): RCP_CMD with CMD LOAD starts a host load of a full Recipe from host memory, or is dropped and counted in RCP_DROP. -/
  | load (f : HostFn) (seq : BitVec 16)
  /-- PATCH (R120): RCP_CMD with CMD PATCH starts a Patch of the named Bakery and raises PATCH_REQ, or is dropped and counted. -/
  | patch (f : HostFn) (bakery : Fin 16) (seq : BitVec 16)
  /-- DEFERRED (R112): RCP_CMD with CMD DEFERRED starts pass 3 for the loaded Recipe, or is dropped and counted. -/
  | deferred (f : HostFn) (seq : BitVec 16)
  /-- LOAD_VERIFIED (R112): Pass 1 of the loader ends: either every check passed and pass 2 begins, or the first failure is reported as a rejection. -/
  | loadVerified (data : List Byte)
  /-- COMMIT (R112): Pass 2 completes: sections are applied, KEYFUSE is applied last, STATE becomes LOADED and the COMMIT event starts the Start-up Procedure. -/
  | commit (data : List Byte) (fuses : List Nat)
  /-- SOURCE_FAULT (R113): A PCIe completion error, or a flash that does not answer within 1 ms, fails the load with cause SOURCE_FAULT. -/
  | sourceFault (data : List Byte) (sect : BitVec 16) (off : Nat)
  /-- DEFERRED_DONE (R112): Pass 3 ends: DRAM images are written, the NIGHTWATCH section is re-applied if needed, and DEFERRED_DONE is set. -/
  | deferredDone (data : List Byte)
  /-- PATCH_QUIESCE (R121): After pass 1 of a Patch succeeds, the Bakery's channels stop issuing jobs, ring jobs are cancelled and the drain starts. -/
  | patchQuiesce
  /-- DRAIN_TIMEOUT (R121): DRAIN_MS expires: jobs that are still running are stopped and complete CANCELLED_PATCH. -/
  | drainTimeout
  /-- PATCH_APPLY (R121): Once the drain ends, the loader runs pass 2 of the Patch, writes its images and PACE entries, and empties and re-credits the Racks. -/
  | patchApply (data : List Byte)
  /-- PWR_REQ_WRITE (R157): A write of PWR_REQ requests an OFF, ON or RET transition of a domain, which waits on its dependencies. -/
  | pwrReqWrite (f : HostFn) (d : Fin 164) (req : Fin 4)
  /-- DOMAIN_TRANSITION_START (R157): A pending domain transition starts once its dependencies allow it and any admitted jobs or copies have ended. -/
  | domainTransitionStart (d : Fin 164)
  /-- DOMAIN_TRANSITION_DONE (R160): A batch of power-domain transitions completes, and the PWR maps change. -/
  | domainTransitionDone
  /-- VDD_HEARTH_LOSS (R156): Removal of VDD_HEARTH makes every Hearth domain OFF, and ON requests stay pending until the supply returns. -/
  | vddHearthLoss
  /-- CRUST_SUPPLY_FAULT (R161): VDD_CRUST, VIO or a memory supply leaves its range while POR_N is high, and Crust, Hearth and memory state become undefined. -/
  | crustSupplyFault (sup : CrustSupply)
  /-- THERMTRIP (R172): A sensor reaches 115 °C: THERMTRIP_N goes low, HEARTH_EN goes low, Hearth is isolated, transmitters idle and Orbit gates turn off. -/
  | thermtrip
  /-- MODULE_PRES_ASSERT (R182): MODULE_PRES_N goes low when the module is fully mated, which changes Zenith input 7. -/
  | modulePresAssert
  /-- MODULE_PRES_RELEASE (R183): MODULE_PRES_N goes high, and the module's Meridian transmitters enter electrical idle. -/
  | modulePresRelease
  /-- MODULE_EJECT_N_FALL (R183): MODULE_EJECT_N goes low and starts the 10 ms debounce. -/
  | moduleEjectNFall
  /-- MODULE_EJECT (R179): MODULE_EJECT_N has stayed low for 10 ms, and the MODULE_EJECT event starts the bound Set Procedure. -/
  | moduleEject
  /-- MODULE_EJECT_N_RISE (R185): MODULE_EJECT_N returns high, and links left in LEFT may retrain. -/
  | moduleEjectNRise
  /-- BAKERY_RESET (R170): A write of PWR_BAKRST starts a Bakery reset, or the request is refused. -/
  | bakeryReset (f : HostFn) (bakery : Fin 16) (seq : BitVec 16)
  /-- BAKERY_RESET_DONE (R170): The drain of the Bakery reset ends: Racks are emptied and re-credited, A banks are cleared, channels resume and PWR_BAKRST_DONE is written. -/
  | bakeryResetDone
  /-- ZEN_TRIG (R177): A write of ZEN_TRIG requests the start of a Procedure, under its trigger policy. -/
  | zenTrig (f : HostFn) (proc : Fin 64) (arg : BitVec 16)
  /-- ZEN_SIGNAL (R179): A write of ZEN_SIGNAL raises the HOST event in every running instance. -/
  | zenSignal (f : HostFn) (val : Word)
  /-- PROCEDURE_START (R178): A pending Procedure start request starts, oldest first, when an instance becomes free. -/
  | procedureStart
  /-- STATE_TABLE_PASS (R151): An event, an input change, a timer expiry or the start of an instance triggers one evaluation pass of a state table over a snapshot. -/
  | stateTablePass (e : Engine)
  /-- TIMER_EXPIRY (R149): A state-table timer expires at a boundary of its engine's timer unit and triggers a pass. -/
  | timerExpiry (e : Engine) (k : Fin 4)
  /-- WRITE_DONE (R180): The instance's latest WRITE completes, and the WRITE_DONE event is raised. -/
  | writeDone (inst : Fin 8)
  /-- STREAM_ENABLE (R385): STR_CTRL ENABLE moves a STOPPED channel to RUNNING and starts its state-table instance. -/
  | streamEnable (f : HostFn) (k : Fin 16)
  /-- STREAM_STOP (R385): STR_CTRL STOP halts the channel's instance and discards its queued triggers. -/
  | streamStop (f : HostFn) (k : Fin 16)
  /-- HOST_TRIGGER (R386): A write of STR_TRIG is a trigger that is delivered, queued, coalesced or dropped under the channel's policy. -/
  | hostTrigger (f : HostFn) (k : Fin 16) (arg : Word)
  /-- STREAM_SIGNAL (R389): A write of STR_SIGNAL raises the SIGNAL event and loads input 7. -/
  | streamSignal (f : HostFn) (k : Fin 16) (val : Word)
  /-- TICKET_ACK (R392): The ticket write of an admitted channel job is acknowledged, and the job may start its passes. -/
  | ticketAck (k : Fin 16) (err : List MemErr) (e : ExtReply)
  /-- FRAME_START (R395): An output timing generator starts a frame, fixes each layer's buffer, and raises OFS. -/
  | frameStart (g : Fin 4)
  /-- OTG_START (R395): OTG_CTRL START starts a generator at the next µs, with frame 0 placed by its LOCK setting. -/
  | otgStart (f : HostFn) (g : Fin 4)
  /-- OTG_STOP (R395): OTG_CTRL STOP stops a generator. -/
  | otgStop (f : HostFn) (g : Fin 4)
  /-- OTG_AT_WRITE (R397): A write of OTG_AT arms a switch to the mode in OTG_MODE at Epoch time AT. -/
  | otgAtWrite (f : HostFn) (g : Fin 4) (at_ : Word)
  /-- CTX_ENABLE (R352): CTX_CTRL ENABLE moves a DISABLED context to ENABLED and zeroes its ring pointers. -/
  | ctxEnable (f : HostFn) (c : Fin 1024)
  /-- CTX_DISABLE (R352): CTX_CTRL DISABLE moves a context to DRAINING, or to DISABLED when no job is in flight. -/
  | ctxDisable (f : HostFn) (c : Fin 1024)
  /-- SQ_TAIL_DOORBELL (R355): A write of the SQ_TAIL doorbell submits descriptors up to the new tail and starts their fetch. -/
  | sqTailDoorbell (f : HostFn) (c : Fin 1024) (v : Word)
  /-- CQ_HEAD_UPDATE (R360): A write of the CQ_HEAD doorbell frees completion slots, or is stored as CQ_TAIL when it lies out of range. -/
  | cqHeadUpdate (f : HostFn) (c : Fin 1024) (v : BitVec 12)
  /-- CQ_ARM (R367): The ARM bit of a CQ_HEAD doorbell arms the context's vector, and sends a message at once if records are unread. -/
  | cqArm (f : HostFn) (c : Fin 1024) (v : BitVec 12)
  /-- DESCRIPTOR_FETCHED (R357): A descriptor read returns, and the job is taken to admission in ring and doorbell order. -/
  | descriptorFetched (c : Fin 1024) (err : List MemErr) (e : ExtReply)
  /-- WAITING_JOB_PROCEEDS (R357): A job that waited for in-flight room or ring space proceeds to admission ahead of later jobs. -/
  | waitingJobProceeds
  /-- PASS_START (R240): An Oven starts its pass for an admitted job once its previous pass has ended. -/
  | passStart (n : Fin 48)
  /-- LOADW (R223): A LOADW instruction decodes 4,096 codes from the Pantry into a weight tile. -/
  | loadw (n : Fin 48)
  /-- MAC (R226): A MAC instruction passes waves through a tile and adds aligned products into A-bank rows. -/
  | mac (n : Fin 48)
  /-- GLAZE (R235): A GLAZE instruction runs vectors through up to four stages and encodes or pushes the results. -/
  | glaze (n : Fin 48)
  /-- FETCH (R247): A FETCH instruction reads COUNT rows from memory into the Pantry. -/
  | fetch (n : Fin 48)
  /-- FLUSH (R247): A FLUSH instruction writes COUNT rows from the Pantry to memory and finishes when they are acknowledged. -/
  | flush (n : Fin 48)
  /-- LOOP (R248): A LOOP instruction advances its counter and jumps to TARGET, or resets the counter and falls through. -/
  | loop (n : Fin 48)
  /-- OVEN_END (R240): An END instruction ends the program of the pass. -/
  | ovenEnd (n : Fin 48)
  /-- STARTER_AFFINE (R259): A STARTER instruction in AFFINE mode updates state as g × h + u, with one rounding. -/
  | starterAffine (n : Fin 48)
  /-- STARTER_MIX (R259): A STARTER instruction in MIX mode updates state as u + g × (h − u), with one rounding. -/
  | starterMix (n : Fin 48)
  /-- STARTER_REBASE_IF (R273): A REBASE_IF instruction rebases the addressed state when the job asks for it, and otherwise only pops a Rack source. -/
  | starterRebaseIf (n : Fin 48)
  /-- PASS_END (R240): An Oven's pass ends when END is reached and every dispatched instruction has finished. -/
  | passEnd (n : Fin 48)
  /-- MAILBOX_WRITE (R371): A completed job with MBX_EN reads its 64-byte result and writes the mailbox, advancing SEQ and setting READY. -/
  | mailboxWrite (c : Fin 1024) (err : List MemErr) (e : ExtReply)
  /-- COMPLETION_RECORD_WRITE (R359): A completion record is written to the context's ring, waiting while the ring is full. -/
  | completionRecordWrite (c : Fin 1024) (e : ExtReply)
  /-- MSIX_MESSAGE (R367): Once an armed context's record write is acknowledged, one MSI-X message is sent and ARMED clears. -/
  | msixMessage (c : Fin 1024)
  /-- MSIX_UNMASK (R367): Unmasking a vector whose Pending bit is set sends its message. -/
  | msixUnmask (f : HostFn) (v : Fin 2048)
  /-- MBX_ACK (R373): A write of MBX_ACK with the present SEQ clears READY, and any other value is ignored. -/
  | mbxAck (f : HostFn) (m : Fin 256) (seq : Word)
  /-- BAKERY_STALL (R203): An active Bakery moves no Rack slot for STALL_US: its FAB_STALL bit is set and a STALL record is made. -/
  | bakeryStall (bakery : Fin 16)
  /-- BULK_PROMOTION (R208): A Bulk request that has waited for BULK_AGE is promoted to Prompt. -/
  | bulkPromotion (t : Fin 80)
  /-- SERVICE_OPPORTUNITY (R206): A shared target serves one request chosen by class, metering and weighted round robin. -/
  | serviceOpportunity (t : Fin 80) (err : List MemErr) (e : ExtReply)
  /-- METER_GAIN (R207): At each Epoch microsecond boundary, each group's Frame meter gains its reserved share of the target's capacity. -/
  | meterGain
  /-- COPY_UNIT (R300): A Slicer serves the next unit of at most 4 KiB of a copy, after checking the unit's bytes. -/
  | copyUnit (k : Fin 8) (err : List MemErr) (e : ExtReply)
  /-- COPY_COMPLETE (R309): When all of a copy's writes are acknowledged, it completes, and it may trigger a channel with TRIG_SRC 3. -/
  | copyComplete (k : Fin 8)
  /-- MR4_POLL (R286): Every 4 ms, each channel reads MR4 and sets its refresh rate. -/
  | mr4Poll (c : Fin 16) (rate : BitVec 4)
  /-- POWER_DOWN_ENTRY (R286): A channel idle for PD_IDLE enters power-down. -/
  | powerDownEntry (c : Fin 16)
  /-- CHANNEL_TRAINED (R165): Training of a memory channel completes. -/
  | channelTrained (c : Fin 16)
  /-- MEM_TRAINED (R285): Inline-ECC initialisation of the channels completes, and MEM_TRAINED is raised once every enabled channel is trained. -/
  | memTrained
  /-- HOST_READ_COMPLETION (R297): A completion for a host-window read returns data, or an error that gives zero with poison marking. -/
  | hostReadCompletion (tag : Nat) (e : ExtReply)
  /-- COMPLETION_TIMEOUT (R448): A host-window read gets no completion within the Completion Timeout Value, and it returns zero with poison marking. -/
  | completionTimeout (tag : Nat)
  /-- LINK_TRAINED (R315): A Meridian link reaches TRAINED, and LINK_TRAINED starts the Rise Procedure. -/
  | linkTrained (l : Fin 4)
  /-- LINK_IDENT (R317): The peer's identity arrives in IDENT and is accepted, or refused into REFUSED with a log entry. -/
  | linkIdent (l : Fin 4) (constId : Word) (home : Fin 8) (plink : Fin 4) (dev : Word) (unit : BitVec 64)
  /-- REFUSED_RETRY (R315): 100 ms after a refusal, the link returns to DETECT. -/
  | refusedRetry (l : Fin 4)
  /-- GEN2_FALLBACK (R316): Meridian-2 training does not complete in 30 ms, or has too many errors, and the link falls back to Meridian-1. -/
  | gen2Fallback (l : Fin 4) (errors : Bool)
  /-- LINK_LOST (R315): Loss of signal or lock takes a link out of service, raising LINK_LOST and updating the live masks. -/
  | linkLost (l : Fin 4)
  /-- ACK_PROGRESS_TIMEOUT (R318): No ACK progress for 50 µs with flits outstanding loses the link. -/
  | ackProgressTimeout (l : Fin 4)
  /-- REPLAY_EXHAUSTED (R317): A flit that fails 8 consecutive replays, or too high a replay rate, loses the link. -/
  | replayExhausted (l : Fin 4)
  /-- LINK_DISABLE (R347): Setting MER_LINK_CTRL.DISABLE holds the link DISABLED and loses a link in service. -/
  | linkDisable (f : HostFn) (l : Fin 4)
  /-- FLIT_RECEIVED (R323): A flit arrives and is checked by FEC and CRC, and its ACK, NAK and credits are taken. -/
  | flitReceived (l : Fin 4) (x : RxFlit)
  /-- MSG_RD (R330): An RD message is checked at the ingress against the guest map and the target AWT, or forwarded toward its home. -/
  | msgRd (l : Fin 4) (m : MerMsg)
  /-- MSG_WRF (R330): A whole-block write message is checked and performed, or forwarded. -/
  | msgWrf (l : Fin 4) (m : MerMsg)
  /-- MSG_WRM (R330): A masked write message is checked and performed, or forwarded. -/
  | msgWrm (l : Fin 4) (m : MerMsg)
  /-- MSG_RDC (R331): A read completion returns data, with poison marking when its POISON bit or STATUS LOST requires it. -/
  | msgRdc (l : Fin 4) (m : MerMsg)
  /-- MSG_WRA (R322): A write acknowledgement completes a remote write. -/
  | msgWra (l : Fin 4) (m : MerMsg)
  /-- MSG_SLOT (R196): A SLOT message delivers one cross-link Rack slot to the consumer's Star. -/
  | msgSlot (l : Fin 4) (m : MerMsg)
  /-- MSG_ROUTE_ANNOUNCE (R336): A route announcement installs links in live masks and is passed on to other neighbours. -/
  | msgRouteAnnounce (l : Fin 4) (homes : BitVec 8) (offset : Int)
  /-- MSG_WITHDRAWAL (R343): A withdrawal removes a destination from the live masks, and may make a Star lost. -/
  | msgWithdrawal (l : Fin 4) (homes : BitVec 8)
  /-- MSG_SET_NOTICE (R340): SET_NOTICE from a leaving Star is received. -/
  | msgSetNotice (l : Fin 4) (dest : Fin 8) (leaver : Fin 8)
  /-- MSG_SET_OFFER (R340): An offer of a Homed window is accepted into a POOL range, or declined. -/
  | msgSetOffer (l : Fin 4) (dest : Fin 8) (x : SetOffer)
  /-- MSG_RELOCATION (R340): A relocation of a Set window is installed and acknowledged. -/
  | msgRelocation (l : Fin 4) (dest : Fin 8) (base : Nat) (size : Nat) (newBase : Option Nat)
  /-- MSG_SET_FINAL (R340): SET_FINAL makes a Star wait for outstanding requests, darken windows, disconnect Racks, remove the leaving Star and acknowledge. -/
  | msgSetFinal (l : Fin 4) (dest : Fin 8) (leaver : Fin 8)
  /-- EPOCH_SLEW (R333): Once per millisecond, a Star measures its offset toward the time root and slews its Epoch. -/
  | epochSlew (offset : Int)
  /-- RISE (R336): A write of MER_RISE exchanges route tables with the neighbour on a link and starts Rise. -/
  | rise (f : HostFn) (l : Fin 4) (seq : BitVec 16)
  /-- RISE_COMPLETE (R336): Rise completes: cross-link Racks are connected and refilled, the link becomes ACTIVE and WRITE_DONE is raised. -/
  | riseComplete (l : Fin 4) (depths : List (Nat × Nat))
  /-- SET_GO (R339): A write of GO to MER_SET starts a Set of this Star, or is ignored. -/
  | setGo (f : HostFn) (seq : BitVec 16)
  /-- SET_WINDOW_COPIED (R340): The copy of one Set window completes, and the held writes are forwarded to the new home. -/
  | setWindowCopied
  /-- SET_COMPLETE (R340): Every Star has acknowledged SET_FINAL: MER_SET_DONE is written and the links enter LEFT. -/
  | setComplete
  /-- PACE_TICK (R58): Every 100 µs, Pace samples the sensors, computes the target voltage and issues at most one voltage command. -/
  | paceTick (sent : List (Nat × Nat)) (crust : List Nat)
  /-- AVS_ATTEMPT_DONE (R74): An AVSBus attempt answers or times out, and is retried, counted as failed, or taken as V_now or a reading. -/
  | avsAttemptDone (good : Bool) (data : BitVec 16)
  /-- RISE_CUT_WINDOW (R78): At the end of each 1,000-tick window, RISE_CUT is raised, lowered or kept. -/
  | riseCutWindow
  /-- PACE_EVT_ACK (R84): A write of PACE_EVT_ACK equal to PACE_EVT_SEQ clears PACE_EVENTS. -/
  | paceEvtAck (f : HostFn) (seq : Word)
  /-- ORB_AUTO (R526): An ORB_CMD AUTO command gives the channel's target to its fan curve. -/
  | orbAuto (f : HostFn) (c : Fin 4)
  /-- ORB_MANUAL (R526): An ORB_CMD MANUAL command sets a signed rpm target, and may start a reversal. -/
  | orbManual (f : HostFn) (c : Fin 4) (rpm : BitVec 16)
  /-- ORB_STOP (R526): An ORB_CMD STOP command sets the target to 0 and stops the drive. -/
  | orbStop (f : HostFn) (c : Fin 4)
  /-- ORB_CLEAR (R526): An ORB_CMD CLEAR command ends a fault. -/
  | orbClear (f : HostFn) (c : Fin 4)
  /-- ORB_PENDING_COMMAND (R525): A queued or pending Orbit command takes effect when the channel stops being busy. -/
  | orbPendingCommand (c : Fin 4)
  /-- OBSERVE_TRANSITION (R515): A comparator pattern transition with every gate off continues or restarts the observation count. -/
  | observeTransition (c : Fin 4) (before : BitVec 3) (after : BitVec 3)
  /-- OBSERVE_END (R516): OBSERVE_MS ends, and Orbit catches the fan on the fly, brakes, or goes to POSITION. -/
  | observeEnd (c : Fin 4)
  /-- BRAKE_END (R514): BRAKE_MS ends, and the channel returns to OBSERVE. -/
  | brakeEnd (c : Fin 4)
  /-- POSITION_DONE (R518): The test pulses end, and Orbit picks the start step or goes to ALIGN. -/
  | positionDone (c : Fin 4) (trips : List (Option (Nat × Nat)))
  /-- ALIGN_END (R514): ALIGN_MS ends, and the rotor is taken at 0° before RAMP. -/
  | alignEnd (c : Fin 4)
  /-- RAMP_COMMUTATION (R519): An open-loop ramp commutation is forced at the commanded speed. -/
  | rampCommutation (c : Fin 4)
  /-- RAMP_FAIL (R519): The 500 ms ramp hold ends without hand-over, and Orbit brakes and retries or faults START_FAIL. -/
  | rampFail (c : Fin 4)
  /-- ZERO_CROSSING (R511): A valid back-EMF zero crossing updates t_avg and schedules commutation, or counts toward hand-over. -/
  | zeroCrossing (c : Fin 4) (level : Bool) (seen : Bool)
  /-- COMMUTATION (R512): The timed commutation after a valid crossing advances the step. -/
  | commutation (c : Fin 4)
  /-- SYNC_LOSS (R513): No valid crossing within 2 × t_avg: every gate turns off and the channel restarts from OBSERVE, or faults STALL. -/
  | syncLoss (c : Fin 4)
  /-- OC_TRIP (R528): The current comparator trips, ending the high switch's on-time for the rest of the PWM period. -/
  | ocTrip (c : Fin 4) (isns : Nat)
  /-- OVERCURRENT (R527): The comparator has tripped in every period for OC_MS, and the channel faults OVERCURRENT. -/
  | overcurrent (c : Fin 4)
  /-- SHORT (R527): The current comparator is asserted with every gate off for 10 µs, and the channel faults SHORT. -/
  | short (c : Fin 4) (isns : Nat)
  /-- FAULT_RETRY (R528): RETRY_S in FAULT_WAIT expires, and a start sequence begins. -/
  | faultRetry (c : Fin 4)
  /-- SPEED_LOOP_UPDATE (R523): Every 10 ms in RUN, the speed loop updates the demanded duty. -/
  | speedLoopUpdate (c : Fin 4)
  /-- MEASUREMENT_LAPSE (R521): No valid crossing or transition arrives in time, and the speed report becomes 0 STOPPED. -/
  | measurementLapse (c : Fin 4)
  /-- FAULT_END (R529): After 5 s of RUN without a break following a retry, the channel leaves fault for Pace. -/
  | faultEnd (c : Fin 4)
  /-- FEATURE_FRAME (R477): Every 10 ms, Nightwatch forms band energies and runs the keyword network. -/
  | featureFrame
  /-- ALARM_BLOCK (R483): Every 4 ms block of the alarm input is examined by the tone and glass-break detectors. -/
  | alarmBlock
  /-- CHANNEL_DEAD (R475): A PDM channel without transitions for DEAD_MS becomes dead. -/
  | channelDead (c : Fin 8)
  /-- CHANNEL_ALIVE (R475): A dead channel with transitions for ALIVE_MS becomes alive. -/
  | channelAlive (c : Fin 8)
  /-- TSYNC_CAPTURE (R474): Every 1,000 samples, SCOUNT and Epoch are captured together into NW_TSYNC. -/
  | tsyncCapture
  /-- WAKE_DELIVERY (R488): A wake is delivered: the record is fixed, the window opens, and PWRREQ_N, WAKE_N and WAKE to Zenith assert. -/
  | wakeDelivery
  /-- WINDOW_TIMEOUT (R489): WINDOW_S expires: the pre-roll buffer closes, WINDOW_CLOSED is raised and the scrub begins. -/
  | windowTimeout
  /-- NW_CLOSE (R489): A write of NW_CLOSE equal to NW_WAKE_SEQ closes the wake window. -/
  | nwClose (f : HostFn) (seq : Word)
  /-- SCRUB_DONE (R493): The scrub of the pre-roll buffer completes, and recording restarts at offset 0. -/
  | scrubDone
  /-- NW_POST (R490): A write of NW_POST posts the delivered record, advances NW_WAKE_SEQ and sets READY. -/
  | nwPost (f : HostFn)
  /-- NW_WAKE_ACK (R490): A write of NW_WAKE_ACK equal to NW_WAKE_SEQ clears READY, releases WAKE_N and ends the busy period. -/
  | nwWakeAck (f : HostFn) (seq : Word)
  /-- NW_SIGNAL (R485): A write of NW_SIGNAL raises the HOST event of the pattern tables. -/
  | nwSignal (f : HostFn) (val : Word)
  /-- NW_MODE_LISTEN (R469): A write of NW_CTRL MODE LISTEN moves Nightwatch to LISTEN. -/
  | nwModeListen (f : HostFn)
  /-- NW_MODE_FULL (R469): A write of NW_CTRL MODE FULL moves a configured Nightwatch to FULL. -/
  | nwModeFull (f : HostFn)
  /-- NW_RESET (R498): NW_CTRL RESET makes Nightwatch UNCONFIGURED, scrubs the buffer and closes any window. -/
  | nwReset (f : HostFn)
  /-- NW_ENROL (R482): A write of NW_ENROL with OP ENROL starts enrolment of a user's keyword, or is dropped. -/
  | nwEnrol (f : HostFn) (user : Fin 8) (kw : Fin 16) (seq : BitVec 16)
  /-- NW_ENROL_DELETE (R482): A write of NW_ENROL with OP DELETE removes a template at once. -/
  | nwEnrolDelete (f : HostFn) (user : Fin 8) (kw : Fin 16) (seq : BitVec 16)
  /-- ENROL_TIMEOUT (R482): 30 s pass without 3 detections, and the enrolment ends with TIMEOUT. -/
  | enrolTimeout
  /-- CROSSING_ISOLATION (R17): Crust loses power, and the Nightwatch crossing is isolated, moving FULL to LISTEN. -/
  | crossingIsolation
  /-- PDM_CLOCK_CHANGE (R470): PDM_CLK changes frequency at a sample boundary, and a settle period starts. -/
  | pdmClockChange
  /-- SETTLE_END (R470): SETTLE_MS after a clock change ends, and channels yield real samples again. -/
  | settleEnd
  /-- FRAME_START_PACKET (R416): A CSI-2 Frame Start closes any open frame as short, opens a frame in the next slot and triggers the channel. -/
  | frameStartPacket (p : Fin 2) (vc : Fin 16) (number : BitVec 16) (corrected : Bool)
  /-- LONG_PACKET (R417): A long packet of the data type is written as the next line of the open frame. -/
  | longPacket (p : Fin 2) (vc : Fin 16) (dt : BitVec 6) (data : List Byte) (crcOk : Bool) (corrected : Bool)
  /-- FRAME_END_PACKET (R416): A CSI-2 Frame End closes the open frame as complete. -/
  | frameEndPacket (p : Fin 2) (vc : Fin 16) (corrected : Bool)
  /-- OTHER_PACKET (R416): A packet with a bad header, an unbound VC or an unsupported type is discarded and counted. -/
  | otherPacket (p : Fin 2) (vc : Fin 16) (x : RxOther)
  /-- MIPI_FRAME_DONE (R418): All writes of a closed frame are acknowledged, and DONE and the frame's record advance. -/
  | mipiFrameDone (p : Fin 2) (vc : Fin 16)
  /-- HPD_CHANGE (R439): The HPD level of an eDP port changes, and VOUT_EVT_SEQ advances. -/
  | hpdChange (p : Fin 2) (level : Bool)
  /-- EDP_TRAINING_START (R428): HPD has stayed high for 2 ms, and the port begins training. -/
  | edpTrainingStart (p : Fin 2)
  /-- EDP_LINK_LOSS (R428): HPD has stayed low for 2 ms, and the link is lost. -/
  | edpLinkLoss (p : Fin 2)
  /-- HPD_IRQ (R428): An HPD IRQ pulse makes the port read DPCD status and retrain if lock is lost. -/
  | hpdIrq (p : Fin 2) (lockLost : Bool)
  /-- TRAINING_DONE (R428): Training completes with the link up, or fails and schedules a retry. -/
  | trainingDone (p : Fin 2) (success : Bool)
  /-- TRAINING_RETRY (R428): 100 ms after a failed training, the port trains again. -/
  | trainingRetry (p : Fin 2)
  /-- PORT_RETRAIN (R428): VOUT_PORT_CMD RETRAIN starts a training at once. -/
  | portRetrain (f : HostFn) (g : Fin 4)
  /-- PORT_HOLD (R428): VOUT_PORT_CMD HOLD keeps the link down. -/
  | portHold (f : HostFn) (g : Fin 4)
  /-- PORT_RELEASE (R428): VOUT_PORT_CMD RELEASE ends a HOLD. -/
  | portRelease (f : HostFn) (g : Fin 4)
  /-- AUX_NATIVE_READ (R429): A VOUT_AUX_CMD native read starts an AUX transaction, or is dropped if one is pending. -/
  | auxNativeRead (f : HostFn) (p : Fin 2) (len : Fin 16) (seq : BitVec 16)
  /-- AUX_NATIVE_WRITE (R429): A VOUT_AUX_CMD native write starts an AUX transaction, or is dropped. -/
  | auxNativeWrite (f : HostFn) (p : Fin 2) (len : Fin 16) (seq : BitVec 16)
  /-- AUX_I2C_READ (R429): A VOUT_AUX_CMD I²C-over-AUX read starts an AUX transaction, or is dropped. -/
  | auxI2cRead (f : HostFn) (p : Fin 2) (len : Fin 16) (seq : BitVec 16)
  /-- AUX_I2C_WRITE (R429): A VOUT_AUX_CMD I²C-over-AUX write starts an AUX transaction, or is dropped. -/
  | auxI2cWrite (f : HostFn) (p : Fin 2) (len : Fin 16) (seq : BitVec 16)
  /-- AUX_COMPLETE (R429): An AUX transaction ends, and VOUT_AUX_RESULT reports its status with SEQ. -/
  | auxComplete (r : AuxReply) (data : List Byte)
  /-- AUX_DEFER_RETRY (R429): 400 µs after a DEFER reply, the AUX transaction is retried. -/
  | auxDeferRetry
  /-- DSI_PUSH (R431): A write of VOUT_DSI_PUSH queues a DCS packet, or is dropped when the queue is full. -/
  | dsiPush (f : HostFn)
  /-- DSI_INIT_ENTRY (R431): After its predecessor's DELAY_MS, the next DSI_INIT packet is sent in LPDT. -/
  | dsiInitEntry
  /-- SCANOUT_LINE (R423): A line of each layer is scanned out and blended, and late data is shown as FILL. -/
  | scanoutLine (g : Fin 4) (reads : List ScanRead)
  /-- HOT_RESET (R450): A Hot Reset on a port resets every function of that port as an FLR does. -/
  | hotReset (p : PPort)
  /-- DL_DOWN (R450): A DL_Down not caused by PERST_N resets the port's functions, and traffic through the port completes poisoned or is discarded. -/
  | dlDown (p : PPort)
  /-- FLR (R169): An FLR stops the function's jobs without records, resets its contexts and mailboxes, and releases their reservations. -/
  | flr (f : HostFn)
  /-- VF_ENABLE_WRITE (R575): Setting or clearing VF Enable makes VFs exist, or removes them as by FLR. -/
  | vfEnableWrite (p : PPort) (enable : Bool)
  /-- CONFIG_WRITE (R558): A configuration write to another field stores its value, clamped to its legal values. -/
  | configWrite (f : HostFn) (off : Nat) (be : BitVec 4) (data : Word)
  /-- D3HOT (R449): Entering D3hot stops the function's BARs decoding and its MSI-X messages. -/
  | d3hot (f : HostFn)
  /-- BAR4_READ (R553): A BAR4 read is split into 64 B blocks, each checked and routed, and completes with zero for denied blocks. -/
  | bar4Read (f : HostFn) (off : Nat) (len : Nat) (err : List MemErr) (e : ExtReply)
  /-- BAR4_WRITE (R553): A BAR4 write is split into 64 B blocks, and denied or unmapped blocks are dropped. -/
  | bar4Write (f : HostFn) (off : Nat) (data : List Byte) (en : Nat) (ep : Bool) (err : List MemErr) (e : ExtReply)
  /-- UNSUPPORTED_REQUEST (R447): A request outside every BAR, an I/O request, an AtomicOp or an unsupported message completes Unsupported Request. -/
  | unsupportedRequest (f : HostFn)
  /-- ENTDAA (R455): The I3C CCC ENTDAA assigns a dynamic address. -/
  | entdaa (addr : BitVec 7)
  /-- SETDASA (R455): The I3C CCC SETDASA sets the dynamic address from the static one. -/
  | setdasa (sa : BitVec 7) (addr : BitVec 7)
  /-- SETNEWDA (R455): The I3C CCC SETNEWDA changes the dynamic address. -/
  | setnewda (addr : BitVec 7)
  /-- RSTDAA (R455): The I3C CCC RSTDAA clears the dynamic address and returns the target to I²C mode. -/
  | rstdaa
  /-- ENEC (R455): The I3C CCC ENEC enables IBIs. -/
  | enec
  /-- DISEC (R455): The I3C CCC DISEC disables IBIs. -/
  | disec
  /-- GETPID (R455): The I3C CCC GETPID returns the provisional ID. -/
  | getpid
  /-- GETBCR (R455): The I3C CCC GETBCR returns BCR 0x06. -/
  | getbcr
  /-- GETDCR (R455): The I3C CCC GETDCR returns DCR 0x00. -/
  | getdcr
  /-- GETSTATUS (R455): The I3C CCC GETSTATUS returns the target status. -/
  | getstatus
  /-- GETMWL (R455): The I3C CCC GETMWL returns the maximum write length. -/
  | getmwl
  /-- GETMRL (R455): The I3C CCC GETMRL returns the maximum read length. -/
  | getmrl
  /-- SETMWL (R455): The I3C CCC SETMWL sets the maximum write length. -/
  | setmwl (n : BitVec 16)
  /-- SETMRL (R455): The I3C CCC SETMRL sets the maximum read length. -/
  | setmrl (n : BitVec 16)
  /-- SB_TRIG (R457): A sideband TRIG write requests a Procedure start, or is dropped and counted in SBD_SB_TRIGDROP. -/
  | sbTrig (proc : Fin 64) (arg : BitVec 16)
  /-- SB_TOHOST (R456): A sideband TOHOST write loads SBD_SB_FROMSB and advances its SEQ. -/
  | sbTohost (msg : Word)
  /-- SB_TOSB (R456): A host write of SBD_SB_TOSB advances FROMSEQ and raises an IBI when enabled. -/
  | sbTosb (f : HostFn) (msg : Word)
  /-- IBI_RETRY (R458): A NACKed IBI is retried at the next Bus Available condition. -/
  | ibiRetry (accepted : Bool)
  /-- SPI_GO (R460): A write of SBD_SPI_GO sends a pass-through flash command, or is dropped while busy or during a flash load. -/
  | spiGo (f : HostFn) (len : BitVec 9) (seq : BitVec 16)
  /-- SPI_PASSTHROUGH_DONE (R460): A pass-through flash command completes, and SBD_SPI_RESULT reports it. -/
  | spiPassthroughDone (data : List Byte)
  /-- GPIO_SET (R463): A write of SBD_GPIO_SET sets the named output bits. -/
  | gpioSet (f : HostFn) (bits : BitVec 16)
  /-- GPIO_CLR (R463): A write of SBD_GPIO_CLR clears the named output bits. -/
  | gpioClr (f : HostFn) (bits : BitVec 16)
  /-- GPIO_EDGE (R464): A configured GPIO edge stable for 1 µs sets SBD_GPIO_EVT and advances SBD_EVT_SEQ. -/
  | gpioEdge (gpio : Fin 16)
  /-- SBD_EVT_ACK (R464): A write of SBD_EVT_ACK equal to SBD_EVT_SEQ clears SBD_GPIO_EVT. -/
  | sbdEvtAck (f : HostFn) (seq : Word)
  /-- TAP_BYPASS (R465): The TAP instruction BYPASS selects the bypass register. -/
  | tapBypass
  /-- TAP_IDCODE (R465): The TAP instruction IDCODE returns 0x0460_15CF. -/
  | tapIdcode
  /-- TAP_SAMPLE_PRELOAD (R465): The TAP instruction SAMPLE/PRELOAD samples or preloads the chain. -/
  | tapSamplePreload (preload : List Bool)
  /-- TAP_EXTEST (R465): The TAP instruction EXTEST takes the chain's pins from their functions. -/
  | tapExtest (preload : List Bool)
  /-- TAP_CLAMP (R465): The TAP instruction CLAMP drives the chain's preloaded values with bypass selected. -/
  | tapClamp
  /-- TAP_HIGHZ (R465): The TAP instruction HIGHZ sets the chain's outputs to high impedance. -/
  | tapHighz
  /-- FAULT_LOG_WRITE (R537): Each Crust cycle, the log takes one queued fault and merges it into the latest record or writes a new record. -/
  | faultLogWrite
  /-- VDD_HEARTH_RETURN (R156): VDD_HEARTH becomes good again, and the Hearth domains whose requests are ON turn on in dependency order, holding nothing. -/
  | vddHearthReturn
  /-- VRET_LOSS (R495): VRET is removed: NW_RETAIN turns off and the enrolment templates in retention memory are lost. -/
  | vretLoss
  /-- VRET_RETURN (R155): VRET becomes present again, and NW_RETAIN is ON with contents that are not valid until the next CRC check. -/
  | vretReturn
  /-- LINK_DETECT (R315): In DETECT, a Meridian link finds the peer's receivers and signal and enters TRAIN. -/
  | linkDetect (l : Fin 4)
  /-- MERIDIAN_TRAIN_DONE (R316): Meridian training completes: after Meridian-1 the ends exchange MAX_GEN and retrain at Meridian-2, or the link enters IDENT. -/
  | meridianTrainDone (l : Fin 4) (peerGen : Nat) (lanes : List (Fin 8 × Bool))
  /-- MIPI_PORT_STATE_CHANGE (R438): A MIPI receive port's PHY changes between STOP, HS and ULPS, and VIN_EVT_SEQ advances. -/
  | mipiPortStateChange (p : Fin 2) (st : Fin 4)
  /-- DL_UP (R450): A PCIe port's link trains back to L0 after a DL_Down, traffic through the port resumes, and SBD_PCIE_STATUS and SBD_EVT_SEQ change. -/
  | dlUp (p : PPort) (gen : Fin 6) (width : Fin 5)
  /-- ASPM_L1_ENTRY (R440): A PCIe link enters ASPM L1 or an L1 substate, leaving L0 and advancing SBD_EVT_SEQ. -/
  | aspmL1Entry (p : PPort)
  /-- ASPM_L1_EXIT (R451): A PCIe link returns from L1 or L1.2 to L0 and advances SBD_EVT_SEQ. -/
  | aspmL1Exit (p : PPort)
  /-- POISONED_TLP_RECEIVED (R447): A write TLP with EP set to BAR0 or BAR2 is dropped, and AER records Poisoned TLP Received. -/
  | poisonedTlpReceived (f : HostFn)
  /-- ECRC_ERROR (R447): A TLP that fails its ECRC check while checking is enabled is dropped, and AER records ECRC Error. -/
  | ecrcError (f : HostFn)
  /-- GPIO_INPUT_CHANGE (R179): A GPIO input level changes, which updates SBD_GPIO_IN and Zenith input 6 and triggers evaluation passes. -/
  | gpioInputChange (gpio : Fin 16) (level : Bool)
  /-- SAMPLE_BOUNDARY (R492): At each 16 kHz sample, SCOUNT advances, the decimated samples go to the I2S output, and the recorded channels are written to the pre-roll buffer. -/
  | sampleBoundary (bits : List (List Bool))
  /-- REGISTER_READ (R48): A BAR0 read that is denied, mis-sized, aimed at a powered-off block or at the pre-roll window outside a wake window returns zero and counts or logs the fault. -/
  | registerRead (f : HostFn) (bar2 : Bool) (off : Nat) (size : Nat)
  /-- TAP_RESET (R465): TRST_N, or the TAP reset sequence on TMS, resets the TAP controller and returns the pins of the chain to their functions. -/
  | tapReset
  deriving DecidableEq, Repr

end Sys2Proof
end

