-- ==== Sys2Proof/Decode.lean ====
section
/-! DEFINITION. The decoding of table words. No row of spec/opcode_table.json gives bits: the commands come from outside as
events, register accesses and messages, and none of them is a word. -/
namespace Sys2Proof

/-- The command that a word spells: none, since no row has bits. -/
def decodeTableWord (_nbits _w : Nat) : Option Instr := none

end Sys2Proof
end

