-- ==== Sys2Proof/Config.lean ====
section
/-! DEFINITION. What an implementation fixes, and the free values: values that the spec leaves open after an effect it
gives. A free value is an opaque constant with no body, applied to a counter of the state or to the operands. -/
namespace Sys2Proof.Config

/-- The fresh value drawn at a count of the state's free-value counter (notes/assumptions/4.md). -/
opaque freeValue : Nat → Word

/-- A fresh byte, drawn likewise. -/
opaque freeByte : Nat → Byte

/-- The 64-bit unit identity fused into this package at manufacture, unique to it (R317; notes/assumptions/4.md). -/
opaque unitIdentity : BitVec 64

/-- The fixed half-band filter of Nightwatch, over its latest 31 inputs, newest first, in units of 2^-24: R471 bounds its
response and gives no coefficient (notes/assumptions/27.md). -/
opaque halfBand : List Int → Int

/-- Energy of a feature band (samples newest first; LO, CTR, HI) over that of a full-scale sine, as a numerator and a
denominator (R477; notes/assumptions/27.md). -/
opaque bandEnergy : List Int → Nat → Nat → Nat → Nat × Nat

/-- Energy of a Goertzel bin of an alarm block at a frequency in Hz, in the unit of the block's total energy (R483;
notes/assumptions/27.md). -/
opaque binEnergy : List Int → Nat → Nat

/-- Energies of an alarm block above and below a frequency in Hz (R484; notes/assumptions/27.md). -/
opaque splitEnergy : List Int → Nat → Nat × Nat

/-- Components of the unit vector that an embedding of zeros normalises to (R480, R482; notes/assumptions/27.md). -/
opaque zeroUnit : Nat → Int

end Sys2Proof.Config
end

