-- ==== Sys2Proof/Machine/Bits.lean ====
section
/-! DEFINITION. Bit fields of a word and byte order (R5, R7). -/
namespace Sys2Proof

/-- Bits [hi:lo] of a word, as a number. -/
def bitsOf (hi lo : Nat) (w : Word) : Nat := (w.toNat >>> lo) % 2 ^ (hi + 1 - lo)

/-- The word with bits [hi:lo] set to `v` (its low bits) and every other bit kept. -/
def withBits (hi lo : Nat) (v : Nat) (w : Word) : Word :=
  let n := w.toNat
  BitVec.ofNat 32 (n % 2 ^ lo + (v % 2 ^ (hi + 1 - lo)) * 2 ^ lo + (n / 2 ^ (hi + 1)) * 2 ^ (hi + 1))

/-- The number with bit `i` set or cleared. -/
def putBit (i : Nat) (b : Bool) (n : Nat) : Nat :=
  if n.testBit i == b then n else if b then n + 2 ^ i else n - 2 ^ i

/-- A natural number of `w` bits read as a signed one. -/
def signedOf (w n : Nat) : Int :=
  let m := n % 2 ^ w
  if m < 2 ^ (w - 1) then (m : Int) else (m : Int) - (2 ^ w : Nat)

/-- The two's complement of `w` bits of an integer. -/
def unsignedOf (w : Nat) (i : Int) : Nat := (i % ((2 ^ w : Nat) : Int)).toNat

/-- Little-endian value of a list of bytes. -/
def leVal : List Byte → Nat
  | [] => 0
  | b :: bs => b.toNat + 256 * leVal bs

/-- The `n` little-endian bytes of a value. -/
def leBytes : Nat → Nat → List Byte
  | 0, _ => []
  | n + 1, v => BitVec.ofNat 8 v :: leBytes n (v / 256)

/-- `n` bytes of a list from an offset. -/
def slice {α : Type} (off n : Nat) (l : List α) : List α := (l.drop off).take n

/-- The little-endian field of `n` bytes at an offset. -/
def leAt (off n : Nat) (l : List Byte) : Nat := leVal (slice off n l)

/-- Two's complement field of `n` bytes at an offset. -/
def leSAt (off n : Nat) (l : List Byte) : Int := signedOf (8 * n) (leAt off n l)

/-- Integer division rounding to nearest, ties to even; the divisor is positive. -/
def divNearestEven (a : Int) (b : Nat) : Int :=
  let q := a.fdiv b
  let r := a.fmod b
  if 2 * r < (b : Int) then q
  else if 2 * r > (b : Int) then q + 1
  else if q % 2 = 0 then q else q + 1

end Sys2Proof
end

