-- ==== Sys2Proof/Machine/RegMap.lean ====
section
/-! DEFINITION. BAR0's register map (R45, R547, R548, R550): the offset of every register, its fields, their access
types (R6) and legal ranges (R8). A register's name is the manual's; a family's offset is a function of its indexes. -/
namespace Sys2Proof

/-- A field of a register: the register's BAR0 offset and the field's bits. -/
structure Fld where
  /-- BAR0 offset of the register. -/
  off : Nat
  /-- Most significant bit. -/
  hi : Nat
  /-- Least significant bit. -/
  lo : Nat
  deriving DecidableEq, Repr

/-- The access types of R6. -/
inductive Acc where
  | rw | ro | wo | w1c | rwl
  deriving DecidableEq, Repr

/-- One field of a register family as its table gives it. -/
structure FldDesc where
  hi : Nat
  lo : Nat
  acc : Acc
  /-- Legal range of an RW field (R8). -/
  min : Nat
  max : Nat
  deriving DecidableEq, Repr

/-- A register or a family of registers: its first offset, its indexes (count and stride) and its fields. -/
structure RegDesc where
  base : Nat
  /-- Outer index. -/
  n1 : Nat
  s1 : Nat
  /-- Inner index. -/
  n2 : Nat
  s2 : Nat
  flds : List FldDesc
  deriving DecidableEq, Repr

/-- DEVICE_ID (spec/00_scope, R4). -/
def Reg.DEVICE_ID : Nat := 0x0
/-- GLB_STATUS (spec/18_register_index, R548). -/
def Reg.GLB_STATUS : Nat := 0x4
/-- GLB_EPOCH_LO (spec/18_register_index, R548). -/
def Reg.GLB_EPOCH_LO : Nat := 0x8
/-- GLB_EPOCH_HI (spec/18_register_index, R548). -/
def Reg.GLB_EPOCH_HI : Nat := 0xc
/-- RCP_STATUS (spec/03_recipe_container, R550). -/
def Reg.RCP_STATUS : Nat := 0x10000
/-- RCP_BUILD_LO (spec/03_recipe_container, R550). -/
def Reg.RCP_BUILD_LO : Nat := 0x10004
/-- RCP_BUILD_HI (spec/03_recipe_container, R550). -/
def Reg.RCP_BUILD_HI : Nat := 0x10008
/-- RCP_ROLLBACK (spec/03_recipe_container, R550). -/
def Reg.RCP_ROLLBACK : Nat := 0x1000c
/-- RCP_FUSE (spec/03_recipe_container, R550). -/
def Reg.RCP_FUSE : Nat := 0x10010
/-- RCP_SRC_LO (spec/03_recipe_container, R550). -/
def Reg.RCP_SRC_LO : Nat := 0x10014
/-- RCP_SRC_HI (spec/03_recipe_container, R550). -/
def Reg.RCP_SRC_HI : Nat := 0x10018
/-- RCP_SRC_LEN (spec/03_recipe_container, R550). -/
def Reg.RCP_SRC_LEN : Nat := 0x1001c
/-- RCP_CMD (spec/03_recipe_container, R550). -/
def Reg.RCP_CMD : Nat := 0x10020
/-- RCP_RESULT (spec/03_recipe_container, R550). -/
def Reg.RCP_RESULT : Nat := 0x10024
/-- RCP_REJECT (spec/03_recipe_container, R550). -/
def Reg.RCP_REJECT : Nat := 0x10028
/-- RCP_REJECT_OFF (spec/03_recipe_container, R550). -/
def Reg.RCP_REJECT_OFF : Nat := 0x1002c
/-- RCP_DROP (spec/03_recipe_container, R550). -/
def Reg.RCP_DROP : Nat := 0x10030
/-- RCP_PATCHCFG (spec/03_recipe_container, R550). -/
def Reg.RCP_PATCHCFG : Nat := 0x10034
/-- RCP_EVT_SEQ (spec/03_recipe_container, R550). -/
def Reg.RCP_EVT_SEQ : Nat := 0x10038
/-- RCP_BAKERY (spec/03_recipe_container, R550). -/
def Reg.RCP_BAKERY (b : Nat) : Nat := 0x10040 + 4 * b
/-- PWR_STATUS (spec/05_power_and_startup, R550). -/
def Reg.PWR_STATUS : Nat := 0x20000
/-- PWR_BAKRST (spec/05_power_and_startup, R550). -/
def Reg.PWR_BAKRST : Nat := 0x20004
/-- PWR_BAKRST_DONE (spec/05_power_and_startup, R550). -/
def Reg.PWR_BAKRST_DONE : Nat := 0x20008
/-- PWR_ON (spec/05_power_and_startup, R550). -/
def Reg.PWR_ON (w : Nat) : Nat := 0x20010 + 4 * w
/-- PWR_RETN (spec/05_power_and_startup, R550). -/
def Reg.PWR_RETN (w : Nat) : Nat := 0x20030 + 4 * w
/-- PWR_PEND (spec/05_power_and_startup, R550). -/
def Reg.PWR_PEND (w : Nat) : Nat := 0x20050 + 4 * w
/-- PWR_REQ (spec/05_power_and_startup, R186). -/
def Reg.PWR_REQ (d : Nat) : Nat := 0x20100 + 4 * d
/-- PACE_CTRL (spec/02_handshakes_and_pace, R550). -/
def Reg.PACE_CTRL : Nat := 0x30000
/-- PACE_STATUS (spec/02_handshakes_and_pace, R550). -/
def Reg.PACE_STATUS : Nat := 0x30004
/-- PACE_VOLT (spec/02_handshakes_and_pace, R550). -/
def Reg.PACE_VOLT : Nat := 0x30008
/-- PACE_VSET (spec/02_handshakes_and_pace, R550). -/
def Reg.PACE_VSET : Nat := 0x3000c
/-- PACE_MARGIN (spec/02_handshakes_and_pace, R550). -/
def Reg.PACE_MARGIN : Nat := 0x30010
/-- PACE_CEIL (spec/02_handshakes_and_pace, R550). -/
def Reg.PACE_CEIL : Nat := 0x30014
/-- PACE_POWER (spec/02_handshakes_and_pace, R550). -/
def Reg.PACE_POWER : Nat := 0x30018
/-- PACE_TEMP (spec/02_handshakes_and_pace, R550). -/
def Reg.PACE_TEMP : Nat := 0x3001c
/-- PACE_COOL (spec/02_handshakes_and_pace, R550). -/
def Reg.PACE_COOL : Nat := 0x30020
/-- PACE_SHORT (spec/02_handshakes_and_pace, R550). -/
def Reg.PACE_SHORT : Nat := 0x30024
/-- PACE_EVENTS (spec/02_handshakes_and_pace, R550). -/
def Reg.PACE_EVENTS : Nat := 0x30028
/-- PACE_EVT_SEQ (spec/02_handshakes_and_pace, R550). -/
def Reg.PACE_EVT_SEQ : Nat := 0x3002c
/-- PACE_AVS (spec/02_handshakes_and_pace, R550). -/
def Reg.PACE_AVS : Nat := 0x30030
/-- PACE_REGSTAT (spec/02_handshakes_and_pace, R550). -/
def Reg.PACE_REGSTAT : Nat := 0x30034
/-- PACE_EVT_ACK (spec/02_handshakes_and_pace, R550). -/
def Reg.PACE_EVT_ACK : Nat := 0x30038
/-- PACE_COOLCFG (spec/02_handshakes_and_pace, R550). -/
def Reg.PACE_COOLCFG : Nat := 0x3003c
/-- PACE_BREF (spec/02_handshakes_and_pace, R550). -/
def Reg.PACE_BREF (b : Nat) : Nat := 0x30040 + 4 * b
/-- PACE_SENT (spec/02_handshakes_and_pace, R550). -/
def Reg.PACE_SENT (n : Nat) : Nat := 0x30100 + 4 * n
/-- PACE_WORK (spec/02_handshakes_and_pace, R550). -/
def Reg.PACE_WORK (n : Nat) : Nat := 0x30200 + 4 * n
/-- ZEN_TRIG (spec/05_power_and_startup, R187). -/
def Reg.ZEN_TRIG : Nat := 0x40000
/-- ZEN_SIGNAL (spec/05_power_and_startup, R187). -/
def Reg.ZEN_SIGNAL : Nat := 0x40004
/-- ZEN_STATUS (spec/05_power_and_startup, R187). -/
def Reg.ZEN_STATUS : Nat := 0x40008
/-- ZEN_EVT_CODE (spec/05_power_and_startup, R187). -/
def Reg.ZEN_EVT_CODE : Nat := 0x40010
/-- ZEN_EVT_SEQ (spec/05_power_and_startup, R187). -/
def Reg.ZEN_EVT_SEQ : Nat := 0x40014
/-- ZEN_INST (spec/05_power_and_startup, R187). -/
def Reg.ZEN_INST (i : Nat) : Nat := 0x40040 + 4 * i
/-- ZEN_COUNT (spec/05_power_and_startup, R187). -/
def Reg.ZEN_COUNT (p : Nat) : Nat := 0x40100 + 4 * p
/-- FAB_BULKAGE (spec/06_racks, R550). -/
def Reg.FAB_BULKAGE : Nat := 0x80000
/-- FAB_SYSW (spec/06_racks, R550). -/
def Reg.FAB_SYSW : Nat := 0x80004
/-- FAB_STALLCFG (spec/06_racks, R550). -/
def Reg.FAB_STALLCFG : Nat := 0x80008
/-- FAB_STALL (spec/06_racks, R550). -/
def Reg.FAB_STALL : Nat := 0x8000c
/-- FAB_TGT_CAP (spec/06_racks, R550). -/
def Reg.FAB_TGT_CAP (t : Nat) : Nat := 0x81000 + 4 * t
/-- FAB_TGT_RESV (spec/06_racks, R550). -/
def Reg.FAB_TGT_RESV (t : Nat) : Nat := 0x81400 + 4 * t
/-- FAB_TGT_REFUSED (spec/06_racks, R550). -/
def Reg.FAB_TGT_REFUSED (t : Nat) : Nat := 0x81800 + 4 * t
/-- FAB_TGT_DEMOTED (spec/06_racks, R550). -/
def Reg.FAB_TGT_DEMOTED (t : Nat) : Nat := 0x81c00 + 4 * t
/-- FAB_TGT_PROMOTED (spec/06_racks, R550). -/
def Reg.FAB_TGT_PROMOTED (t : Nat) : Nat := 0x82000 + 4 * t
/-- FAB_RACKSTAT (spec/06_racks, R550). -/
def Reg.FAB_RACKSTAT (r : Nat) : Nat := 0x88000 + 8 * r
/-- FAB_RACKFRM (spec/06_racks, R550). -/
def Reg.FAB_RACKFRM (r : Nat) : Nat := 0x88004 + 8 * r
/-- MBX_DATA (spec/11_contexts_and_access, R382). -/
def Reg.MBX_DATA (m : Nat) (k : Nat) : Nat := 0xa0000 + 64 * m + 4 * k
/-- MBX_STAT (spec/11_contexts_and_access, R382). -/
def Reg.MBX_STAT (m : Nat) : Nat := 0xa4000 + 8 * m
/-- MBX_SEQ (spec/11_contexts_and_access, R382). -/
def Reg.MBX_SEQ (m : Nat) : Nat := 0xa4004 + 8 * m
/-- MBX_ACK (spec/11_contexts_and_access, R382). -/
def Reg.MBX_ACK (m : Nat) : Nat := 0xa6000 + 4 * m
/-- MBX_OWNER (spec/11_contexts_and_access, R382). -/
def Reg.MBX_OWNER (m : Nat) : Nat := 0xa7000 + 4 * m
/-- AWT_CIRCLE (spec/11_contexts_and_access, R383). -/
def Reg.AWT_CIRCLE (i : Nat) : Nat := 0xc0000 + 4 * i
/-- AWT_TGT (spec/11_contexts_and_access, R383). -/
def Reg.AWT_TGT (t : Nat) : Nat := 0xc4000 + 4 * t
/-- AWT_DENY (spec/11_contexts_and_access, R383). -/
def Reg.AWT_DENY (t : Nat) : Nat := 0xc4400 + 4 * t
/-- AWT_BASE_LO (spec/11_contexts_and_access, R383). -/
def Reg.AWT_BASE_LO (t : Nat) (e : Nat) : Nat := 0xc8000 + 2048 * t + 32 * e
/-- AWT_BASE_HI (spec/11_contexts_and_access, R383). -/
def Reg.AWT_BASE_HI (t : Nat) (e : Nat) : Nat := 0xc8004 + 2048 * t + 32 * e
/-- AWT_LIMIT_LO (spec/11_contexts_and_access, R383). -/
def Reg.AWT_LIMIT_LO (t : Nat) (e : Nat) : Nat := 0xc8008 + 2048 * t + 32 * e
/-- AWT_LIMIT_HI (spec/11_contexts_and_access, R383). -/
def Reg.AWT_LIMIT_HI (t : Nat) (e : Nat) : Nat := 0xc800c + 2048 * t + 32 * e
/-- AWT_RD_LO (spec/11_contexts_and_access, R383). -/
def Reg.AWT_RD_LO (t : Nat) (e : Nat) : Nat := 0xc8010 + 2048 * t + 32 * e
/-- AWT_RD_HI (spec/11_contexts_and_access, R383). -/
def Reg.AWT_RD_HI (t : Nat) (e : Nat) : Nat := 0xc8014 + 2048 * t + 32 * e
/-- AWT_WR_LO (spec/11_contexts_and_access, R383). -/
def Reg.AWT_WR_LO (t : Nat) (e : Nat) : Nat := 0xc8018 + 2048 * t + 32 * e
/-- AWT_WR_HI (spec/11_contexts_and_access, R383). -/
def Reg.AWT_WR_HI (t : Nat) (e : Nat) : Nat := 0xc801c + 2048 * t + 32 * e
/-- CTX_SQ_BASE_LO (spec/11_contexts_and_access, R381). -/
def Reg.CTX_SQ_BASE_LO (c : Nat) : Nat := 0x100000 + 64 * c
/-- CTX_SQ_BASE_HI (spec/11_contexts_and_access, R381). -/
def Reg.CTX_SQ_BASE_HI (c : Nat) : Nat := 0x100004 + 64 * c
/-- CTX_CQ_BASE_LO (spec/11_contexts_and_access, R381). -/
def Reg.CTX_CQ_BASE_LO (c : Nat) : Nat := 0x100008 + 64 * c
/-- CTX_CQ_BASE_HI (spec/11_contexts_and_access, R381). -/
def Reg.CTX_CQ_BASE_HI (c : Nat) : Nat := 0x10000c + 64 * c
/-- CTX_CFG (spec/11_contexts_and_access, R381). -/
def Reg.CTX_CFG (c : Nat) : Nat := 0x100010 + 64 * c
/-- CTX_CTRL (spec/11_contexts_and_access, R381). -/
def Reg.CTX_CTRL (c : Nat) : Nat := 0x100014 + 64 * c
/-- CTX_SQ_PTR (spec/11_contexts_and_access, R381). -/
def Reg.CTX_SQ_PTR (c : Nat) : Nat := 0x100018 + 64 * c
/-- CTX_CQ_PTR (spec/11_contexts_and_access, R381). -/
def Reg.CTX_CQ_PTR (c : Nat) : Nat := 0x10001c + 64 * c
/-- CTX_STATUS (spec/11_contexts_and_access, R381). -/
def Reg.CTX_STATUS (c : Nat) : Nat := 0x100020 + 64 * c
/-- CTX_OWNER (spec/11_contexts_and_access, R381). -/
def Reg.CTX_OWNER (c : Nat) : Nat := 0x100024 + 64 * c
/-- CTX_RECORDS (spec/11_contexts_and_access, R381). -/
def Reg.CTX_RECORDS (c : Nat) : Nat := 0x100028 + 64 * c
/-- STR_CTRL (spec/12_streams, R409). -/
def Reg.STR_CTRL (s : Nat) : Nat := 0x200000 + 4096 * s
/-- STR_STATUS (spec/12_streams, R409). -/
def Reg.STR_STATUS (s : Nat) : Nat := 0x200004 + 4096 * s
/-- STR_TRIG (spec/12_streams, R409). -/
def Reg.STR_TRIG (s : Nat) : Nat := 0x200008 + 4096 * s
/-- STR_SIGNAL (spec/12_streams, R409). -/
def Reg.STR_SIGNAL (s : Nat) : Nat := 0x20000c + 4096 * s
/-- STR_DROPS (spec/12_streams, R409). -/
def Reg.STR_DROPS (s : Nat) : Nat := 0x200010 + 4096 * s
/-- STR_ISSUED (spec/12_streams, R409). -/
def Reg.STR_ISSUED (s : Nat) : Nat := 0x200014 + 4096 * s
/-- STR_MISSES (spec/12_streams, R409). -/
def Reg.STR_MISSES (s : Nat) : Nat := 0x200018 + 4096 * s
/-- STR_UNDERRUNS (spec/12_streams, R409). -/
def Reg.STR_UNDERRUNS (s : Nat) : Nat := 0x20001c + 4096 * s
/-- STR_LAST_MISS_LO (spec/12_streams, R409). -/
def Reg.STR_LAST_MISS_LO (s : Nat) : Nat := 0x200020 + 4096 * s
/-- STR_LAST_MISS_HI (spec/12_streams, R409). -/
def Reg.STR_LAST_MISS_HI (s : Nat) : Nat := 0x200024 + 4096 * s
/-- STR_LAST_UNDER_LO (spec/12_streams, R409). -/
def Reg.STR_LAST_UNDER_LO (s : Nat) : Nat := 0x200028 + 4096 * s
/-- STR_LAST_UNDER_HI (spec/12_streams, R409). -/
def Reg.STR_LAST_UNDER_HI (s : Nat) : Nat := 0x20002c + 4096 * s
/-- STR_PRESENTED (spec/12_streams, R409). -/
def Reg.STR_PRESENTED (s : Nat) : Nat := 0x200030 + 4096 * s
/-- STR_EVT_CODE (spec/12_streams, R409). -/
def Reg.STR_EVT_CODE (s : Nat) : Nat := 0x200034 + 4096 * s
/-- STR_EVT_SEQ (spec/12_streams, R409). -/
def Reg.STR_EVT_SEQ (s : Nat) : Nat := 0x200038 + 4096 * s
/-- STR_NOGEN (spec/12_streams, R409). -/
def Reg.STR_NOGEN (s : Nat) : Nat := 0x20003c + 4096 * s
/-- OTG_CTRL (spec/12_streams, R410). -/
def Reg.OTG_CTRL (g : Nat) : Nat := 0x210000 + 256 * g
/-- OTG_STATUS (spec/12_streams, R410). -/
def Reg.OTG_STATUS (g : Nat) : Nat := 0x210004 + 256 * g
/-- OTG_MODE (spec/12_streams, R410). -/
def Reg.OTG_MODE (g : Nat) : Nat := 0x210008 + 256 * g
/-- OTG_AT (spec/12_streams, R410). -/
def Reg.OTG_AT (g : Nat) : Nat := 0x21000c + 256 * g
/-- OTG_FRAME (spec/12_streams, R410). -/
def Reg.OTG_FRAME (g : Nat) : Nat := 0x210010 + 256 * g
/-- OTG_START_LO (spec/12_streams, R410). -/
def Reg.OTG_START_LO (g : Nat) : Nat := 0x210014 + 256 * g
/-- OTG_START_HI (spec/12_streams, R410). -/
def Reg.OTG_START_HI (g : Nat) : Nat := 0x210018 + 256 * g
/-- OTG_PERIOD (spec/12_streams, R410). -/
def Reg.OTG_PERIOD (g : Nat) : Nat := 0x21001c + 256 * g
/-- GRP_SLOTS (spec/12_streams, R410). -/
def Reg.GRP_SLOTS (q : Nat) : Nat := 0x211000 + 256 * q
/-- GRP_STALLS (spec/12_streams, R410). -/
def Reg.GRP_STALLS (q : Nat) : Nat := 0x211004 + 256 * q
/-- GRP_STATE (spec/12_streams, R410). -/
def Reg.GRP_STATE (q : Nat) : Nat := 0x211008 + 256 * q
/-- MEM_CFG (spec/09_memory_and_slicers, R310). -/
def Reg.MEM_CFG : Nat := 0x300000
/-- MEM_SIZE (spec/09_memory_and_slicers, R310). -/
def Reg.MEM_SIZE : Nat := 0x300004
/-- MEM_POISON_DROP (spec/09_memory_and_slicers, R310). -/
def Reg.MEM_POISON_DROP : Nat := 0x300008
/-- MEM_CH (spec/09_memory_and_slicers, R310). -/
def Reg.MEM_CH (c : Nat) : Nat := 0x300010 + 4 * c
/-- MEM_CE (spec/09_memory_and_slicers, R310). -/
def Reg.MEM_CE (c : Nat) : Nat := 0x300080 + 4 * c
/-- MEM_UE (spec/09_memory_and_slicers, R310). -/
def Reg.MEM_UE (c : Nat) : Nat := 0x3000c0 + 4 * c
/-- MEM_LINKCE (spec/09_memory_and_slicers, R310). -/
def Reg.MEM_LINKCE (c : Nat) : Nat := 0x300100 + 4 * c
/-- MEM_HWIN_LO (spec/09_memory_and_slicers, R310). -/
def Reg.MEM_HWIN_LO (k : Nat) : Nat := 0x300200 + 16 * k
/-- MEM_HWIN_HI (spec/09_memory_and_slicers, R310). -/
def Reg.MEM_HWIN_HI (k : Nat) : Nat := 0x300204 + 16 * k
/-- MEM_HWIN_CTRL (spec/09_memory_and_slicers, R310). -/
def Reg.MEM_HWIN_CTRL (k : Nat) : Nat := 0x300208 + 16 * k
/-- MEM_WIN (spec/09_memory_and_slicers, R310). -/
def Reg.MEM_WIN (w : Nat) : Nat := 0x300800 + 4 * w
/-- CPY_STATUS (spec/09_memory_and_slicers, R311). -/
def Reg.CPY_STATUS (s : Nat) : Nat := 0x380000 + 4096 * s
/-- CPY_UNITS (spec/09_memory_and_slicers, R311). -/
def Reg.CPY_UNITS (s : Nat) : Nat := 0x380004 + 4096 * s
/-- CPY_STAGED (spec/09_memory_and_slicers, R311). -/
def Reg.CPY_STAGED (s : Nat) : Nat := 0x380008 + 4096 * s
/-- CPY_UNORDERED (spec/09_memory_and_slicers, R311). -/
def Reg.CPY_UNORDERED (s : Nat) : Nat := 0x38000c + 4096 * s
/-- MER_STATUS (spec/10_meridian, R347). -/
def Reg.MER_STATUS : Nat := 0x400000
/-- MER_SET (spec/10_meridian, R347). -/
def Reg.MER_SET : Nat := 0x400004
/-- MER_SET_DONE (spec/10_meridian, R347). -/
def Reg.MER_SET_DONE : Nat := 0x400008
/-- MER_RISE (spec/10_meridian, R347). -/
def Reg.MER_RISE : Nat := 0x40000c
/-- MER_EVT_SEQ (spec/10_meridian, R347). -/
def Reg.MER_EVT_SEQ : Nat := 0x400010
/-- MER_DENY (spec/10_meridian, R347). -/
def Reg.MER_DENY : Nat := 0x400014
/-- MER_EPOCH_STEP (spec/10_meridian, R347). -/
def Reg.MER_EPOCH_STEP : Nat := 0x400018
/-- MER_ROUTE (spec/10_meridian, R347). -/
def Reg.MER_ROUTE (h : Nat) : Nat := 0x400020 + 4 * h
/-- MER_LINK_STATUS (spec/10_meridian, R347). -/
def Reg.MER_LINK_STATUS (l : Nat) : Nat := 0x400100 + 64 * l
/-- MER_LINK_CTRL (spec/10_meridian, R347). -/
def Reg.MER_LINK_CTRL (l : Nat) : Nat := 0x400104 + 64 * l
/-- MER_LINK_FECCOR (spec/10_meridian, R347). -/
def Reg.MER_LINK_FECCOR (l : Nat) : Nat := 0x400108 + 64 * l
/-- MER_LINK_BAD (spec/10_meridian, R347). -/
def Reg.MER_LINK_BAD (l : Nat) : Nat := 0x40010c + 64 * l
/-- MER_LINK_REPLAY (spec/10_meridian, R347). -/
def Reg.MER_LINK_REPLAY (l : Nat) : Nat := 0x400110 + 64 * l
/-- MER_LINK_LOSTS (spec/10_meridian, R347). -/
def Reg.MER_LINK_LOSTS (l : Nat) : Nat := 0x400114 + 64 * l
/-- MER_LINK_TX (spec/10_meridian, R347). -/
def Reg.MER_LINK_TX (l : Nat) : Nat := 0x400118 + 64 * l
/-- MER_LINK_RX (spec/10_meridian, R347). -/
def Reg.MER_LINK_RX (l : Nat) : Nat := 0x40011c + 64 * l
/-- VIN_EVT_SEQ (spec/13_video_ports, R438). -/
def Reg.VIN_EVT_SEQ : Nat := 0x480000
/-- VIN_PORT_STATUS (spec/13_video_ports, R438). -/
def Reg.VIN_PORT_STATUS (p : Nat) : Nat := 0x480100 + 256 * p
/-- VIN_SOT_ERR (spec/13_video_ports, R438). -/
def Reg.VIN_SOT_ERR (p : Nat) : Nat := 0x480104 + 256 * p
/-- VIN_HDR_ERR (spec/13_video_ports, R438). -/
def Reg.VIN_HDR_ERR (p : Nat) : Nat := 0x480108 + 256 * p
/-- VIN_HDR_CORR (spec/13_video_ports, R438). -/
def Reg.VIN_HDR_CORR (p : Nat) : Nat := 0x48010c + 256 * p
/-- VIN_CRC_ERR (spec/13_video_ports, R438). -/
def Reg.VIN_CRC_ERR (p : Nat) : Nat := 0x480110 + 256 * p
/-- VIN_DT_OTHER (spec/13_video_ports, R438). -/
def Reg.VIN_DT_OTHER (p : Nat) : Nat := 0x480114 + 256 * p
/-- VIN_NOCHAN (spec/13_video_ports, R438). -/
def Reg.VIN_NOCHAN (p : Nat) : Nat := 0x480118 + 256 * p
/-- VIN_OVERFLOW (spec/13_video_ports, R438). -/
def Reg.VIN_OVERFLOW (p : Nat) : Nat := 0x48011c + 256 * p
/-- VIN_VC_FS (spec/13_video_ports, R438). -/
def Reg.VIN_VC_FS (p : Nat) (v : Nat) : Nat := 0x481000 + 1024 * p + 64 * v
/-- VIN_VC_DONE (spec/13_video_ports, R438). -/
def Reg.VIN_VC_DONE (p : Nat) (v : Nat) : Nat := 0x481004 + 1024 * p + 64 * v
/-- VIN_VC_SHORT (spec/13_video_ports, R438). -/
def Reg.VIN_VC_SHORT (p : Nat) (v : Nat) : Nat := 0x481008 + 1024 * p + 64 * v
/-- VIN_VC_TRUNC (spec/13_video_ports, R438). -/
def Reg.VIN_VC_TRUNC (p : Nat) (v : Nat) : Nat := 0x48100c + 1024 * p + 64 * v
/-- VIN_VC_LAST (spec/13_video_ports, R438). -/
def Reg.VIN_VC_LAST (p : Nat) (v : Nat) : Nat := 0x481010 + 1024 * p + 64 * v
/-- VIN_VC_LAST_T_LO (spec/13_video_ports, R438). -/
def Reg.VIN_VC_LAST_T_LO (p : Nat) (v : Nat) : Nat := 0x481014 + 1024 * p + 64 * v
/-- VIN_VC_LAST_T_HI (spec/13_video_ports, R438). -/
def Reg.VIN_VC_LAST_T_HI (p : Nat) (v : Nat) : Nat := 0x481018 + 1024 * p + 64 * v
/-- VOUT_EVT_SEQ (spec/13_video_ports, R439). -/
def Reg.VOUT_EVT_SEQ : Nat := 0x490000
/-- VOUT_PORT_STATUS (spec/13_video_ports, R439). -/
def Reg.VOUT_PORT_STATUS (g : Nat) : Nat := 0x490100 + 256 * g
/-- VOUT_PORT_CMD (spec/13_video_ports, R439). -/
def Reg.VOUT_PORT_CMD (g : Nat) : Nat := 0x490104 + 256 * g
/-- VOUT_PORT_VSYNC (spec/13_video_ports, R439). -/
def Reg.VOUT_PORT_VSYNC (g : Nat) : Nat := 0x490108 + 256 * g
/-- VOUT_TRAINS (spec/13_video_ports, R439). -/
def Reg.VOUT_TRAINS (g : Nat) : Nat := 0x49010c + 256 * g
/-- VOUT_TRAIN_FAILS (spec/13_video_ports, R439). -/
def Reg.VOUT_TRAIN_FAILS (g : Nat) : Nat := 0x490110 + 256 * g
/-- VOUT_LINK_LOSTS (spec/13_video_ports, R439). -/
def Reg.VOUT_LINK_LOSTS (g : Nat) : Nat := 0x490114 + 256 * g
/-- VOUT_SCANOUT_LATE (spec/13_video_ports, R439). -/
def Reg.VOUT_SCANOUT_LATE (g : Nat) : Nat := 0x490118 + 256 * g
/-- VOUT_SCANOUT_POISON (spec/13_video_ports, R439). -/
def Reg.VOUT_SCANOUT_POISON (g : Nat) : Nat := 0x49011c + 256 * g
/-- VOUT_AUX_CMD (spec/13_video_ports, R439). -/
def Reg.VOUT_AUX_CMD : Nat := 0x490800
/-- VOUT_AUX_ADDR (spec/13_video_ports, R439). -/
def Reg.VOUT_AUX_ADDR : Nat := 0x490804
/-- VOUT_AUX_RESULT (spec/13_video_ports, R439). -/
def Reg.VOUT_AUX_RESULT : Nat := 0x490820
/-- VOUT_AUX_DROPS (spec/13_video_ports, R439). -/
def Reg.VOUT_AUX_DROPS : Nat := 0x490824
/-- VOUT_DSI_HDR (spec/13_video_ports, R439). -/
def Reg.VOUT_DSI_HDR : Nat := 0x490a00
/-- VOUT_DSI_PUSH (spec/13_video_ports, R439). -/
def Reg.VOUT_DSI_PUSH : Nat := 0x490a20
/-- VOUT_DSI_STAT (spec/13_video_ports, R439). -/
def Reg.VOUT_DSI_STAT : Nat := 0x490a24
/-- VOUT_AUX_DATA (spec/13_video_ports, R439). -/
def Reg.VOUT_AUX_DATA (k : Nat) : Nat := 0x490810 + 4 * k
/-- VOUT_DSI_DATA (spec/13_video_ports, R439). -/
def Reg.VOUT_DSI_DATA (q : Nat) : Nat := 0x490a04 + 4 * q
/-- ORB_EVT_SEQ (spec/16_orbit, R533). -/
def Reg.ORB_EVT_SEQ : Nat := 0x500000
/-- ORB_TEMP (spec/16_orbit, R533). -/
def Reg.ORB_TEMP : Nat := 0x500004
/-- ORB_CMD (spec/16_orbit, R533). -/
def Reg.ORB_CMD (c : Nat) : Nat := 0x500100 + 256 * c
/-- ORB_STATE (spec/16_orbit, R533). -/
def Reg.ORB_STATE (c : Nat) : Nat := 0x500104 + 256 * c
/-- ORB_SPEED (spec/16_orbit, R533). -/
def Reg.ORB_SPEED (c : Nat) : Nat := 0x500108 + 256 * c
/-- ORB_TARGET (spec/16_orbit, R533). -/
def Reg.ORB_TARGET (c : Nat) : Nat := 0x50010c + 256 * c
/-- ORB_DUTY (spec/16_orbit, R533). -/
def Reg.ORB_DUTY (c : Nat) : Nat := 0x500110 + 256 * c
/-- ORB_BAND (spec/16_orbit, R533). -/
def Reg.ORB_BAND (c : Nat) : Nat := 0x500114 + 256 * c
/-- ORB_POS (spec/16_orbit, R533). -/
def Reg.ORB_POS (c : Nat) : Nat := 0x500118 + 256 * c
/-- ORB_DROPS (spec/16_orbit, R533). -/
def Reg.ORB_DROPS (c : Nat) : Nat := 0x50011c + 256 * c
/-- ORB_STARTS (spec/16_orbit, R533). -/
def Reg.ORB_STARTS (c : Nat) : Nat := 0x500120 + 256 * c
/-- ORB_SYNCLOSS (spec/16_orbit, R533). -/
def Reg.ORB_SYNCLOSS (c : Nat) : Nat := 0x500124 + 256 * c
/-- ORB_OCTRIPS (spec/16_orbit, R533). -/
def Reg.ORB_OCTRIPS (c : Nat) : Nat := 0x500128 + 256 * c
/-- ORB_FAULTS (spec/16_orbit, R533). -/
def Reg.ORB_FAULTS (c : Nat) : Nat := 0x50012c + 256 * c
/-- NW_STATUS (spec/15_nightwatch, R500). -/
def Reg.NW_STATUS : Nat := 0x580000
/-- NW_CTRL (spec/15_nightwatch, R500). -/
def Reg.NW_CTRL : Nat := 0x580004
/-- NW_SCOUNT_LO (spec/15_nightwatch, R500). -/
def Reg.NW_SCOUNT_LO : Nat := 0x580008
/-- NW_SCOUNT_HI (spec/15_nightwatch, R500). -/
def Reg.NW_SCOUNT_HI : Nat := 0x58000c
/-- NW_TSYNC_SC_LO (spec/15_nightwatch, R500). -/
def Reg.NW_TSYNC_SC_LO : Nat := 0x580010
/-- NW_TSYNC_SC_HI (spec/15_nightwatch, R500). -/
def Reg.NW_TSYNC_SC_HI : Nat := 0x580014
/-- NW_TSYNC_EP_LO (spec/15_nightwatch, R500). -/
def Reg.NW_TSYNC_EP_LO : Nat := 0x580018
/-- NW_TSYNC_EP_HI (spec/15_nightwatch, R500). -/
def Reg.NW_TSYNC_EP_HI : Nat := 0x58001c
/-- NW_CFG_CRC (spec/15_nightwatch, R500). -/
def Reg.NW_CFG_CRC : Nat := 0x580020
/-- NW_MODEL_ID (spec/15_nightwatch, R500). -/
def Reg.NW_MODEL_ID : Nat := 0x580024
/-- NW_SIGNAL (spec/15_nightwatch, R500). -/
def Reg.NW_SIGNAL : Nat := 0x580028
/-- NW_POST (spec/15_nightwatch, R500). -/
def Reg.NW_POST : Nat := 0x58002c
/-- NW_EVT_CODE (spec/15_nightwatch, R500). -/
def Reg.NW_EVT_CODE : Nat := 0x580030
/-- NW_EVT_SEQ (spec/15_nightwatch, R500). -/
def Reg.NW_EVT_SEQ : Nat := 0x580034
/-- NW_WAKE_STAT (spec/15_nightwatch, R500). -/
def Reg.NW_WAKE_STAT : Nat := 0x580080
/-- NW_WAKE_SEQ (spec/15_nightwatch, R500). -/
def Reg.NW_WAKE_SEQ : Nat := 0x580084
/-- NW_WAKE_ACK (spec/15_nightwatch, R500). -/
def Reg.NW_WAKE_ACK : Nat := 0x580088
/-- NW_CLOSE (spec/15_nightwatch, R500). -/
def Reg.NW_CLOSE : Nat := 0x58008c
/-- NW_PR_PAGE (spec/15_nightwatch, R500). -/
def Reg.NW_PR_PAGE : Nat := 0x580090
/-- NW_PR_WPTR (spec/15_nightwatch, R500). -/
def Reg.NW_PR_WPTR : Nat := 0x580094
/-- NW_ENROL (spec/15_nightwatch, R500). -/
def Reg.NW_ENROL : Nat := 0x5800a0
/-- NW_ENROL_RESULT (spec/15_nightwatch, R500). -/
def Reg.NW_ENROL_RESULT : Nat := 0x5800a4
/-- NW_ENROL_DROPS (spec/15_nightwatch, R500). -/
def Reg.NW_ENROL_DROPS : Nat := 0x5800a8
/-- NW_TONES (spec/15_nightwatch, R500). -/
def Reg.NW_TONES : Nat := 0x580180
/-- NW_IMPACTS (spec/15_nightwatch, R500). -/
def Reg.NW_IMPACTS : Nat := 0x580184
/-- NW_SHATTERS (spec/15_nightwatch, R500). -/
def Reg.NW_SHATTERS : Nat := 0x580188
/-- NW_SETTLES (spec/15_nightwatch, R500). -/
def Reg.NW_SETTLES : Nat := 0x5801a0
/-- NW_WAKE_DATA (spec/15_nightwatch, R500). -/
def Reg.NW_WAKE_DATA (k : Nat) : Nat := 0x580040 + 4 * k
/-- NW_ENROLLED (spec/15_nightwatch, R500). -/
def Reg.NW_ENROLLED (u : Nat) : Nat := 0x5800c0 + 4 * u
/-- NW_CH (spec/15_nightwatch, R500). -/
def Reg.NW_CH (c : Nat) : Nat := 0x5800e0 + 4 * c
/-- NW_CH_DEADS (spec/15_nightwatch, R500). -/
def Reg.NW_CH_DEADS (c : Nat) : Nat := 0x580100 + 4 * c
/-- NW_KW_COUNT (spec/15_nightwatch, R500). -/
def Reg.NW_KW_COUNT (k : Nat) : Nat := 0x580140 + 4 * k
/-- NW_TABLE (spec/15_nightwatch, R500). -/
def Reg.NW_TABLE (t : Nat) : Nat := 0x580190 + 4 * t
/-- SBD_EVT_SEQ (spec/14_host_and_sideband, R468). -/
def Reg.SBD_EVT_SEQ : Nat := 0x600000
/-- SBD_GPIO_IN (spec/14_host_and_sideband, R468). -/
def Reg.SBD_GPIO_IN : Nat := 0x600004
/-- SBD_GPIO_OUT (spec/14_host_and_sideband, R468). -/
def Reg.SBD_GPIO_OUT : Nat := 0x600008
/-- SBD_GPIO_DIR (spec/14_host_and_sideband, R468). -/
def Reg.SBD_GPIO_DIR : Nat := 0x60000c
/-- SBD_GPIO_OD (spec/14_host_and_sideband, R468). -/
def Reg.SBD_GPIO_OD : Nat := 0x600010
/-- SBD_GPIO_SET (spec/14_host_and_sideband, R468). -/
def Reg.SBD_GPIO_SET : Nat := 0x600014
/-- SBD_GPIO_CLR (spec/14_host_and_sideband, R468). -/
def Reg.SBD_GPIO_CLR : Nat := 0x600018
/-- SBD_GPIO_EVT (spec/14_host_and_sideband, R468). -/
def Reg.SBD_GPIO_EVT : Nat := 0x60001c
/-- SBD_GPIO_EDGECFG (spec/14_host_and_sideband, R468). -/
def Reg.SBD_GPIO_EDGECFG : Nat := 0x600020
/-- SBD_EVT_ACK (spec/14_host_and_sideband, R468). -/
def Reg.SBD_EVT_ACK : Nat := 0x600024
/-- SBD_SB_STATUS (spec/14_host_and_sideband, R468). -/
def Reg.SBD_SB_STATUS : Nat := 0x600040
/-- SBD_SB_TOSB (spec/14_host_and_sideband, R468). -/
def Reg.SBD_SB_TOSB : Nat := 0x600044
/-- SBD_SB_TOSB_SEQ (spec/14_host_and_sideband, R468). -/
def Reg.SBD_SB_TOSB_SEQ : Nat := 0x600048
/-- SBD_SB_FROMSB (spec/14_host_and_sideband, R468). -/
def Reg.SBD_SB_FROMSB : Nat := 0x60004c
/-- SBD_SB_FROMSB_SEQ (spec/14_host_and_sideband, R468). -/
def Reg.SBD_SB_FROMSB_SEQ : Nat := 0x600050
/-- SBD_SB_TRIGDROP (spec/14_host_and_sideband, R468). -/
def Reg.SBD_SB_TRIGDROP : Nat := 0x600054
/-- SBD_SPI_CMD (spec/14_host_and_sideband, R468). -/
def Reg.SBD_SPI_CMD : Nat := 0x600080
/-- SBD_SPI_ADDR (spec/14_host_and_sideband, R468). -/
def Reg.SBD_SPI_ADDR : Nat := 0x600084
/-- SBD_SPI_GO (spec/14_host_and_sideband, R468). -/
def Reg.SBD_SPI_GO : Nat := 0x600088
/-- SBD_SPI_RESULT (spec/14_host_and_sideband, R468). -/
def Reg.SBD_SPI_RESULT : Nat := 0x60008c
/-- SBD_SPI_DROPS (spec/14_host_and_sideband, R468). -/
def Reg.SBD_SPI_DROPS : Nat := 0x600090
/-- SBD_SPI_DATA (spec/14_host_and_sideband, R468). -/
def Reg.SBD_SPI_DATA (k : Nat) : Nat := 0x600100 + 4 * k
/-- SBD_PCIE_AP_LO (spec/14_host_and_sideband, R468). -/
def Reg.SBD_PCIE_AP_LO (f : Nat) : Nat := 0x600200 + 8 * f
/-- SBD_PCIE_AP_HI (spec/14_host_and_sideband, R468). -/
def Reg.SBD_PCIE_AP_HI (f : Nat) : Nat := 0x600204 + 8 * f
/-- SBD_PCIE_STATUS (spec/14_host_and_sideband, R468). -/
def Reg.SBD_PCIE_STATUS (p : Nat) : Nat := 0x600400 + 16 * p
/-- SBD_PCIE_DOWNS (spec/14_host_and_sideband, R468). -/
def Reg.SBD_PCIE_DOWNS (p : Nat) : Nat := 0x600404 + 16 * p
/-- SBD_PCIE_MSGLOST (spec/14_host_and_sideband, R468). -/
def Reg.SBD_PCIE_MSGLOST (p : Nat) : Nat := 0x600408 + 16 * p
/-- FLT_SEQ (spec/17_faults_and_clamps, R546). -/
def Reg.FLT_SEQ : Nat := 0x800000
/-- FLT_LOST (spec/17_faults_and_clamps, R546). -/
def Reg.FLT_LOST : Nat := 0x800004
/-- FLT_MERGED (spec/17_faults_and_clamps, R546). -/
def Reg.FLT_MERGED : Nat := 0x800008
/-- FLT_QUEUE (spec/17_faults_and_clamps, R546). -/
def Reg.FLT_QUEUE : Nat := 0x80000c
/-- FLT_COUNT (spec/17_faults_and_clamps, R546). -/
def Reg.FLT_COUNT (k : Nat) : Nat := 0x800100 + 4 * k
/-- FLT_REC (spec/17_faults_and_clamps, R546). -/
def Reg.FLT_REC (i : Nat) (w : Nat) : Nat := 0x900000 + 32 * i + 4 * w
/-- OVN_STATUS (spec/07_ovens, R550). -/
def Reg.OVN_STATUS (n : Nat) : Nat := 0x1000000 + 65536 * n
/-- OVN_CONFIG (spec/07_ovens, R550). -/
def Reg.OVN_CONFIG (n : Nat) : Nat := 0x1000004 + 65536 * n
/-- OVN_PASS (spec/07_ovens, R550). -/
def Reg.OVN_PASS (n : Nat) : Nat := 0x1000008 + 65536 * n
/-- OVN_HC_LO (spec/07_ovens, R550). -/
def Reg.OVN_HC_LO (n : Nat) : Nat := 0x1000010 + 65536 * n
/-- OVN_HC_HI (spec/07_ovens, R550). -/
def Reg.OVN_HC_HI (n : Nat) : Nat := 0x1000014 + 65536 * n
/-- OVN_ACCSAT (spec/07_ovens, R550). -/
def Reg.OVN_ACCSAT (n : Nat) : Nat := 0x1000030 + 65536 * n
/-- OVN_LANESAT (spec/07_ovens, R550). -/
def Reg.OVN_LANESAT (n : Nat) : Nat := 0x1000034 + 65536 * n
/-- OVN_WAITUS (spec/07_ovens, R550). -/
def Reg.OVN_WAITUS (n : Nat) (k : Nat) : Nat := 0x1000020 + 65536 * n + 4 * k

/-! Fields. -/

/-- Field of the register of that name. -/
def Fld.DEVICE_ID_FAMILY : Fld := ⟨Reg.DEVICE_ID, 31, 24⟩
/-- Field of the register of that name. -/
def Fld.DEVICE_ID_DEVICE : Fld := ⟨Reg.DEVICE_ID, 23, 16⟩
/-- Field of the register of that name. -/
def Fld.DEVICE_ID_OVEN_COUNT : Fld := ⟨Reg.DEVICE_ID, 15, 10⟩
/-- Field of the register of that name. -/
def Fld.DEVICE_ID_LVDS_PRESENT : Fld := ⟨Reg.DEVICE_ID, 9, 9⟩
/-- Field of the register of that name. -/
def Fld.DEVICE_ID_MEM_TYPE : Fld := ⟨Reg.DEVICE_ID, 8, 8⟩
/-- Field of the register of that name. -/
def Fld.DEVICE_ID_MEM_GRADE : Fld := ⟨Reg.DEVICE_ID, 7, 6⟩
/-- Field of the register of that name. -/
def Fld.DEVICE_ID_MEM_SIZE : Fld := ⟨Reg.DEVICE_ID, 5, 4⟩
/-- Field of the register of that name. -/
def Fld.DEVICE_ID_STEPPING : Fld := ⟨Reg.DEVICE_ID, 3, 0⟩
/-- Field of the register of that name. -/
def Fld.GLB_STATUS_HOME_ID : Fld := ⟨Reg.GLB_STATUS, 2, 0⟩
/-- Field of the register of that name. -/
def Fld.GLB_STATUS_PRIMARY : Fld := ⟨Reg.GLB_STATUS, 3, 3⟩
/-- Field of the register of that name. -/
def Fld.GLB_STATUS_BAKERY_MASK : Fld := ⟨Reg.GLB_STATUS, 31, 16⟩
/-- Field of the register of that name. -/
def Fld.GLB_EPOCH_LO_NS : Fld := ⟨Reg.GLB_EPOCH_LO, 31, 0⟩
/-- Field of the register of that name. -/
def Fld.GLB_EPOCH_HI_NS : Fld := ⟨Reg.GLB_EPOCH_HI, 31, 0⟩
/-- Field of the register of that name. -/
def Fld.RCP_STATUS_STATE : Fld := ⟨Reg.RCP_STATUS, 2, 0⟩
/-- Field of the register of that name. -/
def Fld.RCP_STATUS_OPEN_KEYS : Fld := ⟨Reg.RCP_STATUS, 3, 3⟩
/-- Field of the register of that name. -/
def Fld.RCP_STATUS_SOURCE : Fld := ⟨Reg.RCP_STATUS, 5, 4⟩
/-- Field of the register of that name. -/
def Fld.RCP_STATUS_BOOTSEL : Fld := ⟨Reg.RCP_STATUS, 7, 6⟩
/-- Field of the register of that name. -/
def Fld.RCP_STATUS_DEFERRED_DONE : Fld := ⟨Reg.RCP_STATUS, 8, 8⟩
/-- Field of the register of that name. -/
def Fld.RCP_BUILD_LO_BUILD : Fld := ⟨Reg.RCP_BUILD_LO, 31, 0⟩
/-- Field of the register of that name. -/
def Fld.RCP_BUILD_HI_BUILD : Fld := ⟨Reg.RCP_BUILD_HI, 31, 0⟩
/-- Field of the register of that name. -/
def Fld.RCP_ROLLBACK_RECIPE : Fld := ⟨Reg.RCP_ROLLBACK, 15, 0⟩
/-- Field of the register of that name. -/
def Fld.RCP_ROLLBACK_FUSED : Fld := ⟨Reg.RCP_ROLLBACK, 31, 16⟩
/-- Field of the register of that name. -/
def Fld.RCP_FUSE_PROG : Fld := ⟨Reg.RCP_FUSE, 3, 0⟩
/-- Field of the register of that name. -/
def Fld.RCP_FUSE_REVOKED : Fld := ⟨Reg.RCP_FUSE, 7, 4⟩
/-- Field of the register of that name. -/
def Fld.RCP_FUSE_SIGNED_BY : Fld := ⟨Reg.RCP_FUSE, 9, 8⟩
/-- Field of the register of that name. -/
def Fld.RCP_SRC_LO_ADDR : Fld := ⟨Reg.RCP_SRC_LO, 31, 6⟩
/-- Field of the register of that name. -/
def Fld.RCP_SRC_HI_ADDR : Fld := ⟨Reg.RCP_SRC_HI, 31, 0⟩
/-- Field of the register of that name. -/
def Fld.RCP_SRC_LEN_LEN : Fld := ⟨Reg.RCP_SRC_LEN, 25, 0⟩
/-- Field of the register of that name. -/
def Fld.RCP_CMD_CMD : Fld := ⟨Reg.RCP_CMD, 1, 0⟩
/-- Field of the register of that name. -/
def Fld.RCP_CMD_BAKERY : Fld := ⟨Reg.RCP_CMD, 7, 4⟩
/-- Field of the register of that name. -/
def Fld.RCP_CMD_SEQ : Fld := ⟨Reg.RCP_CMD, 31, 16⟩
/-- Field of the register of that name. -/
def Fld.RCP_RESULT_CAUSE : Fld := ⟨Reg.RCP_RESULT, 7, 0⟩
/-- Field of the register of that name. -/
def Fld.RCP_RESULT_KIND : Fld := ⟨Reg.RCP_RESULT, 9, 8⟩
/-- Field of the register of that name. -/
def Fld.RCP_RESULT_SEQ : Fld := ⟨Reg.RCP_RESULT, 31, 16⟩
/-- Field of the register of that name. -/
def Fld.RCP_REJECT_SECTION : Fld := ⟨Reg.RCP_REJECT, 15, 0⟩
/-- Field of the register of that name. -/
def Fld.RCP_REJECT_OFF_OFFSET : Fld := ⟨Reg.RCP_REJECT_OFF, 25, 0⟩
/-- Field of the register of that name. -/
def Fld.RCP_DROP_DROPPED : Fld := ⟨Reg.RCP_DROP, 15, 0⟩
/-- Field of the register of that name. -/
def Fld.RCP_PATCHCFG_DRAIN_MS : Fld := ⟨Reg.RCP_PATCHCFG, 9, 0⟩
/-- Field of the register of that name. -/
def Fld.RCP_EVT_SEQ_SEQ : Fld := ⟨Reg.RCP_EVT_SEQ, 31, 0⟩
/-- Field of the register of that name. -/
def Fld.RCP_BAKERY_STATE (b : Nat) : Fld := ⟨(Reg.RCP_BAKERY b), 1, 0⟩
/-- Field of the register of that name. -/
def Fld.RCP_BAKERY_PATCHES (b : Nat) : Fld := ⟨(Reg.RCP_BAKERY b), 15, 8⟩
/-- Field of the register of that name. -/
def Fld.RCP_BAKERY_LAST_CAUSE (b : Nat) : Fld := ⟨(Reg.RCP_BAKERY b), 23, 16⟩
/-- Field of the register of that name. -/
def Fld.PWR_STATUS_BUSY : Fld := ⟨Reg.PWR_STATUS, 0, 0⟩
/-- Field of the register of that name. -/
def Fld.PWR_STATUS_HEARTH_VOK : Fld := ⟨Reg.PWR_STATUS, 1, 1⟩
/-- Field of the register of that name. -/
def Fld.PWR_STATUS_HEARTH_EN : Fld := ⟨Reg.PWR_STATUS, 2, 2⟩
/-- Field of the register of that name. -/
def Fld.PWR_STATUS_LAST_RESET : Fld := ⟨Reg.PWR_STATUS, 4, 4⟩
/-- Field of the register of that name. -/
def Fld.PWR_STATUS_MODULE_PRES : Fld := ⟨Reg.PWR_STATUS, 8, 8⟩
/-- Field of the register of that name. -/
def Fld.PWR_STATUS_MODULE_EJECT : Fld := ⟨Reg.PWR_STATUS, 9, 9⟩
/-- Field of the register of that name. -/
def Fld.PWR_STATUS_MODULE_RDY : Fld := ⟨Reg.PWR_STATUS, 10, 10⟩
/-- Field of the register of that name. -/
def Fld.PWR_BAKRST_BAKERY : Fld := ⟨Reg.PWR_BAKRST, 3, 0⟩
/-- Field of the register of that name. -/
def Fld.PWR_BAKRST_SEQ : Fld := ⟨Reg.PWR_BAKRST, 31, 16⟩
/-- Field of the register of that name. -/
def Fld.PWR_BAKRST_DONE_BAKERY : Fld := ⟨Reg.PWR_BAKRST_DONE, 3, 0⟩
/-- Field of the register of that name. -/
def Fld.PWR_BAKRST_DONE_REFUSED : Fld := ⟨Reg.PWR_BAKRST_DONE, 4, 4⟩
/-- Field of the register of that name. -/
def Fld.PWR_BAKRST_DONE_SEQ : Fld := ⟨Reg.PWR_BAKRST_DONE, 31, 16⟩
/-- Field of the register of that name. -/
def Fld.PWR_ON_MAP (w : Nat) : Fld := ⟨(Reg.PWR_ON w), 31, 0⟩
/-- Field of the register of that name. -/
def Fld.PWR_RETN_MAP (w : Nat) : Fld := ⟨(Reg.PWR_RETN w), 31, 0⟩
/-- Field of the register of that name. -/
def Fld.PWR_PEND_MAP (w : Nat) : Fld := ⟨(Reg.PWR_PEND w), 31, 0⟩
/-- Field of the register of that name. -/
def Fld.PWR_REQ_REQ (d : Nat) : Fld := ⟨(Reg.PWR_REQ d), 1, 0⟩
/-- Field of the register of that name. -/
def Fld.PACE_CTRL_MODE : Fld := ⟨Reg.PACE_CTRL, 1, 0⟩
/-- Field of the register of that name. -/
def Fld.PACE_STATUS_BINDING : Fld := ⟨Reg.PACE_STATUS, 2, 0⟩
/-- Field of the register of that name. -/
def Fld.PACE_STATUS_ACTIVE : Fld := ⟨Reg.PACE_STATUS, 3, 3⟩
/-- Field of the register of that name. -/
def Fld.PACE_STATUS_REG_FAULT : Fld := ⟨Reg.PACE_STATUS, 4, 4⟩
/-- Field of the register of that name. -/
def Fld.PACE_STATUS_THROTTLE : Fld := ⟨Reg.PACE_STATUS, 5, 5⟩
/-- Field of the register of that name. -/
def Fld.PACE_STATUS_SHORT_ANY : Fld := ⟨Reg.PACE_STATUS, 6, 6⟩
/-- Field of the register of that name. -/
def Fld.PACE_VOLT_VCMD : Fld := ⟨Reg.PACE_VOLT, 15, 0⟩
/-- Field of the register of that name. -/
def Fld.PACE_VOLT_VREAD : Fld := ⟨Reg.PACE_VOLT, 31, 16⟩
/-- Field of the register of that name. -/
def Fld.PACE_VSET_VMIN : Fld := ⟨Reg.PACE_VSET, 5, 0⟩
/-- Field of the register of that name. -/
def Fld.PACE_VSET_VBG : Fld := ⟨Reg.PACE_VSET, 13, 8⟩
/-- Field of the register of that name. -/
def Fld.PACE_VSET_VFIX : Fld := ⟨Reg.PACE_VSET, 21, 16⟩
/-- Field of the register of that name. -/
def Fld.PACE_MARGIN_GUARD : Fld := ⟨Reg.PACE_MARGIN, 7, 0⟩
/-- Field of the register of that name. -/
def Fld.PACE_CEIL_CEIL_RCP : Fld := ⟨Reg.PACE_CEIL, 9, 0⟩
/-- Field of the register of that name. -/
def Fld.PACE_CEIL_CEIL_HOST : Fld := ⟨Reg.PACE_CEIL, 25, 16⟩
/-- Field of the register of that name. -/
def Fld.PACE_POWER_P_AVG : Fld := ⟨Reg.PACE_POWER, 10, 0⟩
/-- Field of the register of that name. -/
def Fld.PACE_POWER_CEIL_EFF : Fld := ⟨Reg.PACE_POWER, 26, 16⟩
/-- Field of the register of that name. -/
def Fld.PACE_TEMP_TJ_MAX : Fld := ⟨Reg.PACE_TEMP, 9, 0⟩
/-- Field of the register of that name. -/
def Fld.PACE_TEMP_HOT_SRC : Fld := ⟨Reg.PACE_TEMP, 15, 10⟩
/-- Field of the register of that name. -/
def Fld.PACE_TEMP_REG_TEMP : Fld := ⟨Reg.PACE_TEMP, 25, 16⟩
/-- Field of the register of that name. -/
def Fld.PACE_COOL_FAULT_FANS : Fld := ⟨Reg.PACE_COOL, 3, 0⟩
/-- Field of the register of that name. -/
def Fld.PACE_COOL_FULL_FANS : Fld := ⟨Reg.PACE_COOL, 7, 4⟩
/-- Field of the register of that name. -/
def Fld.PACE_COOL_RISE_CUT : Fld := ⟨Reg.PACE_COOL, 15, 8⟩
/-- Field of the register of that name. -/
def Fld.PACE_SHORT_SHORT : Fld := ⟨Reg.PACE_SHORT, 15, 0⟩
/-- Field of the register of that name. -/
def Fld.PACE_EVENTS_CEIL_BOUND : Fld := ⟨Reg.PACE_EVENTS, 0, 0⟩
/-- Field of the register of that name. -/
def Fld.PACE_EVENTS_THROTTLE_ON : Fld := ⟨Reg.PACE_EVENTS, 1, 1⟩
/-- Field of the register of that name. -/
def Fld.PACE_EVENTS_THROTTLE_OFF : Fld := ⟨Reg.PACE_EVENTS, 2, 2⟩
/-- Field of the register of that name. -/
def Fld.PACE_EVENTS_SHORTFALL : Fld := ⟨Reg.PACE_EVENTS, 3, 3⟩
/-- Field of the register of that name. -/
def Fld.PACE_EVENTS_REG_FAULT : Fld := ⟨Reg.PACE_EVENTS, 4, 4⟩
/-- Field of the register of that name. -/
def Fld.PACE_EVENTS_COOL_CUT : Fld := ⟨Reg.PACE_EVENTS, 5, 5⟩
/-- Field of the register of that name. -/
def Fld.PACE_EVT_SEQ_SEQ : Fld := ⟨Reg.PACE_EVT_SEQ, 31, 0⟩
/-- Field of the register of that name. -/
def Fld.PACE_AVS_RAIL : Fld := ⟨Reg.PACE_AVS, 3, 0⟩
/-- Field of the register of that name. -/
def Fld.PACE_AVS_AVS_MHZ : Fld := ⟨Reg.PACE_AVS, 12, 8⟩
/-- Field of the register of that name. -/
def Fld.PACE_AVS_VDROOP : Fld := ⟨Reg.PACE_AVS, 21, 16⟩
/-- Field of the register of that name. -/
def Fld.PACE_REGSTAT_STATUS : Fld := ⟨Reg.PACE_REGSTAT, 15, 0⟩
/-- Field of the register of that name. -/
def Fld.PACE_REGSTAT_FAIL_CNT : Fld := ⟨Reg.PACE_REGSTAT, 23, 16⟩
/-- Field of the register of that name. -/
def Fld.PACE_EVT_ACK_SEQ : Fld := ⟨Reg.PACE_EVT_ACK, 31, 0⟩
/-- Field of the register of that name. -/
def Fld.PACE_COOLCFG_FAN_CUT : Fld := ⟨Reg.PACE_COOLCFG, 7, 0⟩
/-- Field of the register of that name. -/
def Fld.PACE_COOLCFG_RISE_STEP : Fld := ⟨Reg.PACE_COOLCFG, 11, 8⟩
/-- Field of the register of that name. -/
def Fld.PACE_BREF_GEN (b : Nat) : Fld := ⟨(Reg.PACE_BREF b), 1, 0⟩
/-- Field of the register of that name. -/
def Fld.PACE_BREF_EN (b : Nat) : Fld := ⟨(Reg.PACE_BREF b), 31, 31⟩
/-- Field of the register of that name. -/
def Fld.PACE_SENT_RATE (n : Nat) : Fld := ⟨(Reg.PACE_SENT n), 11, 0⟩
/-- Field of the register of that name. -/
def Fld.PACE_SENT_TEMP (n : Nat) : Fld := ⟨(Reg.PACE_SENT n), 21, 12⟩
/-- Field of the register of that name. -/
def Fld.PACE_SENT_VALID (n : Nat) : Fld := ⟨(Reg.PACE_SENT n), 31, 31⟩
/-- Field of the register of that name. -/
def Fld.PACE_WORK_WORK (n : Nat) : Fld := ⟨(Reg.PACE_WORK n), 31, 0⟩
/-- Field of the register of that name. -/
def Fld.ZEN_TRIG_PROC : Fld := ⟨Reg.ZEN_TRIG, 5, 0⟩
/-- Field of the register of that name. -/
def Fld.ZEN_TRIG_ARG : Fld := ⟨Reg.ZEN_TRIG, 31, 16⟩
/-- Field of the register of that name. -/
def Fld.ZEN_SIGNAL_ALL : Fld := ⟨Reg.ZEN_SIGNAL, 31, 0⟩
/-- Field of the register of that name. -/
def Fld.ZEN_STATUS_RUNNING : Fld := ⟨Reg.ZEN_STATUS, 3, 0⟩
/-- Field of the register of that name. -/
def Fld.ZEN_EVT_CODE_CODE : Fld := ⟨Reg.ZEN_EVT_CODE, 31, 0⟩
/-- Field of the register of that name. -/
def Fld.ZEN_EVT_SEQ_SEQ : Fld := ⟨Reg.ZEN_EVT_SEQ, 31, 0⟩
/-- Field of the register of that name. -/
def Fld.ZEN_INST_PROC (i : Nat) : Fld := ⟨(Reg.ZEN_INST i), 5, 0⟩
/-- Field of the register of that name. -/
def Fld.ZEN_INST_ACTIVE (i : Nat) : Fld := ⟨(Reg.ZEN_INST i), 7, 7⟩
/-- Field of the register of that name. -/
def Fld.ZEN_INST_ROW (i : Nat) : Fld := ⟨(Reg.ZEN_INST i), 25, 16⟩
/-- Field of the register of that name. -/
def Fld.ZEN_COUNT_DROPPED (p : Nat) : Fld := ⟨(Reg.ZEN_COUNT p), 15, 0⟩
/-- Field of the register of that name. -/
def Fld.ZEN_COUNT_STEPLIM (p : Nat) : Fld := ⟨(Reg.ZEN_COUNT p), 31, 16⟩
/-- Field of the register of that name. -/
def Fld.FAB_BULKAGE_BULK_AGE : Fld := ⟨Reg.FAB_BULKAGE, 9, 0⟩
/-- Field of the register of that name. -/
def Fld.FAB_SYSW_WEIGHT : Fld := ⟨Reg.FAB_SYSW, 4, 0⟩
/-- Field of the register of that name. -/
def Fld.FAB_STALLCFG_STALL_US : Fld := ⟨Reg.FAB_STALLCFG, 15, 0⟩
/-- Field of the register of that name. -/
def Fld.FAB_STALL_STALLED : Fld := ⟨Reg.FAB_STALL, 15, 0⟩
/-- Field of the register of that name. -/
def Fld.FAB_TGT_CAP_CAP (t : Nat) : Fld := ⟨(Reg.FAB_TGT_CAP t), 19, 0⟩
/-- Field of the register of that name. -/
def Fld.FAB_TGT_RESV_TOTAL (t : Nat) : Fld := ⟨(Reg.FAB_TGT_RESV t), 11, 0⟩
/-- Field of the register of that name. -/
def Fld.FAB_TGT_RESV_STANDING (t : Nat) : Fld := ⟨(Reg.FAB_TGT_RESV t), 27, 16⟩
/-- Field of the register of that name. -/
def Fld.FAB_TGT_REFUSED_COUNT (t : Nat) : Fld := ⟨(Reg.FAB_TGT_REFUSED t), 31, 0⟩
/-- Field of the register of that name. -/
def Fld.FAB_TGT_DEMOTED_COUNT (t : Nat) : Fld := ⟨(Reg.FAB_TGT_DEMOTED t), 31, 0⟩
/-- Field of the register of that name. -/
def Fld.FAB_TGT_PROMOTED_COUNT (t : Nat) : Fld := ⟨(Reg.FAB_TGT_PROMOTED t), 31, 0⟩
/-- Field of the register of that name. -/
def Fld.FAB_RACKSTAT_DEPTH (r : Nat) : Fld := ⟨(Reg.FAB_RACKSTAT r), 9, 0⟩
/-- Field of the register of that name. -/
def Fld.FAB_RACKSTAT_OCC (r : Nat) : Fld := ⟨(Reg.FAB_RACKSTAT r), 19, 10⟩
/-- Field of the register of that name. -/
def Fld.FAB_RACKSTAT_REMOTE (r : Nat) : Fld := ⟨(Reg.FAB_RACKSTAT r), 29, 29⟩
/-- Field of the register of that name. -/
def Fld.FAB_RACKSTAT_CONNECTED (r : Nat) : Fld := ⟨(Reg.FAB_RACKSTAT r), 30, 30⟩
/-- Field of the register of that name. -/
def Fld.FAB_RACKSTAT_LOADED (r : Nat) : Fld := ⟨(Reg.FAB_RACKSTAT r), 31, 31⟩
/-- Field of the register of that name. -/
def Fld.FAB_RACKFRM_FRAMES (r : Nat) : Fld := ⟨(Reg.FAB_RACKFRM r), 31, 0⟩
/-- Field of the register of that name. -/
def Fld.MBX_DATA_DATA (m : Nat) (k : Nat) : Fld := ⟨(Reg.MBX_DATA m k), 31, 0⟩
/-- Field of the register of that name. -/
def Fld.MBX_STAT_READY (m : Nat) : Fld := ⟨(Reg.MBX_STAT m), 0, 0⟩
/-- Field of the register of that name. -/
def Fld.MBX_STAT_POISON (m : Nat) : Fld := ⟨(Reg.MBX_STAT m), 1, 1⟩
/-- Field of the register of that name. -/
def Fld.MBX_STAT_OVERWRITTEN (m : Nat) : Fld := ⟨(Reg.MBX_STAT m), 31, 16⟩
/-- Field of the register of that name. -/
def Fld.MBX_SEQ_SEQ (m : Nat) : Fld := ⟨(Reg.MBX_SEQ m), 31, 0⟩
/-- Field of the register of that name. -/
def Fld.MBX_ACK_SEQ (m : Nat) : Fld := ⟨(Reg.MBX_ACK m), 31, 0⟩
/-- Field of the register of that name. -/
def Fld.MBX_OWNER_CTX (m : Nat) : Fld := ⟨(Reg.MBX_OWNER m), 9, 0⟩
/-- Field of the register of that name. -/
def Fld.MBX_OWNER_OWNED (m : Nat) : Fld := ⟨(Reg.MBX_OWNER m), 15, 15⟩
/-- Field of the register of that name. -/
def Fld.AWT_CIRCLE_CIRCLE (i : Nat) : Fld := ⟨(Reg.AWT_CIRCLE i), 5, 0⟩
/-- Field of the register of that name. -/
def Fld.AWT_CIRCLE_NONE (i : Nat) : Fld := ⟨(Reg.AWT_CIRCLE i), 7, 7⟩
/-- Field of the register of that name. -/
def Fld.AWT_TGT_ENTRIES (t : Nat) : Fld := ⟨(Reg.AWT_TGT t), 6, 0⟩
/-- Field of the register of that name. -/
def Fld.AWT_DENY_COUNT (t : Nat) : Fld := ⟨(Reg.AWT_DENY t), 31, 0⟩
/-- Field of the register of that name. -/
def Fld.AWT_BASE_LO_BASE (t : Nat) (e : Nat) : Fld := ⟨(Reg.AWT_BASE_LO t e), 31, 0⟩
/-- Field of the register of that name. -/
def Fld.AWT_BASE_HI_BASE (t : Nat) (e : Nat) : Fld := ⟨(Reg.AWT_BASE_HI t e), 7, 0⟩
/-- Field of the register of that name. -/
def Fld.AWT_LIMIT_LO_LIMIT (t : Nat) (e : Nat) : Fld := ⟨(Reg.AWT_LIMIT_LO t e), 31, 0⟩
/-- Field of the register of that name. -/
def Fld.AWT_LIMIT_HI_LIMIT (t : Nat) (e : Nat) : Fld := ⟨(Reg.AWT_LIMIT_HI t e), 7, 0⟩
/-- Field of the register of that name. -/
def Fld.AWT_RD_LO_RD (t : Nat) (e : Nat) : Fld := ⟨(Reg.AWT_RD_LO t e), 31, 0⟩
/-- Field of the register of that name. -/
def Fld.AWT_RD_HI_RD (t : Nat) (e : Nat) : Fld := ⟨(Reg.AWT_RD_HI t e), 31, 0⟩
/-- Field of the register of that name. -/
def Fld.AWT_WR_LO_WR (t : Nat) (e : Nat) : Fld := ⟨(Reg.AWT_WR_LO t e), 31, 0⟩
/-- Field of the register of that name. -/
def Fld.AWT_WR_HI_WR (t : Nat) (e : Nat) : Fld := ⟨(Reg.AWT_WR_HI t e), 31, 0⟩
/-- Field of the register of that name. -/
def Fld.CTX_SQ_BASE_LO_ADDR (c : Nat) : Fld := ⟨(Reg.CTX_SQ_BASE_LO c), 31, 6⟩
/-- Field of the register of that name. -/
def Fld.CTX_SQ_BASE_HI_ADDR (c : Nat) : Fld := ⟨(Reg.CTX_SQ_BASE_HI c), 7, 0⟩
/-- Field of the register of that name. -/
def Fld.CTX_CQ_BASE_LO_ADDR (c : Nat) : Fld := ⟨(Reg.CTX_CQ_BASE_LO c), 31, 5⟩
/-- Field of the register of that name. -/
def Fld.CTX_CQ_BASE_HI_ADDR (c : Nat) : Fld := ⟨(Reg.CTX_CQ_BASE_HI c), 7, 0⟩
/-- Field of the register of that name. -/
def Fld.CTX_CFG_SQ_LOG2 (c : Nat) : Fld := ⟨(Reg.CTX_CFG c), 3, 0⟩
/-- Field of the register of that name. -/
def Fld.CTX_CFG_CQ_LOG2 (c : Nat) : Fld := ⟨(Reg.CTX_CFG c), 11, 8⟩
/-- Field of the register of that name. -/
def Fld.CTX_CTRL_CMD (c : Nat) : Fld := ⟨(Reg.CTX_CTRL c), 1, 0⟩
/-- Field of the register of that name. -/
def Fld.CTX_SQ_PTR_HEAD (c : Nat) : Fld := ⟨(Reg.CTX_SQ_PTR c), 11, 0⟩
/-- Field of the register of that name. -/
def Fld.CTX_SQ_PTR_TAIL (c : Nat) : Fld := ⟨(Reg.CTX_SQ_PTR c), 27, 16⟩
/-- Field of the register of that name. -/
def Fld.CTX_CQ_PTR_HEAD (c : Nat) : Fld := ⟨(Reg.CTX_CQ_PTR c), 11, 0⟩
/-- Field of the register of that name. -/
def Fld.CTX_CQ_PTR_TAIL (c : Nat) : Fld := ⟨(Reg.CTX_CQ_PTR c), 27, 16⟩
/-- Field of the register of that name. -/
def Fld.CTX_STATUS_STATE (c : Nat) : Fld := ⟨(Reg.CTX_STATUS c), 1, 0⟩
/-- Field of the register of that name. -/
def Fld.CTX_STATUS_CQ_FULL (c : Nat) : Fld := ⟨(Reg.CTX_STATUS c), 2, 2⟩
/-- Field of the register of that name. -/
def Fld.CTX_STATUS_ARMED (c : Nat) : Fld := ⟨(Reg.CTX_STATUS c), 3, 3⟩
/-- Field of the register of that name. -/
def Fld.CTX_STATUS_INFLIGHT (c : Nat) : Fld := ⟨(Reg.CTX_STATUS c), 28, 16⟩
/-- Field of the register of that name. -/
def Fld.CTX_OWNER_FUNC (c : Nat) : Fld := ⟨(Reg.CTX_OWNER c), 5, 0⟩
/-- Field of the register of that name. -/
def Fld.CTX_OWNER_NOFUNC (c : Nat) : Fld := ⟨(Reg.CTX_OWNER c), 7, 7⟩
/-- Field of the register of that name. -/
def Fld.CTX_OWNER_BAKERY (c : Nat) : Fld := ⟨(Reg.CTX_OWNER c), 11, 8⟩
/-- Field of the register of that name. -/
def Fld.CTX_OWNER_MEMBER (c : Nat) : Fld := ⟨(Reg.CTX_OWNER c), 15, 15⟩
/-- Field of the register of that name. -/
def Fld.CTX_RECORDS_COUNT (c : Nat) : Fld := ⟨(Reg.CTX_RECORDS c), 31, 0⟩
/-- Field of the register of that name. -/
def Fld.STR_CTRL_CMD (s : Nat) : Fld := ⟨(Reg.STR_CTRL s), 1, 0⟩
/-- Field of the register of that name. -/
def Fld.STR_STATUS_STATE (s : Nat) : Fld := ⟨(Reg.STR_STATUS s), 1, 0⟩
/-- Field of the register of that name. -/
def Fld.STR_STATUS_BUSY (s : Nat) : Fld := ⟨(Reg.STR_STATUS s), 2, 2⟩
/-- Field of the register of that name. -/
def Fld.STR_STATUS_QUEUED (s : Nat) : Fld := ⟨(Reg.STR_STATUS s), 6, 4⟩
/-- Field of the register of that name. -/
def Fld.STR_STATUS_ROW (s : Nat) : Fld := ⟨(Reg.STR_STATUS s), 15, 8⟩
/-- Field of the register of that name. -/
def Fld.STR_TRIG_ARG (s : Nat) : Fld := ⟨(Reg.STR_TRIG s), 31, 0⟩
/-- Field of the register of that name. -/
def Fld.STR_SIGNAL_VALUE (s : Nat) : Fld := ⟨(Reg.STR_SIGNAL s), 31, 0⟩
/-- Field of the register of that name. -/
def Fld.STR_DROPS_DROPS (s : Nat) : Fld := ⟨(Reg.STR_DROPS s), 15, 0⟩
/-- Field of the register of that name. -/
def Fld.STR_DROPS_STEPLIM (s : Nat) : Fld := ⟨(Reg.STR_DROPS s), 31, 16⟩
/-- Field of the register of that name. -/
def Fld.STR_ISSUED_COUNT (s : Nat) : Fld := ⟨(Reg.STR_ISSUED s), 31, 0⟩
/-- Field of the register of that name. -/
def Fld.STR_MISSES_COUNT (s : Nat) : Fld := ⟨(Reg.STR_MISSES s), 31, 0⟩
/-- Field of the register of that name. -/
def Fld.STR_UNDERRUNS_COUNT (s : Nat) : Fld := ⟨(Reg.STR_UNDERRUNS s), 31, 0⟩
/-- Field of the register of that name. -/
def Fld.STR_LAST_MISS_LO_T (s : Nat) : Fld := ⟨(Reg.STR_LAST_MISS_LO s), 31, 0⟩
/-- Field of the register of that name. -/
def Fld.STR_LAST_MISS_HI_T (s : Nat) : Fld := ⟨(Reg.STR_LAST_MISS_HI s), 31, 0⟩
/-- Field of the register of that name. -/
def Fld.STR_LAST_UNDER_LO_T (s : Nat) : Fld := ⟨(Reg.STR_LAST_UNDER_LO s), 31, 0⟩
/-- Field of the register of that name. -/
def Fld.STR_LAST_UNDER_HI_T (s : Nat) : Fld := ⟨(Reg.STR_LAST_UNDER_HI s), 31, 0⟩
/-- Field of the register of that name. -/
def Fld.STR_PRESENTED_ISSUED (s : Nat) : Fld := ⟨(Reg.STR_PRESENTED s), 31, 0⟩
/-- Field of the register of that name. -/
def Fld.STR_EVT_CODE_CODE (s : Nat) : Fld := ⟨(Reg.STR_EVT_CODE s), 31, 0⟩
/-- Field of the register of that name. -/
def Fld.STR_EVT_SEQ_SEQ (s : Nat) : Fld := ⟨(Reg.STR_EVT_SEQ s), 31, 0⟩
/-- Field of the register of that name. -/
def Fld.STR_NOGEN_COUNT (s : Nat) : Fld := ⟨(Reg.STR_NOGEN s), 31, 0⟩
/-- Field of the register of that name. -/
def Fld.OTG_CTRL_CMD (g : Nat) : Fld := ⟨(Reg.OTG_CTRL g), 1, 0⟩
/-- Field of the register of that name. -/
def Fld.OTG_STATUS_RUNNING (g : Nat) : Fld := ⟨(Reg.OTG_STATUS g), 0, 0⟩
/-- Field of the register of that name. -/
def Fld.OTG_STATUS_MODE (g : Nat) : Fld := ⟨(Reg.OTG_STATUS g), 5, 4⟩
/-- Field of the register of that name. -/
def Fld.OTG_MODE_MODE (g : Nat) : Fld := ⟨(Reg.OTG_MODE g), 1, 0⟩
/-- Field of the register of that name. -/
def Fld.OTG_AT_AT (g : Nat) : Fld := ⟨(Reg.OTG_AT g), 31, 0⟩
/-- Field of the register of that name. -/
def Fld.OTG_FRAME_FRAME (g : Nat) : Fld := ⟨(Reg.OTG_FRAME g), 31, 0⟩
/-- Field of the register of that name. -/
def Fld.OTG_START_LO_T (g : Nat) : Fld := ⟨(Reg.OTG_START_LO g), 31, 0⟩
/-- Field of the register of that name. -/
def Fld.OTG_START_HI_T (g : Nat) : Fld := ⟨(Reg.OTG_START_HI g), 31, 0⟩
/-- Field of the register of that name. -/
def Fld.OTG_PERIOD_NS (g : Nat) : Fld := ⟨(Reg.OTG_PERIOD g), 31, 0⟩
/-- Field of the register of that name. -/
def Fld.GRP_SLOTS_COUNT (q : Nat) : Fld := ⟨(Reg.GRP_SLOTS q), 31, 0⟩
/-- Field of the register of that name. -/
def Fld.GRP_STALLS_COUNT (q : Nat) : Fld := ⟨(Reg.GRP_STALLS q), 31, 0⟩
/-- Field of the register of that name. -/
def Fld.GRP_STATE_WAITING (q : Nat) : Fld := ⟨(Reg.GRP_STATE q), 0, 0⟩
/-- Field of the register of that name. -/
def Fld.MEM_CFG_INLINE_ECC : Fld := ⟨Reg.MEM_CFG, 0, 0⟩
/-- Field of the register of that name. -/
def Fld.MEM_CFG_PAGE_POLICY : Fld := ⟨Reg.MEM_CFG, 1, 1⟩
/-- Field of the register of that name. -/
def Fld.MEM_CFG_PD_IDLE : Fld := ⟨Reg.MEM_CFG, 15, 8⟩
/-- Field of the register of that name. -/
def Fld.MEM_CFG_WR_HI : Fld := ⟨Reg.MEM_CFG, 21, 16⟩
/-- Field of the register of that name. -/
def Fld.MEM_SIZE_VISIBLE_MIB : Fld := ⟨Reg.MEM_SIZE, 15, 0⟩
/-- Field of the register of that name. -/
def Fld.MEM_POISON_DROP_COUNT : Fld := ⟨Reg.MEM_POISON_DROP, 31, 0⟩
/-- Field of the register of that name. -/
def Fld.MEM_CH_STATE (c : Nat) : Fld := ⟨(Reg.MEM_CH c), 1, 0⟩
/-- Field of the register of that name. -/
def Fld.MEM_CH_TRAINED (c : Nat) : Fld := ⟨(Reg.MEM_CH c), 2, 2⟩
/-- Field of the register of that name. -/
def Fld.MEM_CH_REFRATE (c : Nat) : Fld := ⟨(Reg.MEM_CH c), 7, 4⟩
/-- Field of the register of that name. -/
def Fld.MEM_CE_COUNT (c : Nat) : Fld := ⟨(Reg.MEM_CE c), 31, 0⟩
/-- Field of the register of that name. -/
def Fld.MEM_UE_COUNT (c : Nat) : Fld := ⟨(Reg.MEM_UE c), 31, 0⟩
/-- Field of the register of that name. -/
def Fld.MEM_LINKCE_COUNT (c : Nat) : Fld := ⟨(Reg.MEM_LINKCE c), 31, 0⟩
/-- Field of the register of that name. -/
def Fld.MEM_HWIN_LO_HBASE (k : Nat) : Fld := ⟨(Reg.MEM_HWIN_LO k), 31, 12⟩
/-- Field of the register of that name. -/
def Fld.MEM_HWIN_HI_HBASE (k : Nat) : Fld := ⟨(Reg.MEM_HWIN_HI k), 31, 0⟩
/-- Field of the register of that name. -/
def Fld.MEM_HWIN_CTRL_EN (k : Nat) : Fld := ⟨(Reg.MEM_HWIN_CTRL k), 0, 0⟩
/-- Field of the register of that name. -/
def Fld.MEM_HWIN_CTRL_DEFINED (k : Nat) : Fld := ⟨(Reg.MEM_HWIN_CTRL k), 1, 1⟩
/-- Field of the register of that name. -/
def Fld.MEM_HWIN_CTRL_INFLIGHT (k : Nat) : Fld := ⟨(Reg.MEM_HWIN_CTRL k), 31, 16⟩
/-- Field of the register of that name. -/
def Fld.MEM_WIN_KIND (w : Nat) : Fld := ⟨(Reg.MEM_WIN w), 1, 0⟩
/-- Field of the register of that name. -/
def Fld.MEM_WIN_DEFINED (w : Nat) : Fld := ⟨(Reg.MEM_WIN w), 2, 2⟩
/-- Field of the register of that name. -/
def Fld.MEM_WIN_DARK (w : Nat) : Fld := ⟨(Reg.MEM_WIN w), 3, 3⟩
/-- Field of the register of that name. -/
def Fld.MEM_WIN_RELOCATED (w : Nat) : Fld := ⟨(Reg.MEM_WIN w), 4, 4⟩
/-- Field of the register of that name. -/
def Fld.CPY_STATUS_STATE (s : Nat) : Fld := ⟨(Reg.CPY_STATUS s), 1, 0⟩
/-- Field of the register of that name. -/
def Fld.CPY_STATUS_QUEUED (s : Nat) : Fld := ⟨(Reg.CPY_STATUS s), 15, 8⟩
/-- Field of the register of that name. -/
def Fld.CPY_STATUS_CTX (s : Nat) : Fld := ⟨(Reg.CPY_STATUS s), 25, 16⟩
/-- Field of the register of that name. -/
def Fld.CPY_UNITS_COUNT (s : Nat) : Fld := ⟨(Reg.CPY_UNITS s), 31, 0⟩
/-- Field of the register of that name. -/
def Fld.CPY_STAGED_COUNT (s : Nat) : Fld := ⟨(Reg.CPY_STAGED s), 31, 0⟩
/-- Field of the register of that name. -/
def Fld.CPY_UNORDERED_COUNT (s : Nat) : Fld := ⟨(Reg.CPY_UNORDERED s), 31, 0⟩
/-- Field of the register of that name. -/
def Fld.MER_STATUS_REACH : Fld := ⟨Reg.MER_STATUS, 7, 0⟩
/-- Field of the register of that name. -/
def Fld.MER_STATUS_TIME_ROOT : Fld := ⟨Reg.MER_STATUS, 10, 8⟩
/-- Field of the register of that name. -/
def Fld.MER_STATUS_SET_STATE : Fld := ⟨Reg.MER_STATUS, 13, 12⟩
/-- Field of the register of that name. -/
def Fld.MER_SET_GO : Fld := ⟨Reg.MER_SET, 0, 0⟩
/-- Field of the register of that name. -/
def Fld.MER_SET_SEQ : Fld := ⟨Reg.MER_SET, 31, 16⟩
/-- Field of the register of that name. -/
def Fld.MER_SET_DONE_RELOCATED : Fld := ⟨Reg.MER_SET_DONE, 7, 0⟩
/-- Field of the register of that name. -/
def Fld.MER_SET_DONE_DARK : Fld := ⟨Reg.MER_SET_DONE, 15, 8⟩
/-- Field of the register of that name. -/
def Fld.MER_SET_DONE_SEQ : Fld := ⟨Reg.MER_SET_DONE, 31, 16⟩
/-- Field of the register of that name. -/
def Fld.MER_RISE_LINK : Fld := ⟨Reg.MER_RISE, 1, 0⟩
/-- Field of the register of that name. -/
def Fld.MER_RISE_SEQ : Fld := ⟨Reg.MER_RISE, 31, 16⟩
/-- Field of the register of that name. -/
def Fld.MER_EVT_SEQ_SEQ : Fld := ⟨Reg.MER_EVT_SEQ, 31, 0⟩
/-- Field of the register of that name. -/
def Fld.MER_DENY_COUNT : Fld := ⟨Reg.MER_DENY, 31, 0⟩
/-- Field of the register of that name. -/
def Fld.MER_EPOCH_STEP_NS : Fld := ⟨Reg.MER_EPOCH_STEP, 31, 0⟩
/-- Field of the register of that name. -/
def Fld.MER_ROUTE_DECLARED (h : Nat) : Fld := ⟨(Reg.MER_ROUTE h), 3, 0⟩
/-- Field of the register of that name. -/
def Fld.MER_ROUTE_LIVE (h : Nat) : Fld := ⟨(Reg.MER_ROUTE h), 7, 4⟩
/-- Field of the register of that name. -/
def Fld.MER_LINK_STATUS_STATE (l : Nat) : Fld := ⟨(Reg.MER_LINK_STATUS l), 2, 0⟩
/-- Field of the register of that name. -/
def Fld.MER_LINK_STATUS_GEN (l : Nat) : Fld := ⟨(Reg.MER_LINK_STATUS l), 4, 3⟩
/-- Field of the register of that name. -/
def Fld.MER_LINK_STATUS_FALLBACK (l : Nat) : Fld := ⟨(Reg.MER_LINK_STATUS l), 5, 5⟩
/-- Field of the register of that name. -/
def Fld.MER_LINK_STATUS_REVERSED (l : Nat) : Fld := ⟨(Reg.MER_LINK_STATUS l), 6, 6⟩
/-- Field of the register of that name. -/
def Fld.MER_LINK_STATUS_PEER_HOME (l : Nat) : Fld := ⟨(Reg.MER_LINK_STATUS l), 10, 8⟩
/-- Field of the register of that name. -/
def Fld.MER_LINK_STATUS_PEER_LINK (l : Nat) : Fld := ⟨(Reg.MER_LINK_STATUS l), 13, 12⟩
/-- Field of the register of that name. -/
def Fld.MER_LINK_STATUS_MAX_GEN (l : Nat) : Fld := ⟨(Reg.MER_LINK_STATUS l), 17, 16⟩
/-- Field of the register of that name. -/
def Fld.MER_LINK_CTRL_DISABLE (l : Nat) : Fld := ⟨(Reg.MER_LINK_CTRL l), 0, 0⟩
/-- Field of the register of that name. -/
def Fld.MER_LINK_FECCOR_COUNT (l : Nat) : Fld := ⟨(Reg.MER_LINK_FECCOR l), 31, 0⟩
/-- Field of the register of that name. -/
def Fld.MER_LINK_BAD_COUNT (l : Nat) : Fld := ⟨(Reg.MER_LINK_BAD l), 31, 0⟩
/-- Field of the register of that name. -/
def Fld.MER_LINK_REPLAY_COUNT (l : Nat) : Fld := ⟨(Reg.MER_LINK_REPLAY l), 31, 0⟩
/-- Field of the register of that name. -/
def Fld.MER_LINK_LOSTS_COUNT (l : Nat) : Fld := ⟨(Reg.MER_LINK_LOSTS l), 31, 0⟩
/-- Field of the register of that name. -/
def Fld.MER_LINK_TX_COUNT (l : Nat) : Fld := ⟨(Reg.MER_LINK_TX l), 31, 0⟩
/-- Field of the register of that name. -/
def Fld.MER_LINK_RX_COUNT (l : Nat) : Fld := ⟨(Reg.MER_LINK_RX l), 31, 0⟩
/-- Field of the register of that name. -/
def Fld.VIN_EVT_SEQ_SEQ : Fld := ⟨Reg.VIN_EVT_SEQ, 31, 0⟩
/-- Field of the register of that name. -/
def Fld.VIN_PORT_STATUS_STATE (p : Nat) : Fld := ⟨(Reg.VIN_PORT_STATUS p), 1, 0⟩
/-- Field of the register of that name. -/
def Fld.VIN_PORT_STATUS_PHY (p : Nat) : Fld := ⟨(Reg.VIN_PORT_STATUS p), 3, 2⟩
/-- Field of the register of that name. -/
def Fld.VIN_PORT_STATUS_LANES (p : Nat) : Fld := ⟨(Reg.VIN_PORT_STATUS p), 5, 4⟩
/-- Field of the register of that name. -/
def Fld.VIN_SOT_ERR_COUNT (p : Nat) : Fld := ⟨(Reg.VIN_SOT_ERR p), 31, 0⟩
/-- Field of the register of that name. -/
def Fld.VIN_HDR_ERR_COUNT (p : Nat) : Fld := ⟨(Reg.VIN_HDR_ERR p), 31, 0⟩
/-- Field of the register of that name. -/
def Fld.VIN_HDR_CORR_COUNT (p : Nat) : Fld := ⟨(Reg.VIN_HDR_CORR p), 31, 0⟩
/-- Field of the register of that name. -/
def Fld.VIN_CRC_ERR_COUNT (p : Nat) : Fld := ⟨(Reg.VIN_CRC_ERR p), 31, 0⟩
/-- Field of the register of that name. -/
def Fld.VIN_DT_OTHER_COUNT (p : Nat) : Fld := ⟨(Reg.VIN_DT_OTHER p), 31, 0⟩
/-- Field of the register of that name. -/
def Fld.VIN_NOCHAN_COUNT (p : Nat) : Fld := ⟨(Reg.VIN_NOCHAN p), 31, 0⟩
/-- Field of the register of that name. -/
def Fld.VIN_OVERFLOW_COUNT (p : Nat) : Fld := ⟨(Reg.VIN_OVERFLOW p), 31, 0⟩
/-- Field of the register of that name. -/
def Fld.VIN_VC_FS_COUNT (p : Nat) (v : Nat) : Fld := ⟨(Reg.VIN_VC_FS p v), 31, 0⟩
/-- Field of the register of that name. -/
def Fld.VIN_VC_DONE_COUNT (p : Nat) (v : Nat) : Fld := ⟨(Reg.VIN_VC_DONE p v), 31, 0⟩
/-- Field of the register of that name. -/
def Fld.VIN_VC_SHORT_COUNT (p : Nat) (v : Nat) : Fld := ⟨(Reg.VIN_VC_SHORT p v), 31, 0⟩
/-- Field of the register of that name. -/
def Fld.VIN_VC_TRUNC_COUNT (p : Nat) (v : Nat) : Fld := ⟨(Reg.VIN_VC_TRUNC p v), 31, 0⟩
/-- Field of the register of that name. -/
def Fld.VIN_VC_LAST_FRAMENO (p : Nat) (v : Nat) : Fld := ⟨(Reg.VIN_VC_LAST p v), 15, 0⟩
/-- Field of the register of that name. -/
def Fld.VIN_VC_LAST_CRC (p : Nat) (v : Nat) : Fld := ⟨(Reg.VIN_VC_LAST p v), 16, 16⟩
/-- Field of the register of that name. -/
def Fld.VIN_VC_LAST_TRUNC (p : Nat) (v : Nat) : Fld := ⟨(Reg.VIN_VC_LAST p v), 17, 17⟩
/-- Field of the register of that name. -/
def Fld.VIN_VC_LAST_OVERFLOW (p : Nat) (v : Nat) : Fld := ⟨(Reg.VIN_VC_LAST p v), 18, 18⟩
/-- Field of the register of that name. -/
def Fld.VIN_VC_LAST_T_LO_T (p : Nat) (v : Nat) : Fld := ⟨(Reg.VIN_VC_LAST_T_LO p v), 31, 0⟩
/-- Field of the register of that name. -/
def Fld.VIN_VC_LAST_T_HI_T (p : Nat) (v : Nat) : Fld := ⟨(Reg.VIN_VC_LAST_T_HI p v), 31, 0⟩
/-- Field of the register of that name. -/
def Fld.VOUT_EVT_SEQ_SEQ : Fld := ⟨Reg.VOUT_EVT_SEQ, 31, 0⟩
/-- Field of the register of that name. -/
def Fld.VOUT_PORT_STATUS_LINK (g : Nat) : Fld := ⟨(Reg.VOUT_PORT_STATUS g), 2, 0⟩
/-- Field of the register of that name. -/
def Fld.VOUT_PORT_STATUS_HPD (g : Nat) : Fld := ⟨(Reg.VOUT_PORT_STATUS g), 3, 3⟩
/-- Field of the register of that name. -/
def Fld.VOUT_PORT_STATUS_DOMAIN (g : Nat) : Fld := ⟨(Reg.VOUT_PORT_STATUS g), 4, 4⟩
/-- Field of the register of that name. -/
def Fld.VOUT_PORT_STATUS_DSC (g : Nat) : Fld := ⟨(Reg.VOUT_PORT_STATUS g), 5, 5⟩
/-- Field of the register of that name. -/
def Fld.VOUT_PORT_STATUS_STEER (g : Nat) : Fld := ⟨(Reg.VOUT_PORT_STATUS g), 25, 16⟩
/-- Field of the register of that name. -/
def Fld.VOUT_PORT_CMD_CMD (g : Nat) : Fld := ⟨(Reg.VOUT_PORT_CMD g), 1, 0⟩
/-- Field of the register of that name. -/
def Fld.VOUT_PORT_VSYNC_NS (g : Nat) : Fld := ⟨(Reg.VOUT_PORT_VSYNC g), 31, 0⟩
/-- Field of the register of that name. -/
def Fld.VOUT_TRAINS_COUNT (g : Nat) : Fld := ⟨(Reg.VOUT_TRAINS g), 31, 0⟩
/-- Field of the register of that name. -/
def Fld.VOUT_TRAIN_FAILS_COUNT (g : Nat) : Fld := ⟨(Reg.VOUT_TRAIN_FAILS g), 31, 0⟩
/-- Field of the register of that name. -/
def Fld.VOUT_LINK_LOSTS_COUNT (g : Nat) : Fld := ⟨(Reg.VOUT_LINK_LOSTS g), 31, 0⟩
/-- Field of the register of that name. -/
def Fld.VOUT_SCANOUT_LATE_COUNT (g : Nat) : Fld := ⟨(Reg.VOUT_SCANOUT_LATE g), 31, 0⟩
/-- Field of the register of that name. -/
def Fld.VOUT_SCANOUT_POISON_COUNT (g : Nat) : Fld := ⟨(Reg.VOUT_SCANOUT_POISON g), 31, 0⟩
/-- Field of the register of that name. -/
def Fld.VOUT_AUX_CMD_PORT : Fld := ⟨Reg.VOUT_AUX_CMD, 0, 0⟩
/-- Field of the register of that name. -/
def Fld.VOUT_AUX_CMD_OP : Fld := ⟨Reg.VOUT_AUX_CMD, 2, 1⟩
/-- Field of the register of that name. -/
def Fld.VOUT_AUX_CMD_LEN : Fld := ⟨Reg.VOUT_AUX_CMD, 6, 3⟩
/-- Field of the register of that name. -/
def Fld.VOUT_AUX_CMD_SEQ : Fld := ⟨Reg.VOUT_AUX_CMD, 31, 16⟩
/-- Field of the register of that name. -/
def Fld.VOUT_AUX_ADDR_ADDR : Fld := ⟨Reg.VOUT_AUX_ADDR, 19, 0⟩
/-- Field of the register of that name. -/
def Fld.VOUT_AUX_RESULT_STATUS : Fld := ⟨Reg.VOUT_AUX_RESULT, 1, 0⟩
/-- Field of the register of that name. -/
def Fld.VOUT_AUX_RESULT_LEN : Fld := ⟨Reg.VOUT_AUX_RESULT, 6, 2⟩
/-- Field of the register of that name. -/
def Fld.VOUT_AUX_RESULT_SEQ : Fld := ⟨Reg.VOUT_AUX_RESULT, 31, 16⟩
/-- Field of the register of that name. -/
def Fld.VOUT_AUX_DROPS_COUNT : Fld := ⟨Reg.VOUT_AUX_DROPS, 15, 0⟩
/-- Field of the register of that name. -/
def Fld.VOUT_DSI_HDR_DT : Fld := ⟨Reg.VOUT_DSI_HDR, 7, 0⟩
/-- Field of the register of that name. -/
def Fld.VOUT_DSI_HDR_LEN : Fld := ⟨Reg.VOUT_DSI_HDR, 12, 8⟩
/-- Field of the register of that name. -/
def Fld.VOUT_DSI_PUSH_ALL : Fld := ⟨Reg.VOUT_DSI_PUSH, 31, 0⟩
/-- Field of the register of that name. -/
def Fld.VOUT_DSI_STAT_LEVEL : Fld := ⟨Reg.VOUT_DSI_STAT, 4, 0⟩
/-- Field of the register of that name. -/
def Fld.VOUT_DSI_STAT_DROPS : Fld := ⟨Reg.VOUT_DSI_STAT, 31, 16⟩
/-- Field of the register of that name. -/
def Fld.VOUT_AUX_DATA_DATA (k : Nat) : Fld := ⟨(Reg.VOUT_AUX_DATA k), 31, 0⟩
/-- Field of the register of that name. -/
def Fld.VOUT_DSI_DATA_DATA (q : Nat) : Fld := ⟨(Reg.VOUT_DSI_DATA q), 31, 0⟩
/-- Field of the register of that name. -/
def Fld.ORB_EVT_SEQ_SEQ : Fld := ⟨Reg.ORB_EVT_SEQ, 31, 0⟩
/-- Field of the register of that name. -/
def Fld.ORB_TEMP_T_USE : Fld := ⟨Reg.ORB_TEMP, 9, 0⟩
/-- Field of the register of that name. -/
def Fld.ORB_CMD_CMD (c : Nat) : Fld := ⟨(Reg.ORB_CMD c), 2, 0⟩
/-- Field of the register of that name. -/
def Fld.ORB_CMD_RPM (c : Nat) : Fld := ⟨(Reg.ORB_CMD c), 31, 16⟩
/-- Field of the register of that name. -/
def Fld.ORB_STATE_STATE (c : Nat) : Fld := ⟨(Reg.ORB_STATE c), 3, 0⟩
/-- Field of the register of that name. -/
def Fld.ORB_STATE_FAULT (c : Nat) : Fld := ⟨(Reg.ORB_STATE c), 6, 4⟩
/-- Field of the register of that name. -/
def Fld.ORB_STATE_IN_FAULT (c : Nat) : Fld := ⟨(Reg.ORB_STATE c), 7, 7⟩
/-- Field of the register of that name. -/
def Fld.ORB_STATE_FULL (c : Nat) : Fld := ⟨(Reg.ORB_STATE c), 8, 8⟩
/-- Field of the register of that name. -/
def Fld.ORB_STATE_BUSY (c : Nat) : Fld := ⟨(Reg.ORB_STATE c), 9, 9⟩
/-- Field of the register of that name. -/
def Fld.ORB_STATE_QUEUED (c : Nat) : Fld := ⟨(Reg.ORB_STATE c), 12, 10⟩
/-- Field of the register of that name. -/
def Fld.ORB_STATE_MANUAL (c : Nat) : Fld := ⟨(Reg.ORB_STATE c), 13, 13⟩
/-- Field of the register of that name. -/
def Fld.ORB_SPEED_RPM (c : Nat) : Fld := ⟨(Reg.ORB_SPEED c), 15, 0⟩
/-- Field of the register of that name. -/
def Fld.ORB_SPEED_VALID (c : Nat) : Fld := ⟨(Reg.ORB_SPEED c), 18, 16⟩
/-- Field of the register of that name. -/
def Fld.ORB_TARGET_RPM (c : Nat) : Fld := ⟨(Reg.ORB_TARGET c), 15, 0⟩
/-- Field of the register of that name. -/
def Fld.ORB_DUTY_DEMAND (c : Nat) : Fld := ⟨(Reg.ORB_DUTY c), 9, 0⟩
/-- Field of the register of that name. -/
def Fld.ORB_BAND_D_LO (c : Nat) : Fld := ⟨(Reg.ORB_BAND c), 9, 0⟩
/-- Field of the register of that name. -/
def Fld.ORB_BAND_D_HI (c : Nat) : Fld := ⟨(Reg.ORB_BAND c), 25, 16⟩
/-- Field of the register of that name. -/
def Fld.ORB_POS_R (c : Nat) : Fld := ⟨(Reg.ORB_POS c), 3, 0⟩
/-- Field of the register of that name. -/
def Fld.ORB_POS_AMBIG (c : Nat) : Fld := ⟨(Reg.ORB_POS c), 4, 4⟩
/-- Field of the register of that name. -/
def Fld.ORB_DROPS_COUNT (c : Nat) : Fld := ⟨(Reg.ORB_DROPS c), 15, 0⟩
/-- Field of the register of that name. -/
def Fld.ORB_STARTS_COUNT (c : Nat) : Fld := ⟨(Reg.ORB_STARTS c), 31, 0⟩
/-- Field of the register of that name. -/
def Fld.ORB_SYNCLOSS_COUNT (c : Nat) : Fld := ⟨(Reg.ORB_SYNCLOSS c), 31, 0⟩
/-- Field of the register of that name. -/
def Fld.ORB_OCTRIPS_COUNT (c : Nat) : Fld := ⟨(Reg.ORB_OCTRIPS c), 31, 0⟩
/-- Field of the register of that name. -/
def Fld.ORB_FAULTS_COUNT (c : Nat) : Fld := ⟨(Reg.ORB_FAULTS c), 31, 0⟩
/-- Field of the register of that name. -/
def Fld.NW_STATUS_MODE : Fld := ⟨Reg.NW_STATUS, 1, 0⟩
/-- Field of the register of that name. -/
def Fld.NW_STATUS_WINDOW : Fld := ⟨Reg.NW_STATUS, 2, 2⟩
/-- Field of the register of that name. -/
def Fld.NW_STATUS_SCRUB : Fld := ⟨Reg.NW_STATUS, 3, 3⟩
/-- Field of the register of that name. -/
def Fld.NW_STATUS_SETTLING : Fld := ⟨Reg.NW_STATUS, 4, 4⟩
/-- Field of the register of that name. -/
def Fld.NW_STATUS_RET_VALID : Fld := ⟨Reg.NW_STATUS, 5, 5⟩
/-- Field of the register of that name. -/
def Fld.NW_STATUS_ENROLLING : Fld := ⟨Reg.NW_STATUS, 6, 6⟩
/-- Field of the register of that name. -/
def Fld.NW_STATUS_BUSY : Fld := ⟨Reg.NW_STATUS, 7, 7⟩
/-- Field of the register of that name. -/
def Fld.NW_STATUS_DEAD : Fld := ⟨Reg.NW_STATUS, 15, 8⟩
/-- Field of the register of that name. -/
def Fld.NW_STATUS_PENDING : Fld := ⟨Reg.NW_STATUS, 18, 16⟩
/-- Field of the register of that name. -/
def Fld.NW_CTRL_MODE : Fld := ⟨Reg.NW_CTRL, 1, 0⟩
/-- Field of the register of that name. -/
def Fld.NW_CTRL_RESET : Fld := ⟨Reg.NW_CTRL, 8, 8⟩
/-- Field of the register of that name. -/
def Fld.NW_SCOUNT_LO_COUNT : Fld := ⟨Reg.NW_SCOUNT_LO, 31, 0⟩
/-- Field of the register of that name. -/
def Fld.NW_SCOUNT_HI_COUNT : Fld := ⟨Reg.NW_SCOUNT_HI, 31, 0⟩
/-- Field of the register of that name. -/
def Fld.NW_TSYNC_SC_LO_COUNT : Fld := ⟨Reg.NW_TSYNC_SC_LO, 31, 0⟩
/-- Field of the register of that name. -/
def Fld.NW_TSYNC_SC_HI_COUNT : Fld := ⟨Reg.NW_TSYNC_SC_HI, 31, 0⟩
/-- Field of the register of that name. -/
def Fld.NW_TSYNC_EP_LO_NS : Fld := ⟨Reg.NW_TSYNC_EP_LO, 31, 0⟩
/-- Field of the register of that name. -/
def Fld.NW_TSYNC_EP_HI_NS : Fld := ⟨Reg.NW_TSYNC_EP_HI, 31, 0⟩
/-- Field of the register of that name. -/
def Fld.NW_CFG_CRC_CRC : Fld := ⟨Reg.NW_CFG_CRC, 31, 0⟩
/-- Field of the register of that name. -/
def Fld.NW_MODEL_ID_ID : Fld := ⟨Reg.NW_MODEL_ID, 31, 0⟩
/-- Field of the register of that name. -/
def Fld.NW_SIGNAL_VALUE : Fld := ⟨Reg.NW_SIGNAL, 31, 0⟩
/-- Field of the register of that name. -/
def Fld.NW_POST_ALL : Fld := ⟨Reg.NW_POST, 31, 0⟩
/-- Field of the register of that name. -/
def Fld.NW_EVT_CODE_CODE : Fld := ⟨Reg.NW_EVT_CODE, 15, 0⟩
/-- Field of the register of that name. -/
def Fld.NW_EVT_CODE_KEYWORD : Fld := ⟨Reg.NW_EVT_CODE, 23, 16⟩
/-- Field of the register of that name. -/
def Fld.NW_EVT_CODE_USER : Fld := ⟨Reg.NW_EVT_CODE, 31, 24⟩
/-- Field of the register of that name. -/
def Fld.NW_EVT_SEQ_SEQ : Fld := ⟨Reg.NW_EVT_SEQ, 31, 0⟩
/-- Field of the register of that name. -/
def Fld.NW_WAKE_STAT_READY : Fld := ⟨Reg.NW_WAKE_STAT, 0, 0⟩
/-- Field of the register of that name. -/
def Fld.NW_WAKE_STAT_DROPS : Fld := ⟨Reg.NW_WAKE_STAT, 31, 16⟩
/-- Field of the register of that name. -/
def Fld.NW_WAKE_SEQ_SEQ : Fld := ⟨Reg.NW_WAKE_SEQ, 31, 0⟩
/-- Field of the register of that name. -/
def Fld.NW_WAKE_ACK_SEQ : Fld := ⟨Reg.NW_WAKE_ACK, 31, 0⟩
/-- Field of the register of that name. -/
def Fld.NW_CLOSE_SEQ : Fld := ⟨Reg.NW_CLOSE, 31, 0⟩
/-- Field of the register of that name. -/
def Fld.NW_PR_PAGE_PAGE : Fld := ⟨Reg.NW_PR_PAGE, 0, 0⟩
/-- Field of the register of that name. -/
def Fld.NW_PR_WPTR_OFFSET : Fld := ⟨Reg.NW_PR_WPTR, 18, 0⟩
/-- Field of the register of that name. -/
def Fld.NW_ENROL_USER : Fld := ⟨Reg.NW_ENROL, 2, 0⟩
/-- Field of the register of that name. -/
def Fld.NW_ENROL_KEYWORD : Fld := ⟨Reg.NW_ENROL, 11, 8⟩
/-- Field of the register of that name. -/
def Fld.NW_ENROL_OP : Fld := ⟨Reg.NW_ENROL, 13, 12⟩
/-- Field of the register of that name. -/
def Fld.NW_ENROL_SEQ : Fld := ⟨Reg.NW_ENROL, 31, 16⟩
/-- Field of the register of that name. -/
def Fld.NW_ENROL_RESULT_STATUS : Fld := ⟨Reg.NW_ENROL_RESULT, 2, 0⟩
/-- Field of the register of that name. -/
def Fld.NW_ENROL_RESULT_UTTER : Fld := ⟨Reg.NW_ENROL_RESULT, 5, 4⟩
/-- Field of the register of that name. -/
def Fld.NW_ENROL_RESULT_SEQ : Fld := ⟨Reg.NW_ENROL_RESULT, 31, 16⟩
/-- Field of the register of that name. -/
def Fld.NW_ENROL_DROPS_COUNT : Fld := ⟨Reg.NW_ENROL_DROPS, 15, 0⟩
/-- Field of the register of that name. -/
def Fld.NW_TONES_COUNT : Fld := ⟨Reg.NW_TONES, 31, 0⟩
/-- Field of the register of that name. -/
def Fld.NW_IMPACTS_COUNT : Fld := ⟨Reg.NW_IMPACTS, 31, 0⟩
/-- Field of the register of that name. -/
def Fld.NW_SHATTERS_COUNT : Fld := ⟨Reg.NW_SHATTERS, 31, 0⟩
/-- Field of the register of that name. -/
def Fld.NW_SETTLES_COUNT : Fld := ⟨Reg.NW_SETTLES, 31, 0⟩
/-- Field of the register of that name. -/
def Fld.NW_WAKE_DATA_DATA (k : Nat) : Fld := ⟨(Reg.NW_WAKE_DATA k), 31, 0⟩
/-- Field of the register of that name. -/
def Fld.NW_ENROLLED_KW (u : Nat) : Fld := ⟨(Reg.NW_ENROLLED u), 15, 0⟩
/-- Field of the register of that name. -/
def Fld.NW_CH_EN (c : Nat) : Fld := ⟨(Reg.NW_CH c), 0, 0⟩
/-- Field of the register of that name. -/
def Fld.NW_CH_DEAD (c : Nat) : Fld := ⟨(Reg.NW_CH c), 1, 1⟩
/-- Field of the register of that name. -/
def Fld.NW_CH_SETTLING (c : Nat) : Fld := ⟨(Reg.NW_CH c), 2, 2⟩
/-- Field of the register of that name. -/
def Fld.NW_CH_DEADS_COUNT (c : Nat) : Fld := ⟨(Reg.NW_CH_DEADS c), 31, 0⟩
/-- Field of the register of that name. -/
def Fld.NW_KW_COUNT_COUNT (k : Nat) : Fld := ⟨(Reg.NW_KW_COUNT k), 31, 0⟩
/-- Field of the register of that name. -/
def Fld.NW_TABLE_ROW (t : Nat) : Fld := ⟨(Reg.NW_TABLE t), 6, 0⟩
/-- Field of the register of that name. -/
def Fld.NW_TABLE_HALTED (t : Nat) : Fld := ⟨(Reg.NW_TABLE t), 7, 7⟩
/-- Field of the register of that name. -/
def Fld.NW_TABLE_STEPLIM (t : Nat) : Fld := ⟨(Reg.NW_TABLE t), 31, 16⟩
/-- Field of the register of that name. -/
def Fld.SBD_EVT_SEQ_SEQ : Fld := ⟨Reg.SBD_EVT_SEQ, 31, 0⟩
/-- Field of the register of that name. -/
def Fld.SBD_GPIO_IN_IN : Fld := ⟨Reg.SBD_GPIO_IN, 15, 0⟩
/-- Field of the register of that name. -/
def Fld.SBD_GPIO_OUT_OUT : Fld := ⟨Reg.SBD_GPIO_OUT, 15, 0⟩
/-- Field of the register of that name. -/
def Fld.SBD_GPIO_DIR_DIR : Fld := ⟨Reg.SBD_GPIO_DIR, 15, 0⟩
/-- Field of the register of that name. -/
def Fld.SBD_GPIO_OD_OD : Fld := ⟨Reg.SBD_GPIO_OD, 15, 0⟩
/-- Field of the register of that name. -/
def Fld.SBD_GPIO_SET_SET : Fld := ⟨Reg.SBD_GPIO_SET, 15, 0⟩
/-- Field of the register of that name. -/
def Fld.SBD_GPIO_CLR_CLR : Fld := ⟨Reg.SBD_GPIO_CLR, 15, 0⟩
/-- Field of the register of that name. -/
def Fld.SBD_GPIO_EVT_EDGE : Fld := ⟨Reg.SBD_GPIO_EVT, 15, 0⟩
/-- Field of the register of that name. -/
def Fld.SBD_GPIO_EDGECFG_CFG : Fld := ⟨Reg.SBD_GPIO_EDGECFG, 31, 0⟩
/-- Field of the register of that name. -/
def Fld.SBD_EVT_ACK_SEQ : Fld := ⟨Reg.SBD_EVT_ACK, 31, 0⟩
/-- Field of the register of that name. -/
def Fld.SBD_SB_STATUS_DA : Fld := ⟨Reg.SBD_SB_STATUS, 6, 0⟩
/-- Field of the register of that name. -/
def Fld.SBD_SB_STATUS_I3C : Fld := ⟨Reg.SBD_SB_STATUS, 8, 8⟩
/-- Field of the register of that name. -/
def Fld.SBD_SB_STATUS_IBI_EN : Fld := ⟨Reg.SBD_SB_STATUS, 9, 9⟩
/-- Field of the register of that name. -/
def Fld.SBD_SB_STATUS_SA : Fld := ⟨Reg.SBD_SB_STATUS, 22, 16⟩
/-- Field of the register of that name. -/
def Fld.SBD_SB_TOSB_MSG : Fld := ⟨Reg.SBD_SB_TOSB, 31, 0⟩
/-- Field of the register of that name. -/
def Fld.SBD_SB_TOSB_SEQ_SEQ : Fld := ⟨Reg.SBD_SB_TOSB_SEQ, 31, 0⟩
/-- Field of the register of that name. -/
def Fld.SBD_SB_FROMSB_MSG : Fld := ⟨Reg.SBD_SB_FROMSB, 31, 0⟩
/-- Field of the register of that name. -/
def Fld.SBD_SB_FROMSB_SEQ_SEQ : Fld := ⟨Reg.SBD_SB_FROMSB_SEQ, 31, 0⟩
/-- Field of the register of that name. -/
def Fld.SBD_SB_TRIGDROP_COUNT : Fld := ⟨Reg.SBD_SB_TRIGDROP, 15, 0⟩
/-- Field of the register of that name. -/
def Fld.SBD_SPI_CMD_OPCODE : Fld := ⟨Reg.SBD_SPI_CMD, 7, 0⟩
/-- Field of the register of that name. -/
def Fld.SBD_SPI_CMD_ADDR_BYTES : Fld := ⟨Reg.SBD_SPI_CMD, 9, 8⟩
/-- Field of the register of that name. -/
def Fld.SBD_SPI_CMD_DUMMY : Fld := ⟨Reg.SBD_SPI_CMD, 15, 12⟩
/-- Field of the register of that name. -/
def Fld.SBD_SPI_CMD_READ : Fld := ⟨Reg.SBD_SPI_CMD, 16, 16⟩
/-- Field of the register of that name. -/
def Fld.SBD_SPI_ADDR_ADDR : Fld := ⟨Reg.SBD_SPI_ADDR, 31, 0⟩
/-- Field of the register of that name. -/
def Fld.SBD_SPI_GO_LEN : Fld := ⟨Reg.SBD_SPI_GO, 8, 0⟩
/-- Field of the register of that name. -/
def Fld.SBD_SPI_GO_SEQ : Fld := ⟨Reg.SBD_SPI_GO, 31, 16⟩
/-- Field of the register of that name. -/
def Fld.SBD_SPI_RESULT_DONE : Fld := ⟨Reg.SBD_SPI_RESULT, 0, 0⟩
/-- Field of the register of that name. -/
def Fld.SBD_SPI_RESULT_SEQ : Fld := ⟨Reg.SBD_SPI_RESULT, 31, 16⟩
/-- Field of the register of that name. -/
def Fld.SBD_SPI_DROPS_COUNT : Fld := ⟨Reg.SBD_SPI_DROPS, 15, 0⟩
/-- Field of the register of that name. -/
def Fld.SBD_SPI_DATA_DATA (k : Nat) : Fld := ⟨(Reg.SBD_SPI_DATA k), 31, 0⟩
/-- Field of the register of that name. -/
def Fld.SBD_PCIE_AP_LO_APBASE (f : Nat) : Fld := ⟨(Reg.SBD_PCIE_AP_LO f), 31, 21⟩
/-- Field of the register of that name. -/
def Fld.SBD_PCIE_AP_HI_APBASE (f : Nat) : Fld := ⟨(Reg.SBD_PCIE_AP_HI f), 7, 0⟩
/-- Field of the register of that name. -/
def Fld.SBD_PCIE_STATUS_GEN (p : Nat) : Fld := ⟨(Reg.SBD_PCIE_STATUS p), 2, 0⟩
/-- Field of the register of that name. -/
def Fld.SBD_PCIE_STATUS_WIDTH (p : Nat) : Fld := ⟨(Reg.SBD_PCIE_STATUS p), 6, 4⟩
/-- Field of the register of that name. -/
def Fld.SBD_PCIE_STATUS_L0 (p : Nat) : Fld := ⟨(Reg.SBD_PCIE_STATUS p), 8, 8⟩
/-- Field of the register of that name. -/
def Fld.SBD_PCIE_STATUS_PRIMARY (p : Nat) : Fld := ⟨(Reg.SBD_PCIE_STATUS p), 9, 9⟩
/-- Field of the register of that name. -/
def Fld.SBD_PCIE_DOWNS_COUNT (p : Nat) : Fld := ⟨(Reg.SBD_PCIE_DOWNS p), 31, 0⟩
/-- Field of the register of that name. -/
def Fld.SBD_PCIE_MSGLOST_COUNT (p : Nat) : Fld := ⟨(Reg.SBD_PCIE_MSGLOST p), 31, 0⟩
/-- Field of the register of that name. -/
def Fld.FLT_SEQ_SEQ : Fld := ⟨Reg.FLT_SEQ, 31, 0⟩
/-- Field of the register of that name. -/
def Fld.FLT_LOST_COUNT : Fld := ⟨Reg.FLT_LOST, 31, 0⟩
/-- Field of the register of that name. -/
def Fld.FLT_MERGED_COUNT : Fld := ⟨Reg.FLT_MERGED, 31, 0⟩
/-- Field of the register of that name. -/
def Fld.FLT_QUEUE_LEVEL : Fld := ⟨Reg.FLT_QUEUE, 6, 0⟩
/-- Field of the register of that name. -/
def Fld.FLT_COUNT_COUNT (k : Nat) : Fld := ⟨(Reg.FLT_COUNT k), 31, 0⟩
/-- Field of the register of that name. -/
def Fld.FLT_REC_DATA (i : Nat) (w : Nat) : Fld := ⟨(Reg.FLT_REC i w), 31, 0⟩
/-- Field of the register of that name. -/
def Fld.OVN_STATUS_STATE (n : Nat) : Fld := ⟨(Reg.OVN_STATUS n), 1, 0⟩
/-- Field of the register of that name. -/
def Fld.OVN_STATUS_WAIT (n : Nat) : Fld := ⟨(Reg.OVN_STATUS n), 4, 2⟩
/-- Field of the register of that name. -/
def Fld.OVN_STATUS_TAINT (n : Nat) : Fld := ⟨(Reg.OVN_STATUS n), 5, 5⟩
/-- Field of the register of that name. -/
def Fld.OVN_STATUS_PC (n : Nat) : Fld := ⟨(Reg.OVN_STATUS n), 25, 16⟩
/-- Field of the register of that name. -/
def Fld.OVN_CONFIG_BAKERY (n : Nat) : Fld := ⟨(Reg.OVN_CONFIG n), 3, 0⟩
/-- Field of the register of that name. -/
def Fld.OVN_CONFIG_RING_LEN (n : Nat) : Fld := ⟨(Reg.OVN_CONFIG n), 8, 4⟩
/-- Field of the register of that name. -/
def Fld.OVN_CONFIG_INSTRS (n : Nat) : Fld := ⟨(Reg.OVN_CONFIG n), 20, 10⟩
/-- Field of the register of that name. -/
def Fld.OVN_CONFIG_MEMBER (n : Nat) : Fld := ⟨(Reg.OVN_CONFIG n), 31, 31⟩
/-- Field of the register of that name. -/
def Fld.OVN_PASS_PASSES (n : Nat) : Fld := ⟨(Reg.OVN_PASS n), 31, 0⟩
/-- Field of the register of that name. -/
def Fld.OVN_HC_LO_HC (n : Nat) : Fld := ⟨(Reg.OVN_HC_LO n), 31, 0⟩
/-- Field of the register of that name. -/
def Fld.OVN_HC_HI_HC (n : Nat) : Fld := ⟨(Reg.OVN_HC_HI n), 31, 0⟩
/-- Field of the register of that name. -/
def Fld.OVN_ACCSAT_COUNT (n : Nat) : Fld := ⟨(Reg.OVN_ACCSAT n), 31, 0⟩
/-- Field of the register of that name. -/
def Fld.OVN_LANESAT_COUNT (n : Nat) : Fld := ⟨(Reg.OVN_LANESAT n), 31, 0⟩
/-- Field of the register of that name. -/
def Fld.OVN_WAITUS_US (n : Nat) (k : Nat) : Fld := ⟨(Reg.OVN_WAITUS n k), 31, 0⟩

/-- The registers of block GLB. -/
def regTableGlb : List RegDesc := [
  ⟨0x0, 1, 4, 1, 4, [⟨31, 24, .ro, 0, 255⟩, ⟨23, 16, .ro, 0, 255⟩, ⟨15, 10, .ro, 0, 63⟩, ⟨9, 9, .ro, 0, 1⟩, ⟨8, 8, .ro, 0, 1⟩, ⟨7, 6, .ro, 0, 3⟩, ⟨5, 4, .ro, 0, 3⟩, ⟨3, 0, .ro, 0, 15⟩]⟩,
  ⟨0x4, 1, 4, 1, 4, [⟨2, 0, .rwl, 0, 7⟩, ⟨3, 3, .ro, 0, 1⟩, ⟨31, 16, .rwl, 0, 65535⟩]⟩,
  ⟨0x8, 1, 4, 1, 4, [⟨31, 0, .ro, 0, 4294967295⟩]⟩,
  ⟨0xc, 1, 4, 1, 4, [⟨31, 0, .ro, 0, 4294967295⟩]⟩]

/-- The registers of block RCP. -/
def regTableRcp : List RegDesc := [
  ⟨0x10000, 1, 4, 1, 4, [⟨2, 0, .ro, 0, 7⟩, ⟨3, 3, .ro, 0, 1⟩, ⟨5, 4, .ro, 0, 3⟩, ⟨7, 6, .ro, 0, 3⟩, ⟨8, 8, .ro, 0, 1⟩]⟩,
  ⟨0x10004, 1, 4, 1, 4, [⟨31, 0, .ro, 0, 4294967295⟩]⟩,
  ⟨0x10008, 1, 4, 1, 4, [⟨31, 0, .ro, 0, 4294967295⟩]⟩,
  ⟨0x1000c, 1, 4, 1, 4, [⟨15, 0, .ro, 0, 65535⟩, ⟨31, 16, .ro, 0, 65535⟩]⟩,
  ⟨0x10010, 1, 4, 1, 4, [⟨3, 0, .ro, 0, 15⟩, ⟨7, 4, .ro, 0, 15⟩, ⟨9, 8, .ro, 0, 3⟩]⟩,
  ⟨0x10014, 1, 4, 1, 4, [⟨31, 6, .rw, 0, 67108863⟩]⟩,
  ⟨0x10018, 1, 4, 1, 4, [⟨31, 0, .rw, 0, 4294967295⟩]⟩,
  ⟨0x1001c, 1, 4, 1, 4, [⟨25, 0, .rw, 0, 33554432⟩]⟩,
  ⟨0x10020, 1, 4, 1, 4, [⟨1, 0, .wo, 0, 3⟩, ⟨7, 4, .wo, 0, 15⟩, ⟨31, 16, .wo, 0, 65535⟩]⟩,
  ⟨0x10024, 1, 4, 1, 4, [⟨7, 0, .ro, 0, 255⟩, ⟨9, 8, .ro, 0, 3⟩, ⟨31, 16, .ro, 0, 65535⟩]⟩,
  ⟨0x10028, 1, 4, 1, 4, [⟨15, 0, .ro, 0, 65535⟩]⟩,
  ⟨0x1002c, 1, 4, 1, 4, [⟨25, 0, .ro, 0, 67108863⟩]⟩,
  ⟨0x10030, 1, 4, 1, 4, [⟨15, 0, .ro, 0, 65535⟩]⟩,
  ⟨0x10034, 1, 4, 1, 4, [⟨9, 0, .rw, 1, 1000⟩]⟩,
  ⟨0x10038, 1, 4, 1, 4, [⟨31, 0, .ro, 0, 4294967295⟩]⟩,
  ⟨0x10040, 16, 4, 1, 4, [⟨1, 0, .ro, 0, 3⟩, ⟨15, 8, .ro, 0, 255⟩, ⟨23, 16, .ro, 0, 255⟩]⟩]

/-- The registers of block PWR. -/
def regTablePwr : List RegDesc := [
  ⟨0x20000, 1, 4, 1, 4, [⟨0, 0, .ro, 0, 1⟩, ⟨1, 1, .ro, 0, 1⟩, ⟨2, 2, .ro, 0, 1⟩, ⟨4, 4, .ro, 0, 1⟩, ⟨8, 8, .ro, 0, 1⟩, ⟨9, 9, .ro, 0, 1⟩, ⟨10, 10, .ro, 0, 1⟩]⟩,
  ⟨0x20004, 1, 4, 1, 4, [⟨3, 0, .wo, 0, 15⟩, ⟨31, 16, .wo, 0, 65535⟩]⟩,
  ⟨0x20008, 1, 4, 1, 4, [⟨3, 0, .ro, 0, 15⟩, ⟨4, 4, .ro, 0, 1⟩, ⟨31, 16, .ro, 0, 65535⟩]⟩,
  ⟨0x20010, 6, 4, 1, 4, [⟨31, 0, .ro, 0, 4294967295⟩]⟩,
  ⟨0x20030, 6, 4, 1, 4, [⟨31, 0, .ro, 0, 4294967295⟩]⟩,
  ⟨0x20050, 6, 4, 1, 4, [⟨31, 0, .ro, 0, 4294967295⟩]⟩,
  ⟨0x20100, 164, 4, 1, 4, [⟨1, 0, .rw, 0, 3⟩]⟩]

/-- The registers of block PACE. -/
def regTablePace : List RegDesc := [
  ⟨0x30000, 1, 4, 1, 4, [⟨1, 0, .rw, 0, 2⟩]⟩,
  ⟨0x30004, 1, 4, 1, 4, [⟨2, 0, .ro, 0, 7⟩, ⟨3, 3, .ro, 0, 1⟩, ⟨4, 4, .ro, 0, 1⟩, ⟨5, 5, .ro, 0, 1⟩, ⟨6, 6, .ro, 0, 1⟩]⟩,
  ⟨0x30008, 1, 4, 1, 4, [⟨15, 0, .ro, 0, 65535⟩, ⟨31, 16, .ro, 0, 65535⟩]⟩,
  ⟨0x3000c, 1, 4, 1, 4, [⟨5, 0, .rw, 0, 60⟩, ⟨13, 8, .rw, 0, 60⟩, ⟨21, 16, .rw, 0, 60⟩]⟩,
  ⟨0x30010, 1, 4, 1, 4, [⟨7, 0, .rw, 0, 64⟩]⟩,
  ⟨0x30014, 1, 4, 1, 4, [⟨9, 0, .rwl, 0, 1023⟩, ⟨25, 16, .rw, 120, 720⟩]⟩,
  ⟨0x30018, 1, 4, 1, 4, [⟨10, 0, .ro, 0, 2047⟩, ⟨26, 16, .ro, 0, 2047⟩]⟩,
  ⟨0x3001c, 1, 4, 1, 4, [⟨9, 0, .ro, 0, 1023⟩, ⟨15, 10, .ro, 0, 63⟩, ⟨25, 16, .ro, 0, 1023⟩]⟩,
  ⟨0x30020, 1, 4, 1, 4, [⟨3, 0, .ro, 0, 15⟩, ⟨7, 4, .ro, 0, 15⟩, ⟨15, 8, .ro, 0, 255⟩]⟩,
  ⟨0x30024, 1, 4, 1, 4, [⟨15, 0, .ro, 0, 65535⟩]⟩,
  ⟨0x30028, 1, 4, 1, 4, [⟨0, 0, .ro, 0, 1⟩, ⟨1, 1, .ro, 0, 1⟩, ⟨2, 2, .ro, 0, 1⟩, ⟨3, 3, .ro, 0, 1⟩, ⟨4, 4, .ro, 0, 1⟩, ⟨5, 5, .ro, 0, 1⟩]⟩,
  ⟨0x3002c, 1, 4, 1, 4, [⟨31, 0, .ro, 0, 4294967295⟩]⟩,
  ⟨0x30030, 1, 4, 1, 4, [⟨3, 0, .rwl, 0, 15⟩, ⟨12, 8, .rwl, 0, 31⟩, ⟨21, 16, .rwl, 0, 63⟩]⟩,
  ⟨0x30034, 1, 4, 1, 4, [⟨15, 0, .ro, 0, 65535⟩, ⟨23, 16, .ro, 0, 255⟩]⟩,
  ⟨0x30038, 1, 4, 1, 4, [⟨31, 0, .wo, 0, 4294967295⟩]⟩,
  ⟨0x3003c, 1, 4, 1, 4, [⟨7, 0, .rwl, 0, 255⟩, ⟨11, 8, .rwl, 0, 15⟩]⟩,
  ⟨0x30040, 16, 4, 1, 4, [⟨1, 0, .rwl, 0, 3⟩, ⟨31, 31, .rwl, 0, 1⟩]⟩,
  ⟨0x30100, 48, 4, 1, 4, [⟨11, 0, .ro, 0, 4095⟩, ⟨21, 12, .ro, 0, 1023⟩, ⟨31, 31, .ro, 0, 1⟩]⟩,
  ⟨0x30200, 48, 4, 1, 4, [⟨31, 0, .rwl, 0, 4294967295⟩]⟩]

/-- The registers of block ZEN. -/
def regTableZen : List RegDesc := [
  ⟨0x40000, 1, 4, 1, 4, [⟨5, 0, .wo, 0, 63⟩, ⟨31, 16, .wo, 0, 65535⟩]⟩,
  ⟨0x40004, 1, 4, 1, 4, [⟨31, 0, .wo, 0, 4294967295⟩]⟩,
  ⟨0x40008, 1, 4, 1, 4, [⟨3, 0, .ro, 0, 15⟩]⟩,
  ⟨0x40010, 1, 4, 1, 4, [⟨31, 0, .ro, 0, 4294967295⟩]⟩,
  ⟨0x40014, 1, 4, 1, 4, [⟨31, 0, .ro, 0, 4294967295⟩]⟩,
  ⟨0x40040, 8, 4, 1, 4, [⟨5, 0, .ro, 0, 63⟩, ⟨7, 7, .ro, 0, 1⟩, ⟨25, 16, .ro, 0, 1023⟩]⟩,
  ⟨0x40100, 64, 4, 1, 4, [⟨15, 0, .ro, 0, 65535⟩, ⟨31, 16, .ro, 0, 65535⟩]⟩]

/-- The registers of block FAB. -/
def regTableFab : List RegDesc := [
  ⟨0x80000, 1, 4, 1, 4, [⟨9, 0, .rw, 1, 1000⟩]⟩,
  ⟨0x80004, 1, 4, 1, 4, [⟨4, 0, .rw, 1, 16⟩]⟩,
  ⟨0x80008, 1, 4, 1, 4, [⟨15, 0, .rw, 10, 65535⟩]⟩,
  ⟨0x8000c, 1, 4, 1, 4, [⟨15, 0, .ro, 0, 65535⟩]⟩,
  ⟨0x81000, 80, 4, 1, 4, [⟨19, 0, .ro, 0, 1048575⟩]⟩,
  ⟨0x81400, 80, 4, 1, 4, [⟨11, 0, .ro, 0, 4095⟩, ⟨27, 16, .ro, 0, 4095⟩]⟩,
  ⟨0x81800, 80, 4, 1, 4, [⟨31, 0, .ro, 0, 4294967295⟩]⟩,
  ⟨0x81c00, 80, 4, 1, 4, [⟨31, 0, .ro, 0, 4294967295⟩]⟩,
  ⟨0x82000, 80, 4, 1, 4, [⟨31, 0, .ro, 0, 4294967295⟩]⟩,
  ⟨0x88000, 1024, 8, 1, 4, [⟨9, 0, .rwl, 0, 1023⟩, ⟨19, 10, .ro, 0, 1023⟩, ⟨29, 29, .rwl, 0, 1⟩, ⟨30, 30, .ro, 0, 1⟩, ⟨31, 31, .rwl, 0, 1⟩]⟩,
  ⟨0x88004, 1024, 8, 1, 4, [⟨31, 0, .ro, 0, 4294967295⟩]⟩]

/-- The registers of block MBX. -/
def regTableMbx : List RegDesc := [
  ⟨0xa0000, 256, 64, 16, 4, [⟨31, 0, .ro, 0, 4294967295⟩]⟩,
  ⟨0xa4000, 256, 8, 1, 4, [⟨0, 0, .ro, 0, 1⟩, ⟨1, 1, .ro, 0, 1⟩, ⟨31, 16, .ro, 0, 65535⟩]⟩,
  ⟨0xa4004, 256, 8, 1, 4, [⟨31, 0, .ro, 0, 4294967295⟩]⟩,
  ⟨0xa6000, 256, 4, 1, 4, [⟨31, 0, .wo, 0, 4294967295⟩]⟩,
  ⟨0xa7000, 256, 4, 1, 4, [⟨9, 0, .rwl, 0, 1023⟩, ⟨15, 15, .rwl, 0, 1⟩]⟩]

/-- The registers of block AWT. -/
def regTableAwt : List RegDesc := [
  ⟨0xc0000, 4096, 4, 1, 4, [⟨5, 0, .rwl, 0, 63⟩, ⟨7, 7, .rwl, 0, 1⟩]⟩,
  ⟨0xc4000, 84, 4, 1, 4, [⟨6, 0, .rwl, 0, 127⟩]⟩,
  ⟨0xc4400, 84, 4, 1, 4, [⟨31, 0, .ro, 0, 4294967295⟩]⟩,
  ⟨0xc8000, 84, 2048, 64, 32, [⟨31, 0, .rwl, 0, 4294967295⟩]⟩,
  ⟨0xc8004, 84, 2048, 64, 32, [⟨7, 0, .rwl, 0, 255⟩]⟩,
  ⟨0xc8008, 84, 2048, 64, 32, [⟨31, 0, .rwl, 0, 4294967295⟩]⟩,
  ⟨0xc800c, 84, 2048, 64, 32, [⟨7, 0, .rwl, 0, 255⟩]⟩,
  ⟨0xc8010, 84, 2048, 64, 32, [⟨31, 0, .rwl, 0, 4294967295⟩]⟩,
  ⟨0xc8014, 84, 2048, 64, 32, [⟨31, 0, .rwl, 0, 4294967295⟩]⟩,
  ⟨0xc8018, 84, 2048, 64, 32, [⟨31, 0, .rwl, 0, 4294967295⟩]⟩,
  ⟨0xc801c, 84, 2048, 64, 32, [⟨31, 0, .rwl, 0, 4294967295⟩]⟩]

/-- The registers of block CTX. -/
def regTableCtx : List RegDesc := [
  ⟨0x100000, 1024, 64, 1, 4, [⟨31, 6, .rw, 0, 67108863⟩]⟩,
  ⟨0x100004, 1024, 64, 1, 4, [⟨7, 0, .rw, 0, 255⟩]⟩,
  ⟨0x100008, 1024, 64, 1, 4, [⟨31, 5, .rw, 0, 134217727⟩]⟩,
  ⟨0x10000c, 1024, 64, 1, 4, [⟨7, 0, .rw, 0, 255⟩]⟩,
  ⟨0x100010, 1024, 64, 1, 4, [⟨3, 0, .rw, 4, 12⟩, ⟨11, 8, .rw, 4, 12⟩]⟩,
  ⟨0x100014, 1024, 64, 1, 4, [⟨1, 0, .wo, 0, 3⟩]⟩,
  ⟨0x100018, 1024, 64, 1, 4, [⟨11, 0, .ro, 0, 4095⟩, ⟨27, 16, .ro, 0, 4095⟩]⟩,
  ⟨0x10001c, 1024, 64, 1, 4, [⟨11, 0, .ro, 0, 4095⟩, ⟨27, 16, .ro, 0, 4095⟩]⟩,
  ⟨0x100020, 1024, 64, 1, 4, [⟨1, 0, .ro, 0, 3⟩, ⟨2, 2, .ro, 0, 1⟩, ⟨3, 3, .ro, 0, 1⟩, ⟨28, 16, .ro, 0, 8191⟩]⟩,
  ⟨0x100024, 1024, 64, 1, 4, [⟨5, 0, .rwl, 0, 63⟩, ⟨7, 7, .rwl, 0, 1⟩, ⟨11, 8, .rwl, 0, 15⟩, ⟨15, 15, .rwl, 0, 1⟩]⟩,
  ⟨0x100028, 1024, 64, 1, 4, [⟨31, 0, .ro, 0, 4294967295⟩]⟩]

/-- The registers of block STR. -/
def regTableStr : List RegDesc := [
  ⟨0x200000, 16, 4096, 1, 4, [⟨1, 0, .wo, 0, 3⟩]⟩,
  ⟨0x200004, 16, 4096, 1, 4, [⟨1, 0, .ro, 0, 3⟩, ⟨2, 2, .ro, 0, 1⟩, ⟨6, 4, .ro, 0, 7⟩, ⟨15, 8, .ro, 0, 255⟩]⟩,
  ⟨0x200008, 16, 4096, 1, 4, [⟨31, 0, .wo, 0, 4294967295⟩]⟩,
  ⟨0x20000c, 16, 4096, 1, 4, [⟨31, 0, .wo, 0, 4294967295⟩]⟩,
  ⟨0x200010, 16, 4096, 1, 4, [⟨15, 0, .ro, 0, 65535⟩, ⟨31, 16, .ro, 0, 65535⟩]⟩,
  ⟨0x200014, 16, 4096, 1, 4, [⟨31, 0, .ro, 0, 4294967295⟩]⟩,
  ⟨0x200018, 16, 4096, 1, 4, [⟨31, 0, .ro, 0, 4294967295⟩]⟩,
  ⟨0x20001c, 16, 4096, 1, 4, [⟨31, 0, .ro, 0, 4294967295⟩]⟩,
  ⟨0x200020, 16, 4096, 1, 4, [⟨31, 0, .ro, 0, 4294967295⟩]⟩,
  ⟨0x200024, 16, 4096, 1, 4, [⟨31, 0, .ro, 0, 4294967295⟩]⟩,
  ⟨0x200028, 16, 4096, 1, 4, [⟨31, 0, .ro, 0, 4294967295⟩]⟩,
  ⟨0x20002c, 16, 4096, 1, 4, [⟨31, 0, .ro, 0, 4294967295⟩]⟩,
  ⟨0x200030, 16, 4096, 1, 4, [⟨31, 0, .ro, 0, 4294967295⟩]⟩,
  ⟨0x200034, 16, 4096, 1, 4, [⟨31, 0, .ro, 0, 4294967295⟩]⟩,
  ⟨0x200038, 16, 4096, 1, 4, [⟨31, 0, .ro, 0, 4294967295⟩]⟩,
  ⟨0x20003c, 16, 4096, 1, 4, [⟨31, 0, .ro, 0, 4294967295⟩]⟩,
  ⟨0x210000, 4, 256, 1, 4, [⟨1, 0, .wo, 0, 3⟩]⟩,
  ⟨0x210004, 4, 256, 1, 4, [⟨0, 0, .ro, 0, 1⟩, ⟨5, 4, .ro, 0, 3⟩]⟩,
  ⟨0x210008, 4, 256, 1, 4, [⟨1, 0, .rw, 0, 3⟩]⟩,
  ⟨0x21000c, 4, 256, 1, 4, [⟨31, 0, .rw, 0, 4294967295⟩]⟩,
  ⟨0x210010, 4, 256, 1, 4, [⟨31, 0, .ro, 0, 4294967295⟩]⟩,
  ⟨0x210014, 4, 256, 1, 4, [⟨31, 0, .ro, 0, 4294967295⟩]⟩,
  ⟨0x210018, 4, 256, 1, 4, [⟨31, 0, .ro, 0, 4294967295⟩]⟩,
  ⟨0x21001c, 4, 256, 1, 4, [⟨31, 0, .ro, 0, 4294967295⟩]⟩,
  ⟨0x211000, 4, 256, 1, 4, [⟨31, 0, .ro, 0, 4294967295⟩]⟩,
  ⟨0x211004, 4, 256, 1, 4, [⟨31, 0, .ro, 0, 4294967295⟩]⟩,
  ⟨0x211008, 4, 256, 1, 4, [⟨0, 0, .ro, 0, 1⟩]⟩]

/-- The registers of block MEM. -/
def regTableMem : List RegDesc := [
  ⟨0x300000, 1, 4, 1, 4, [⟨0, 0, .rwl, 0, 1⟩, ⟨1, 1, .rwl, 0, 1⟩, ⟨15, 8, .rwl, 0, 255⟩, ⟨21, 16, .rwl, 0, 63⟩]⟩,
  ⟨0x300004, 1, 4, 1, 4, [⟨15, 0, .ro, 0, 65535⟩]⟩,
  ⟨0x300008, 1, 4, 1, 4, [⟨31, 0, .ro, 0, 4294967295⟩]⟩,
  ⟨0x300010, 16, 4, 1, 4, [⟨1, 0, .ro, 0, 3⟩, ⟨2, 2, .ro, 0, 1⟩, ⟨7, 4, .ro, 0, 15⟩]⟩,
  ⟨0x300080, 16, 4, 1, 4, [⟨31, 0, .ro, 0, 4294967295⟩]⟩,
  ⟨0x3000c0, 16, 4, 1, 4, [⟨31, 0, .ro, 0, 4294967295⟩]⟩,
  ⟨0x300100, 16, 4, 1, 4, [⟨31, 0, .ro, 0, 4294967295⟩]⟩,
  ⟨0x300200, 64, 16, 1, 4, [⟨31, 12, .rw, 0, 1048575⟩]⟩,
  ⟨0x300204, 64, 16, 1, 4, [⟨31, 0, .rw, 0, 4294967295⟩]⟩,
  ⟨0x300208, 64, 16, 1, 4, [⟨0, 0, .rw, 0, 1⟩, ⟨1, 1, .rwl, 0, 1⟩, ⟨31, 16, .ro, 0, 65535⟩]⟩,
  ⟨0x300800, 256, 4, 1, 4, [⟨1, 0, .rwl, 0, 3⟩, ⟨2, 2, .rwl, 0, 1⟩, ⟨3, 3, .ro, 0, 1⟩, ⟨4, 4, .ro, 0, 1⟩]⟩]

/-- The registers of block CPY. -/
def regTableCpy : List RegDesc := [
  ⟨0x380000, 8, 4096, 1, 4, [⟨1, 0, .ro, 0, 3⟩, ⟨15, 8, .ro, 0, 255⟩, ⟨25, 16, .ro, 0, 1023⟩]⟩,
  ⟨0x380004, 8, 4096, 1, 4, [⟨31, 0, .ro, 0, 4294967295⟩]⟩,
  ⟨0x380008, 8, 4096, 1, 4, [⟨31, 0, .ro, 0, 4294967295⟩]⟩,
  ⟨0x38000c, 8, 4096, 1, 4, [⟨31, 0, .ro, 0, 4294967295⟩]⟩]

/-- The registers of block MER. -/
def regTableMer : List RegDesc := [
  ⟨0x400000, 1, 4, 1, 4, [⟨7, 0, .ro, 0, 255⟩, ⟨10, 8, .ro, 0, 7⟩, ⟨13, 12, .ro, 0, 3⟩]⟩,
  ⟨0x400004, 1, 4, 1, 4, [⟨0, 0, .wo, 0, 1⟩, ⟨31, 16, .wo, 0, 65535⟩]⟩,
  ⟨0x400008, 1, 4, 1, 4, [⟨7, 0, .ro, 0, 255⟩, ⟨15, 8, .ro, 0, 255⟩, ⟨31, 16, .ro, 0, 65535⟩]⟩,
  ⟨0x40000c, 1, 4, 1, 4, [⟨1, 0, .wo, 0, 3⟩, ⟨31, 16, .wo, 0, 65535⟩]⟩,
  ⟨0x400010, 1, 4, 1, 4, [⟨31, 0, .ro, 0, 4294967295⟩]⟩,
  ⟨0x400014, 1, 4, 1, 4, [⟨31, 0, .ro, 0, 4294967295⟩]⟩,
  ⟨0x400018, 1, 4, 1, 4, [⟨31, 0, .ro, 0, 4294967295⟩]⟩,
  ⟨0x400020, 8, 4, 1, 4, [⟨3, 0, .rwl, 0, 15⟩, ⟨7, 4, .ro, 0, 15⟩]⟩,
  ⟨0x400100, 4, 64, 1, 4, [⟨2, 0, .ro, 0, 7⟩, ⟨4, 3, .ro, 0, 3⟩, ⟨5, 5, .ro, 0, 1⟩, ⟨6, 6, .ro, 0, 1⟩, ⟨10, 8, .ro, 0, 7⟩, ⟨13, 12, .ro, 0, 3⟩, ⟨17, 16, .rwl, 0, 3⟩]⟩,
  ⟨0x400104, 4, 64, 1, 4, [⟨0, 0, .rw, 0, 1⟩]⟩,
  ⟨0x400108, 4, 64, 1, 4, [⟨31, 0, .ro, 0, 4294967295⟩]⟩,
  ⟨0x40010c, 4, 64, 1, 4, [⟨31, 0, .ro, 0, 4294967295⟩]⟩,
  ⟨0x400110, 4, 64, 1, 4, [⟨31, 0, .ro, 0, 4294967295⟩]⟩,
  ⟨0x400114, 4, 64, 1, 4, [⟨31, 0, .ro, 0, 4294967295⟩]⟩,
  ⟨0x400118, 4, 64, 1, 4, [⟨31, 0, .ro, 0, 4294967295⟩]⟩,
  ⟨0x40011c, 4, 64, 1, 4, [⟨31, 0, .ro, 0, 4294967295⟩]⟩]

/-- The registers of block VIN. -/
def regTableVin : List RegDesc := [
  ⟨0x480000, 1, 4, 1, 4, [⟨31, 0, .ro, 0, 4294967295⟩]⟩,
  ⟨0x480100, 2, 256, 1, 4, [⟨1, 0, .ro, 0, 3⟩, ⟨3, 2, .rwl, 0, 3⟩, ⟨5, 4, .rwl, 0, 3⟩]⟩,
  ⟨0x480104, 2, 256, 1, 4, [⟨31, 0, .ro, 0, 4294967295⟩]⟩,
  ⟨0x480108, 2, 256, 1, 4, [⟨31, 0, .ro, 0, 4294967295⟩]⟩,
  ⟨0x48010c, 2, 256, 1, 4, [⟨31, 0, .ro, 0, 4294967295⟩]⟩,
  ⟨0x480110, 2, 256, 1, 4, [⟨31, 0, .ro, 0, 4294967295⟩]⟩,
  ⟨0x480114, 2, 256, 1, 4, [⟨31, 0, .ro, 0, 4294967295⟩]⟩,
  ⟨0x480118, 2, 256, 1, 4, [⟨31, 0, .ro, 0, 4294967295⟩]⟩,
  ⟨0x48011c, 2, 256, 1, 4, [⟨31, 0, .ro, 0, 4294967295⟩]⟩,
  ⟨0x481000, 2, 1024, 16, 64, [⟨31, 0, .ro, 0, 4294967295⟩]⟩,
  ⟨0x481004, 2, 1024, 16, 64, [⟨31, 0, .ro, 0, 4294967295⟩]⟩,
  ⟨0x481008, 2, 1024, 16, 64, [⟨31, 0, .ro, 0, 4294967295⟩]⟩,
  ⟨0x48100c, 2, 1024, 16, 64, [⟨31, 0, .ro, 0, 4294967295⟩]⟩,
  ⟨0x481010, 2, 1024, 16, 64, [⟨15, 0, .ro, 0, 65535⟩, ⟨16, 16, .ro, 0, 1⟩, ⟨17, 17, .ro, 0, 1⟩, ⟨18, 18, .ro, 0, 1⟩]⟩,
  ⟨0x481014, 2, 1024, 16, 64, [⟨31, 0, .ro, 0, 4294967295⟩]⟩,
  ⟨0x481018, 2, 1024, 16, 64, [⟨31, 0, .ro, 0, 4294967295⟩]⟩]

/-- The registers of block VOUT. -/
def regTableVout : List RegDesc := [
  ⟨0x490000, 1, 4, 1, 4, [⟨31, 0, .ro, 0, 4294967295⟩]⟩,
  ⟨0x490100, 4, 256, 1, 4, [⟨2, 0, .ro, 0, 7⟩, ⟨3, 3, .ro, 0, 1⟩, ⟨4, 4, .ro, 0, 1⟩, ⟨5, 5, .ro, 0, 1⟩, ⟨25, 16, .ro, 0, 1023⟩]⟩,
  ⟨0x490104, 4, 256, 1, 4, [⟨1, 0, .wo, 0, 3⟩]⟩,
  ⟨0x490108, 4, 256, 1, 4, [⟨31, 0, .ro, 0, 4294967295⟩]⟩,
  ⟨0x49010c, 4, 256, 1, 4, [⟨31, 0, .ro, 0, 4294967295⟩]⟩,
  ⟨0x490110, 4, 256, 1, 4, [⟨31, 0, .ro, 0, 4294967295⟩]⟩,
  ⟨0x490114, 4, 256, 1, 4, [⟨31, 0, .ro, 0, 4294967295⟩]⟩,
  ⟨0x490118, 4, 256, 1, 4, [⟨31, 0, .ro, 0, 4294967295⟩]⟩,
  ⟨0x49011c, 4, 256, 1, 4, [⟨31, 0, .ro, 0, 4294967295⟩]⟩,
  ⟨0x490800, 1, 4, 1, 4, [⟨0, 0, .wo, 0, 1⟩, ⟨2, 1, .wo, 0, 3⟩, ⟨6, 3, .wo, 0, 15⟩, ⟨31, 16, .wo, 0, 65535⟩]⟩,
  ⟨0x490804, 1, 4, 1, 4, [⟨19, 0, .rw, 0, 1048575⟩]⟩,
  ⟨0x490820, 1, 4, 1, 4, [⟨1, 0, .ro, 0, 3⟩, ⟨6, 2, .ro, 0, 31⟩, ⟨31, 16, .ro, 0, 65535⟩]⟩,
  ⟨0x490824, 1, 4, 1, 4, [⟨15, 0, .ro, 0, 65535⟩]⟩,
  ⟨0x490a00, 1, 4, 1, 4, [⟨7, 0, .rw, 0, 255⟩, ⟨12, 8, .rw, 0, 24⟩]⟩,
  ⟨0x490a20, 1, 4, 1, 4, [⟨31, 0, .wo, 0, 4294967295⟩]⟩,
  ⟨0x490a24, 1, 4, 1, 4, [⟨4, 0, .ro, 0, 31⟩, ⟨31, 16, .ro, 0, 65535⟩]⟩,
  ⟨0x490810, 4, 4, 1, 4, [⟨31, 0, .rw, 0, 4294967295⟩]⟩,
  ⟨0x490a04, 6, 4, 1, 4, [⟨31, 0, .rw, 0, 4294967295⟩]⟩]

/-- The registers of block ORB. -/
def regTableOrb : List RegDesc := [
  ⟨0x500000, 1, 4, 1, 4, [⟨31, 0, .ro, 0, 4294967295⟩]⟩,
  ⟨0x500004, 1, 4, 1, 4, [⟨9, 0, .ro, 0, 1023⟩]⟩,
  ⟨0x500100, 4, 256, 1, 4, [⟨2, 0, .wo, 0, 7⟩, ⟨31, 16, .wo, 0, 65535⟩]⟩,
  ⟨0x500104, 4, 256, 1, 4, [⟨3, 0, .ro, 0, 15⟩, ⟨6, 4, .ro, 0, 7⟩, ⟨7, 7, .ro, 0, 1⟩, ⟨8, 8, .ro, 0, 1⟩, ⟨9, 9, .ro, 0, 1⟩, ⟨12, 10, .ro, 0, 7⟩, ⟨13, 13, .ro, 0, 1⟩]⟩,
  ⟨0x500108, 4, 256, 1, 4, [⟨15, 0, .ro, 0, 65535⟩, ⟨18, 16, .ro, 0, 7⟩]⟩,
  ⟨0x50010c, 4, 256, 1, 4, [⟨15, 0, .ro, 0, 65535⟩]⟩,
  ⟨0x500110, 4, 256, 1, 4, [⟨9, 0, .ro, 0, 1023⟩]⟩,
  ⟨0x500114, 4, 256, 1, 4, [⟨9, 0, .rwl, 0, 1023⟩, ⟨25, 16, .rwl, 0, 1023⟩]⟩,
  ⟨0x500118, 4, 256, 1, 4, [⟨3, 0, .ro, 0, 15⟩, ⟨4, 4, .ro, 0, 1⟩]⟩,
  ⟨0x50011c, 4, 256, 1, 4, [⟨15, 0, .ro, 0, 65535⟩]⟩,
  ⟨0x500120, 4, 256, 1, 4, [⟨31, 0, .ro, 0, 4294967295⟩]⟩,
  ⟨0x500124, 4, 256, 1, 4, [⟨31, 0, .ro, 0, 4294967295⟩]⟩,
  ⟨0x500128, 4, 256, 1, 4, [⟨31, 0, .ro, 0, 4294967295⟩]⟩,
  ⟨0x50012c, 4, 256, 1, 4, [⟨31, 0, .ro, 0, 4294967295⟩]⟩]

/-- The registers of block NW. -/
def regTableNw : List RegDesc := [
  ⟨0x580000, 1, 4, 1, 4, [⟨1, 0, .ro, 0, 3⟩, ⟨2, 2, .ro, 0, 1⟩, ⟨3, 3, .ro, 0, 1⟩, ⟨4, 4, .ro, 0, 1⟩, ⟨5, 5, .ro, 0, 1⟩, ⟨6, 6, .ro, 0, 1⟩, ⟨7, 7, .ro, 0, 1⟩, ⟨15, 8, .ro, 0, 255⟩, ⟨18, 16, .ro, 0, 7⟩]⟩,
  ⟨0x580004, 1, 4, 1, 4, [⟨1, 0, .wo, 0, 3⟩, ⟨8, 8, .wo, 0, 1⟩]⟩,
  ⟨0x580008, 1, 4, 1, 4, [⟨31, 0, .ro, 0, 4294967295⟩]⟩,
  ⟨0x58000c, 1, 4, 1, 4, [⟨31, 0, .ro, 0, 4294967295⟩]⟩,
  ⟨0x580010, 1, 4, 1, 4, [⟨31, 0, .ro, 0, 4294967295⟩]⟩,
  ⟨0x580014, 1, 4, 1, 4, [⟨31, 0, .ro, 0, 4294967295⟩]⟩,
  ⟨0x580018, 1, 4, 1, 4, [⟨31, 0, .ro, 0, 4294967295⟩]⟩,
  ⟨0x58001c, 1, 4, 1, 4, [⟨31, 0, .ro, 0, 4294967295⟩]⟩,
  ⟨0x580020, 1, 4, 1, 4, [⟨31, 0, .ro, 0, 4294967295⟩]⟩,
  ⟨0x580024, 1, 4, 1, 4, [⟨31, 0, .ro, 0, 4294967295⟩]⟩,
  ⟨0x580028, 1, 4, 1, 4, [⟨31, 0, .wo, 0, 4294967295⟩]⟩,
  ⟨0x58002c, 1, 4, 1, 4, [⟨31, 0, .wo, 0, 4294967295⟩]⟩,
  ⟨0x580030, 1, 4, 1, 4, [⟨15, 0, .ro, 0, 65535⟩, ⟨23, 16, .ro, 0, 255⟩, ⟨31, 24, .ro, 0, 255⟩]⟩,
  ⟨0x580034, 1, 4, 1, 4, [⟨31, 0, .ro, 0, 4294967295⟩]⟩,
  ⟨0x580080, 1, 4, 1, 4, [⟨0, 0, .ro, 0, 1⟩, ⟨31, 16, .ro, 0, 65535⟩]⟩,
  ⟨0x580084, 1, 4, 1, 4, [⟨31, 0, .ro, 0, 4294967295⟩]⟩,
  ⟨0x580088, 1, 4, 1, 4, [⟨31, 0, .wo, 0, 4294967295⟩]⟩,
  ⟨0x58008c, 1, 4, 1, 4, [⟨31, 0, .wo, 0, 4294967295⟩]⟩,
  ⟨0x580090, 1, 4, 1, 4, [⟨0, 0, .rw, 0, 1⟩]⟩,
  ⟨0x580094, 1, 4, 1, 4, [⟨18, 0, .ro, 0, 524287⟩]⟩,
  ⟨0x5800a0, 1, 4, 1, 4, [⟨2, 0, .wo, 0, 7⟩, ⟨11, 8, .wo, 0, 15⟩, ⟨13, 12, .wo, 0, 3⟩, ⟨31, 16, .wo, 0, 65535⟩]⟩,
  ⟨0x5800a4, 1, 4, 1, 4, [⟨2, 0, .ro, 0, 7⟩, ⟨5, 4, .ro, 0, 3⟩, ⟨31, 16, .ro, 0, 65535⟩]⟩,
  ⟨0x5800a8, 1, 4, 1, 4, [⟨15, 0, .ro, 0, 65535⟩]⟩,
  ⟨0x580180, 1, 4, 1, 4, [⟨31, 0, .ro, 0, 4294967295⟩]⟩,
  ⟨0x580184, 1, 4, 1, 4, [⟨31, 0, .ro, 0, 4294967295⟩]⟩,
  ⟨0x580188, 1, 4, 1, 4, [⟨31, 0, .ro, 0, 4294967295⟩]⟩,
  ⟨0x5801a0, 1, 4, 1, 4, [⟨31, 0, .ro, 0, 4294967295⟩]⟩,
  ⟨0x580040, 16, 4, 1, 4, [⟨31, 0, .ro, 0, 4294967295⟩]⟩,
  ⟨0x5800c0, 8, 4, 1, 4, [⟨15, 0, .ro, 0, 65535⟩]⟩,
  ⟨0x5800e0, 8, 4, 1, 4, [⟨0, 0, .ro, 0, 1⟩, ⟨1, 1, .ro, 0, 1⟩, ⟨2, 2, .ro, 0, 1⟩]⟩,
  ⟨0x580100, 8, 4, 1, 4, [⟨31, 0, .ro, 0, 4294967295⟩]⟩,
  ⟨0x580140, 16, 4, 1, 4, [⟨31, 0, .ro, 0, 4294967295⟩]⟩,
  ⟨0x580190, 4, 4, 1, 4, [⟨6, 0, .ro, 0, 127⟩, ⟨7, 7, .ro, 0, 1⟩, ⟨31, 16, .ro, 0, 65535⟩]⟩]

/-- The registers of block SBD. -/
def regTableSbd : List RegDesc := [
  ⟨0x600000, 1, 4, 1, 4, [⟨31, 0, .ro, 0, 4294967295⟩]⟩,
  ⟨0x600004, 1, 4, 1, 4, [⟨15, 0, .ro, 0, 65535⟩]⟩,
  ⟨0x600008, 1, 4, 1, 4, [⟨15, 0, .rw, 0, 65535⟩]⟩,
  ⟨0x60000c, 1, 4, 1, 4, [⟨15, 0, .rw, 0, 65535⟩]⟩,
  ⟨0x600010, 1, 4, 1, 4, [⟨15, 0, .rw, 0, 65535⟩]⟩,
  ⟨0x600014, 1, 4, 1, 4, [⟨15, 0, .wo, 0, 65535⟩]⟩,
  ⟨0x600018, 1, 4, 1, 4, [⟨15, 0, .wo, 0, 65535⟩]⟩,
  ⟨0x60001c, 1, 4, 1, 4, [⟨15, 0, .ro, 0, 65535⟩]⟩,
  ⟨0x600020, 1, 4, 1, 4, [⟨31, 0, .rw, 0, 4294967295⟩]⟩,
  ⟨0x600024, 1, 4, 1, 4, [⟨31, 0, .wo, 0, 4294967295⟩]⟩,
  ⟨0x600040, 1, 4, 1, 4, [⟨6, 0, .ro, 0, 127⟩, ⟨8, 8, .ro, 0, 1⟩, ⟨9, 9, .ro, 0, 1⟩, ⟨22, 16, .ro, 0, 127⟩]⟩,
  ⟨0x600044, 1, 4, 1, 4, [⟨31, 0, .wo, 0, 4294967295⟩]⟩,
  ⟨0x600048, 1, 4, 1, 4, [⟨31, 0, .ro, 0, 4294967295⟩]⟩,
  ⟨0x60004c, 1, 4, 1, 4, [⟨31, 0, .ro, 0, 4294967295⟩]⟩,
  ⟨0x600050, 1, 4, 1, 4, [⟨31, 0, .ro, 0, 4294967295⟩]⟩,
  ⟨0x600054, 1, 4, 1, 4, [⟨15, 0, .ro, 0, 65535⟩]⟩,
  ⟨0x600080, 1, 4, 1, 4, [⟨7, 0, .rw, 0, 255⟩, ⟨9, 8, .rw, 0, 2⟩, ⟨15, 12, .rw, 0, 15⟩, ⟨16, 16, .rw, 0, 1⟩]⟩,
  ⟨0x600084, 1, 4, 1, 4, [⟨31, 0, .rw, 0, 4294967295⟩]⟩,
  ⟨0x600088, 1, 4, 1, 4, [⟨8, 0, .wo, 0, 511⟩, ⟨31, 16, .wo, 0, 65535⟩]⟩,
  ⟨0x60008c, 1, 4, 1, 4, [⟨0, 0, .ro, 0, 1⟩, ⟨31, 16, .ro, 0, 65535⟩]⟩,
  ⟨0x600090, 1, 4, 1, 4, [⟨15, 0, .ro, 0, 65535⟩]⟩,
  ⟨0x600100, 64, 4, 1, 4, [⟨31, 0, .rw, 0, 4294967295⟩]⟩,
  ⟨0x600200, 33, 8, 1, 4, [⟨31, 21, .rw, 0, 2047⟩]⟩,
  ⟨0x600204, 33, 8, 1, 4, [⟨7, 0, .rw, 0, 255⟩]⟩,
  ⟨0x600400, 2, 16, 1, 4, [⟨2, 0, .ro, 0, 7⟩, ⟨6, 4, .ro, 0, 7⟩, ⟨8, 8, .ro, 0, 1⟩, ⟨9, 9, .ro, 0, 1⟩]⟩,
  ⟨0x600404, 2, 16, 1, 4, [⟨31, 0, .ro, 0, 4294967295⟩]⟩,
  ⟨0x600408, 2, 16, 1, 4, [⟨31, 0, .ro, 0, 4294967295⟩]⟩]

/-- The registers of block FLT. -/
def regTableFlt : List RegDesc := [
  ⟨0x800000, 1, 4, 1, 4, [⟨31, 0, .ro, 0, 4294967295⟩]⟩,
  ⟨0x800004, 1, 4, 1, 4, [⟨31, 0, .ro, 0, 4294967295⟩]⟩,
  ⟨0x800008, 1, 4, 1, 4, [⟨31, 0, .ro, 0, 4294967295⟩]⟩,
  ⟨0x80000c, 1, 4, 1, 4, [⟨6, 0, .ro, 0, 127⟩]⟩,
  ⟨0x800100, 16, 4, 1, 4, [⟨31, 0, .ro, 0, 4294967295⟩]⟩,
  ⟨0x900000, 4096, 32, 8, 4, [⟨31, 0, .ro, 0, 4294967295⟩]⟩]

/-- The registers of block OVN. -/
def regTableOvn : List RegDesc := [
  ⟨0x1000000, 48, 65536, 1, 4, [⟨1, 0, .ro, 0, 3⟩, ⟨4, 2, .ro, 0, 7⟩, ⟨5, 5, .ro, 0, 1⟩, ⟨25, 16, .ro, 0, 1023⟩]⟩,
  ⟨0x1000004, 48, 65536, 1, 4, [⟨3, 0, .rwl, 0, 15⟩, ⟨8, 4, .rwl, 0, 31⟩, ⟨20, 10, .rwl, 0, 2047⟩, ⟨31, 31, .rwl, 0, 1⟩]⟩,
  ⟨0x1000008, 48, 65536, 1, 4, [⟨31, 0, .ro, 0, 4294967295⟩]⟩,
  ⟨0x1000010, 48, 65536, 1, 4, [⟨31, 0, .ro, 0, 4294967295⟩]⟩,
  ⟨0x1000014, 48, 65536, 1, 4, [⟨31, 0, .ro, 0, 4294967295⟩]⟩,
  ⟨0x1000030, 48, 65536, 1, 4, [⟨31, 0, .ro, 0, 4294967295⟩]⟩,
  ⟨0x1000034, 48, 65536, 1, 4, [⟨31, 0, .ro, 0, 4294967295⟩]⟩,
  ⟨0x1000020, 48, 65536, 4, 4, [⟨31, 0, .ro, 0, 4294967295⟩]⟩]

/-- Whether a family holds a register at an offset (R47: every other offset holds none). -/
def RegDesc.holds (d : RegDesc) (off : Nat) : Bool :=
  if off < d.base then false else
  let r := off - d.base
  let i := r / d.s1
  let q := r % d.s1
  if d.n2 = 1 then decide (i < d.n1) && decide (q = 0)
  else decide (i < d.n1) && decide (q % d.s2 = 0) && decide (q / d.s2 < d.n2)

/-- The block table that covers an offset (R547). -/
def regTableAt (off : Nat) : List RegDesc :=

  if off < 0x10000 then regTableGlb else
  if off < 0x20000 then regTableRcp else
  if off < 0x30000 then regTablePwr else
  if off < 0x40000 then regTablePace else
  if off < 0x80000 then regTableZen else
  if off < 0xa0000 then regTableFab else
  if off < 0xc0000 then regTableMbx else
  if off < 0x100000 then regTableAwt else
  if off < 0x200000 then regTableCtx else
  if off < 0x300000 then regTableStr else
  if off < 0x380000 then regTableMem else
  if off < 0x400000 then regTableCpy else
  if off < 0x480000 then regTableMer else
  if off < 0x490000 then regTableVin else
  if off < 0x500000 then regTableVout else
  if off < 0x580000 then regTableOrb else
  if off < 0x600000 then regTableNw else
  if off < 0x800000 then regTableSbd else
  if off < 0x1000000 then regTableFlt else
  if off < 0x1300000 then regTableOvn else
  []

/-- The register at an offset, when the offset holds one (R47, R550). -/
def regAt (off : Nat) : Option RegDesc := (regTableAt off).find? fun d => d.holds off

end Sys2Proof
end

