-- ==== Sys2Proof/Machine/OvenTypes.lean ====
section
/-! DEFINITION. The data of Ovens, Racks and formats: tables, programs, banks, slots, instructions in progress
(R130–R140, R188, R219–R224, R244–R246, R254). -/
namespace Sys2Proof

/-- An encode table (R132–R135). -/
structure EncTable where
  xshift : Int
  /-- The 255 thresholds: sign, exponent, magnitude, TIE_UP as one word each. -/
  thresh : List Word
  codemap : List Byte
  deriving DecidableEq, Repr

/-- A Curve (R140). -/
structure Curve where
  extend : Bool
  wshift : Nat
  xlo : Int
  ys : List Int
  deriving DecidableEq, Repr

/-- A Rack slot: 256 bits of data as 32 bytes, and the tag (R188, R193). -/
structure RSlot where
  data : List Byte
  frameEnd : Bool
  poison : Bool
  user : Nat
  deriving DecidableEq, Repr

/-- An empty preloaded slot (R191). -/
def RSlot.zero : RSlot := ⟨List.replicate 32 0, false, false, 0⟩

/-- A row of an accumulator bank: its block exponent and 64 accumulators (R224). -/
structure AccRow where
  bs : Int
  acc : List Int
  deriving DecidableEq, Repr

/-- A row of zeros. -/
def AccRow.zero : AccRow := ⟨0, List.replicate 64 0⟩

/-- Operations of an Oven program (R245). -/
inductive OvenOp where
  | end_ | loadw | mac | glaze | fetch | flush | loop | starter
  deriving DecidableEq, Repr

/-- An instruction of an Oven program, as loaded (R245, R257). -/
structure OInstr where
  op : OvenOp
  split : Bool
  clear : Bool
  tile : Nat
  frameEnd : Bool
  ringed : Bool
  auxhold : Bool
  count : Nat
  /-- Location bytes. -/
  src : Nat
  dst : Nat
  dec : Nat
  enc : Nat
  saddr : Nat
  sstep : Int
  daddr : Int
  dstep : Int
  istride : Int
  ascale : Int
  aux2 : Nat
  aux3 : Nat
  auxdec : Nat
  aux2addr : Nat
  aux3addr : Nat
  /-- Stages: SOP and SARG. -/
  stages : List (Nat × Int)
  maddr : Nat
  len : Nat
  target : Nat
  user : Nat
  rstride : Nat
  /-- STARTER: SMODE and NUM. -/
  smode : Nat
  num : Nat
  deriving DecidableEq, Repr

/-- An entry of a STARTERS section, as loaded (R254). -/
structure StarterCfg where
  num : Nat
  carried : Bool
  rowFirst : Nat
  rows : Nat
  initBs : Int
  keep : Bool
  initMode : Nat
  feedK : Nat
  initAddr : Nat
  cdec : Nat
  cenc : Nat
  deriving DecidableEq, Repr

/-- A dispatched instruction that has not finished (R220–R222). -/
structure DInstr where
  /-- Its serial number in its Oven. -/
  uid : Nat
  idx : Nat
  ins : OInstr
  /-- Iteration index at its dispatch (R248), and whether every enclosing loop was in its final iteration (R230). -/
  iter : Nat
  lastIter : Bool
  started : Bool
  /-- Waves, vectors or blocks taken so far. -/
  w : Nat
  /-- Slots popped for the vector being gathered: source, aux 2, aux 3. -/
  g0 : List RSlot
  g1 : List RSlot
  g2 : List RSlot
  /-- Aux vectors held under AUXHOLD. -/
  hold1 : Option (List Int)
  hold2 : Option (List Int)
  /-- The pooling group being formed: how many vectors, and the lanes so far. -/
  poolN : Nat
  pool : List Int
  /-- Output vectors produced, and slots of the last one not yet pushed. -/
  outw : Nat
  emit : List RSlot
  /-- FETCH and FLUSH: blocks issued and not yet complete. -/
  waiting : Nat
  deriving DecidableEq, Repr

/-- The five engines of an Oven (R220). -/
inductive OvenEngine where
  | array | loader | glaze | mover | starter
  deriving DecidableEq, Repr

/-- A Rack, as loaded (R200), and its slots and credits (R190, R196–R198). -/
structure Rack where
  bakery : Nat
  /-- Producer Oven, port, SUB; `none`: on the remote Star. -/
  prod : Option (Nat × Nat × Nat)
  cons : Option (Nat × Nat × Nat)
  remoteHome : Nat
  link : Nat
  remoteRack : Nat
  depth : Nat
  preload : Nat
  cls : Nat
  linkRes : Nat
  /-- Effective depth of the latest connection (R196). -/
  effDepth : Nat
  connected : Bool
  everConnected : Bool
  /-- The far Star is lost: pushes are accepted and discarded (R198). -/
  discarding : Bool
  credits : Nat
  slots : List RSlot
  /-- Preloaded slots of a cross-link Rack that have not been popped: they used no credit (R198; DEDUCED, log entry 14). -/
  pre : Nat
  /-- Slots that have arrived over the link while the Rack could not move: they stay in its pool (R195, R196). -/
  landed : List RSlot
  deriving DecidableEq, Repr

/-- An Oven: what the Recipe loads, its banks and tiles, and its pass (R135, R140, R219, R224, R240, R244, R254). -/
structure Oven where
  loaded : Bool
  ringLen : Nat
  instrs : List OInstr
  /-- Decode words by slot × 256 + code; encode tables and Curves by slot; unlisted: zeros (R136, R140). -/
  decs : List (Nat × Word)
  encs : List (Nat × EncTable)
  curves : List (Nat × Curve)
  /-- Starter entries by number (R254). -/
  starters : List StarterCfg
  /-- Weight words of TILE 0 and TILE 1 as 64 rows of 64; what is missing is zero (DESIGN CHOICE, log entry 3). -/
  tile0 : List (List Word)
  tile1 : List (List Word)
  bankA : List (Nat × AccRow)
  bankS : List (Nat × AccRow)
  /-- The job of the present pass (R240). -/
  job : Option Nat
  pc : Nat
  ended : Bool
  loops : List (Nat × Nat)
  disp : List DInstr
  /-- The next serial number. -/
  serial : Nat
  taint : Bool
  /-- STOPPED by a Patch, a reset or an FLR (R250). -/
  stopped : Bool
  /-- Jobs admitted and waiting for this Oven, in admission order. -/
  jobs : List Nat
  deriving DecidableEq, Repr

/-- An Oven with nothing loaded. -/
def Oven.empty : Oven :=
  { loaded := false, ringLen := 0, instrs := [], decs := [], encs := [], curves := [], starters := [], tile0 := [], tile1 := [],
    bankA := [], bankS := [], job := none, pc := 0, ended := false, loops := [], disp := [], serial := 0, taint := false,
    stopped := false, jobs := [] }

end Sys2Proof
end

