-- ==== Sys2Proof/Machine/Sparse.lean ====
section
/-! DEFINITION. Sparse data by key in one canonical form: keys strictly rising, no entry equal to what an unlisted
key reads as. Memory, registers and every indexed table of the machine are held so. -/
namespace Sys2Proof

/-- The value at a key; an unlisted key reads as `d`. -/
def spGet {α : Type} (d : α) : List (Nat × α) → Nat → α
  | [], _ => d
  | (k, v) :: r, a => if a = k then v else if a < k then d else spGet d r a

/-- The table with a value put at a key, whatever it is. -/
def spPut {α : Type} (a : Nat) (v : α) : List (Nat × α) → List (Nat × α)
  | [] => [(a, v)]
  | (k, w) :: r => if a = k then (k, v) :: r else if a < k then (a, v) :: (k, w) :: r else (k, w) :: spPut a v r

/-- The table with a key unlisted. -/
def spDel {α : Type} (a : Nat) : List (Nat × α) → List (Nat × α)
  | [] => []
  | (k, w) :: r => if a = k then r else if a < k then (k, w) :: r else (k, w) :: spDel a r

/-- A write that keeps the canonical form: writing what an unlisted key reads as removes the entry. -/
def spSet {α : Type} [DecidableEq α] (d : α) (a : Nat) (v : α) (m : List (Nat × α)) : List (Nat × α) :=
  if v = d then spDel a m else spPut a v m

/-- The entries whose keys lie outside `lo ≤ k < hi`. -/
def spErase {α : Type} (lo hi : Nat) (m : List (Nat × α)) : List (Nat × α) :=
  m.filter fun e => decide (e.1 < lo ∨ hi ≤ e.1)

/-- Keys strictly rising from `lo`, no entry equal to what its key reads as when unlisted (`d`). -/
def spWfFrom {α : Type} [DecidableEq α] (d : Nat → α) : Nat → List (Nat × α) → Bool
  | _, [] => true
  | lo, (k, v) :: r => decide (lo ≤ k) && decide (v ≠ d k) && spWfFrom d (k + 1) r

/-- The canonical form of a sparse table. -/
def spWf {α : Type} [DecidableEq α] (d : Nat → α) (m : List (Nat × α)) : Bool := spWfFrom d 0 m

/-- `n` consecutive values from a key. -/
def spRange {α : Type} (d : α) (m : List (Nat × α)) (a : Nat) : Nat → List α
  | 0 => []
  | n + 1 => spGet d m a :: spRange d m (a + 1) n

/-- Values written at consecutive keys. -/
def spWriteAll {α : Type} [DecidableEq α] (d : α) : Nat → List α → List (Nat × α) → List (Nat × α)
  | _, [], m => m
  | a, v :: vs, m => spWriteAll d (a + 1) vs (spSet d a v m)

end Sys2Proof
end

