-- ==== Sys2Proof/Machine/TableTypes.lean ====
section
/-! DEFINITION. The data of state tables: rows, tables and instances (R145–R153). -/
namespace Sys2Proof

/-- A row of a state table, as loaded (R146). -/
structure TRow where
  /-- 0–9. -/
  cond : Nat
  /-- Selector. -/
  src : Nat
  /-- 0–10. -/
  act : Nat
  last : Bool
  consume : Bool
  next : Nat
  dst : Nat
  imm : Word
  arg : Word
  deriving DecidableEq, Repr

/-- A state table, as loaded (R145). -/
structure TTable where
  start : Nat
  init0 : Word
  init1 : Word
  rows : List TRow
  deriving DecidableEq, Repr

/-- A timer of an instance. `running due`: it expires at the engine's timer boundary number `due`. -/
inductive TTimer where
  | stopped
  | running (due : Nat)
  | expired
  deriving DecidableEq, Repr

/-- An instance of a state table: its current state, locals, timers, counters and pending events (R153). -/
structure TInst where
  state : Nat
  locals : List Word
  timers : List TTimer
  counters : List Nat
  /-- Bit e: event e is pending. -/
  events : Nat
  /-- An event, an expiry or the start has triggered an evaluation pass that has not run yet (R151). -/
  wake : Bool
  /-- The inputs in the snapshot of the latest pass: a pass is due too once they have changed (R151). -/
  seen : List Word
  deriving DecidableEq, Repr

/-- An instance as it starts (R153): a pass is due. -/
def TTable.begin (t : TTable) : TInst :=
  { state := t.start, locals := [t.init0, t.init1, 0, 0, 0, 0, 0, 0],
    timers := [.stopped, .stopped, .stopped, .stopped], counters := [0, 0, 0, 0], events := 0, wake := true, seen := [] }

end Sys2Proof
end

