-- ==== Sys2Proof/Machine/State.lean ====
section
/-! DEFINITION. The state of the machine: everything the spec gives one Star, as plain data, grouped by the chapter that
names it; the reasons a step can stop; and the machine right after reset. A table indexed by number is a sparse list
(Machine/Sparse.lean): an unlisted key reads as the default that its field's docstring names. -/
namespace Sys2Proof.Machine

/-- Reasons the machine stops on a command to which the spec gives no effect. -/
inductive Fault where
  /-- A command that acts on Crust, Hearth or the memory dies after a supply fault: R161 calls their state undefined
  until POR_N has been low and then high. Raised by every meaning but those of Nightwatch and of the supplies and reset
  pins. Safe: the machine stops where the hardware goes on in a state the spec does not give. -/
  | crustStateUndefined
  deriving DecidableEq, Repr

/-- Reasons the model refuses a command. -/
inductive Refusal where
  /-- No meaning yet for the named command. Raised by Dispatch alone. Safe. -/
  | notModelled (mnemonic : String)
  deriving DecidableEq, Repr

/-! ## Outputs -/

/-- What the machine drives out of the package. The list of these is the model's own field `port` (DESIGN CHOICE, log entry 5): it is
where the answer to a read, a message or a packet can be seen, since no read changes the machine's own state (R9). -/
inductive PortEvent where
  /-- A completion of a host read: function, offset in the BAR, data, EP. -/
  | readDone (f : HostFn) (bar : Nat) (off : Nat) (data : List Byte) (ep : Bool)
  /-- Configuration Request Retry Status (R166). -/
  | retryStatus (f : HostFn)
  /-- A completion with Unsupported Request status (R447). -/
  | unsupported (f : HostFn)
  /-- An MSI-X message: function, vector, address, data (R367, R369). -/
  | msix (f : HostFn) (vector : Nat) (addr : Nat) (data : Word)
  /-- A write towards the host: port, function of the window, address, bytes, EP. -/
  | hostWrite (port : PPort) (f : Nat) (addr : Nat) (data : List Byte) (ep : Bool)
  /-- A read towards the host, with its tag. -/
  | hostRead (port : PPort) (f : Nat) (addr : Nat) (len : Nat) (tag : Nat)
  /-- An AVSBus transaction attempt: rail select, command, data (R72). -/
  | avs (rail cmd data : Nat)
  /-- An SPI pass-through command: opcode, address bytes, dummy cycles, bytes sent or length to read (R460). -/
  | spi (opcode : Nat) (addr : List Byte) (dummy : Nat) (out : List Byte) (readLen : Nat)
  /-- A command of the loader to the flash without address or data (R459). -/
  | flashCmd (opcode : Byte)
  /-- The loader's read of the SFDP table at an offset: command, lanes, clock in MHz (R110). -/
  | sfdpRead (opcode : Byte) (off lanes mhz : Nat)
  /-- A read of the boot flash by the loader: command, address bytes, lanes, clock in MHz, offset and length (R110). -/
  | flashRead (opcode : Byte) (addrBytes lanes mhz off len : Nat)
  /-- A flit sent on a Meridian link: its 640 bytes (R319). -/
  | flit (link : Nat) (bytes : List Byte)
  /-- A skip flit (R314). -/
  | skipFlit (link : Nat)
  /-- This end's MAX_GEN, exchanged after Meridian-1 training (R316). -/
  | merGen (link : Nat) (maxGen : Nat)
  /-- This end's identity in IDENT: CONST_ID, home ID, link number, DEVICE_ID, unit identity (R317). -/
  | merIdent (link : Nat) (constId home : Nat) (device : Word) (unit : BitVec 64)
  /-- The answer of the sideband target: ACK or NACK of a command code, and the bytes it returns (R455). -/
  | sideband (ack : Bool) (data : List Byte)
  /-- An in-band interrupt with its data byte (R458). -/
  | ibi (data : Byte)
  /-- An AUX transaction on an eDP port: op, address, bytes or length (R429). -/
  | aux (port : Nat) (op : Nat) (addr : Nat) (data : List Byte) (len : Nat)
  /-- A DSI packet: data type, payload, low-power transmission (R431). -/
  | dsi (dt : Nat) (data : List Byte) (lp : Bool)
  /-- Vertical sync of a frame: generator, frame, its lines and its vertical front porch (R420, R421). -/
  | vsync (g : Nat) (frame : Nat) (vtotal vfp : Nat)
  /-- A picture parameter set: port, BPC, bits per pixel × 16, slices, slice width and height (R427). -/
  | pps (port bpc bpp16 slices sliceW sliceH : Nat)
  /-- The pixels of a line shown: generator, frame, line, RGB values (R423). -/
  | line (g : Nat) (frame : Nat) (line : Nat) (pixels : List Nat)
  /-- A line on an LVDS link: frame, line, and for each clock the clock pair and the five data pairs, slot 0 first (R433). -/
  | lvds (link : Nat) (frame : Nat) (line : Nat) (clocks : List (List (List Bool)))
  /-- A sample sent on the I2S output: channel pair and value (R492). -/
  | i2s (samples : List Int)
  /-- The TAP's register selected for scanning, and its captured bits (R465). -/
  | tap (bits : List Bool)
  deriving DecidableEq, Repr

/-! ## Faults (spec/17) -/

/-- A fault on its way to the log (R535–R538). -/
structure FaultEntry where
  kind : Nat
  /-- Bit 0 WRITE, 1 REMOTE, 2 JOB, 3 BAR, 4 NOMASTER. -/
  flags : Nat
  master : Nat
  target : Nat
  detail : Nat
  addr : Nat
  /-- Epoch time at which it was detected. -/
  t : Nat
  deriving DecidableEq, Repr

/-- The fault log's queue of at most 64 (R537); its records and counters are FLT registers. -/
structure FltState where
  queue : List FaultEntry
  deriving DecidableEq, Repr

/-! ## Power, reset and start-up (spec/05) -/

/-- The supplies as Untal sees them (R161). -/
structure Supplies where
  vddNw : Bool
  vret : Bool
  /-- VDD_CRUST, VIO and the memory supplies. -/
  crust : Bool
  /-- VDD_HEARTH within its range. -/
  hearth : Bool
  deriving DecidableEq, Repr

/-- The pins of power and reset; `true` is a high level (R162). -/
structure PowerPins where
  porN : Bool
  perstN : Bool
  hearthEn : Bool
  pwrreqN : Bool
  wakeN : Bool
  thermtripN : Bool
  modulePresN : Bool
  moduleEjectN : Bool
  moduleRdyN : Bool
  deriving DecidableEq, Repr

/-- A Bakery reset under way (R170): the Bakery, the request's tag, and when its drain began, in ns of `State.mono`. -/
structure BakReset where
  bakery : Nat
  seq : Nat
  since : Nat
  deriving DecidableEq, Repr

/-- Power domains, supplies, reset and start-up. -/
structure PwrState where
  sup : Supplies
  pins : PowerPins
  /-- The state of Crust, Hearth and the memory dies is undefined (R161). -/
  undef : Bool
  /-- The BOOTSEL sample (R108) and the SB_ADDRSEL sample (R454). -/
  bootsel : Nat
  addrSel : Bool
  /-- The boot ROM's start is due; it has started and Epoch counts (R165, R549). -/
  romDue : Bool
  romRunning : Bool
  cfgBuilt : Bool
  /-- The automatic SPI load is due, or under way at a flash copy (R110). -/
  autoLoadDue : Bool
  /-- Domain states by number; unlisted: OFF (R155). -/
  dom : List (Nat × DomState)
  /-- Requested transitions that wait, in the order requested (R157). -/
  pend : List (Nat × DomState)
  /-- Transitions under way. -/
  moving : List (Nat × DomState)
  /-- PWR_STATUS.HEARTH_VOK (R164). -/
  vok : Bool
  /-- PWR_STATUS.LAST_RESET: the last reset was a PERST_N. -/
  lastPerst : Bool
  /-- The THERMTRIP_N shutdown is in force until POR_N falls (R172). -/
  tripped : Bool
  /-- Epoch time at which MODULE_EJECT_N fell, while the debounce runs (R179). -/
  ejectAt : Option Nat
  bakReset : Option BakReset
  deriving DecidableEq, Repr

/-! ## Zenith (spec/05, spec/04) -/

/-- What the latest WRITE of an instance waits for (R180, R336, R339). -/
inductive WriteWait where
  | none
  /-- Issued; its completion raises WRITE_DONE. -/
  | issued
  | rise (link : Nat)
  | set
  deriving DecidableEq, Repr

/-- A running Procedure (R177–R179). -/
structure ZenInst where
  proc : Nat
  cause : Nat
  arg : Word
  inst : TInst
  write : WriteWait
  deriving DecidableEq, Repr

/-- A pending start request (R178). -/
structure ZenReq where
  proc : Nat
  cause : Nat
  arg : Word
  deriving DecidableEq, Repr

/-- Zenith: what the POWER and PROCEDURES sections load, the instances and the pending requests. -/
structure ZenState where
  /-- Procedures of the roles STARTUP, WAKE, STANDBY, PATCH, RISE, SET; 64 for none (R181). -/
  roles : List Nat
  /-- POLICY and DEPTH by Procedure; unlisted: COALESCE (R181). -/
  policy : List (Nat × (Nat × Nat))
  /-- BAR0 offset by write-target index; unlisted: no entry (R180). -/
  targets : List (Nat × Nat)
  procs : List (Nat × TTable)
  /-- The eight instances. -/
  insts : List (Option ZenInst)
  reqs : List ZenReq
  deriving DecidableEq, Repr

/-! ## Access tables (spec/11) -/

/-- An entry of an Access Window Table (R380). -/
structure AwtEntry where
  base : Nat
  limit : Nat
  rd : BitVec 64
  wr : BitVec 64
  deriving DecidableEq, Repr

/-- The Circle map and the tables of the loaded Recipe (R375–R380). -/
structure AwtTables where
  /-- Circle by master ID; unlisted: no Circle. -/
  circles : List (Nat × Nat)
  /-- Entries by target; unlisted: none. -/
  tables : List (Nat × List AwtEntry)
  deriving DecidableEq, Repr

/-! ## PCI Express (spec/14, spec/18) -/

/-- An entry of a function's MSI-X table, and its Pending bit (R367, R368). -/
structure MsixEntry where
  lo : Word
  hi : Word
  data : Word
  mask : Bool
  pend : Bool
  deriving DecidableEq, Repr

/-- The default of an MSI-X entry: masked, nothing pending. -/
def MsixEntry.reset : MsixEntry := ⟨0, 0, 0, true, false⟩

/-- A PCIe port's link (R440, R450). -/
structure PLink where
  up : Bool
  gen : Nat
  width : Nat
  l0 : Bool
  deriving DecidableEq, Repr

/-- Both PCIe ports: links, configuration space, MSI-X tables, and what the PCIE section loads. -/
structure PcieState where
  linkA : PLink
  linkB : PLink
  /-- Configuration space words that differ from their reset value, by function × 4,096 + offset; unlisted: R555. -/
  cfg : List (Nat × Word)
  /-- MSI-X entries by function × 2,048 + vector; unlisted: MsixEntry.reset. -/
  msix : List (Nat × MsixEntry)
  /-- PCIE section (R466). -/
  vfCount : Nat
  maxGenA : Nat
  maxGenB : Nat
  ssvid : Nat
  ssid : Nat
  /-- PRIMARY_PORT in force from commit; `none` before it (R443). -/
  primary : Option PPort
  /-- Host windows that have logged a lost write while their port is down (R450). -/
  lostLogged : List Nat
  deriving DecidableEq, Repr

/-! ## Sideband (spec/14) -/

/-- The TAP instructions (R465). -/
inductive TapInstr where
  | bypass | idcode | sample | extest | clamp | highz
  deriving DecidableEq, Repr

/-- I3C/I2C target, SPI pass-through, GPIO and boundary scan; their registers are SBD registers. -/
structure SideState where
  /-- Maximum write and read lengths (R455). -/
  mwl : Nat
  mrl : Nat
  /-- A pending IBI of each kind: EVTSEQ, FROMSEQ (R458). -/
  ibiEvt : Bool
  ibiFrom : Bool
  /-- SB_TRIG_MASK of the SIDEBAND section (R467). -/
  trigMask : Nat
  /-- The latest SBD_SB_TOSB value (FROMHOST of R456). -/
  fromHost : Word
  /-- A pass-through command runs: its tag, whether it reads, and its length (R460). -/
  spiBusy : Option (Nat × Bool × Nat)
  /-- External GPIO levels. -/
  gpioExt : Nat
  /-- Edges awaiting 1 µs of stability, by GPIO: Epoch ns of the change (R464). -/
  edgeAt : List (Nat × Nat)
  tap : TapInstr
  /-- Levels preloaded into the boundary-scan chain (R465). -/
  chain : List Bool
  deriving DecidableEq, Repr

/-! ## Memory, the fabric, Ovens, contexts (spec/06–09, 11) -/

/-- A copy descriptor's body (R301). -/
structure CopyDesc where
  src : Nat
  dst : Nat
  xlen : Nat
  ycnt : Nat
  zcnt : Nat
  sy : Int
  sz : Int
  dy : Int
  dz : Int
  /-- Decode and encode slots when CONV bit 7 is set. -/
  conv : Option (Nat × Nat)
  slicer : Nat
  deriving DecidableEq, Repr

/-- Where a job stands. -/
inductive JobPhase where
  /-- Waits for in-flight room (R357). -/
  | waiting
  /-- Ticket write outstanding (R392). -/
  | ticket
  | running
  | mbxDue
  | recordDue
  deriving DecidableEq, Repr

/-- A job or copy taken to admission, until its record is written (R363–R366, R240, R299). -/
structure Job where
  id : Nat
  ctx : Nat
  /-- Ring index; 0 for a Stream Channel's job. -/
  index : Nat
  stream : Option Nat
  copy : Option CopyDesc
  cls : Nat
  profile : Nat
  rebase : Nat
  /-- Frame: the resolved deadline in Epoch ns (R364, R391). -/
  deadline : Option Int
  /-- DEADLINE of a host's Frame job, until admission resolves it (R364). -/
  rawDeadline : Option Nat
  userTag : Nat
  resultAddr : Nat
  mbx : Nat
  mbxEn : Bool
  /-- Views of a Stream Channel's job: (view base, size, target) (R393). -/
  views : List (Nat × Nat × Nat)
  bakery : Option Nat
  phase : JobPhase
  /-- Reservations held: target and amount (R213). -/
  resv : List (Nat × Nat)
  /-- Ovens whose pass for the job has not ended. -/
  ovens : List Nat
  lost : Option Nat
  refused : Option Nat
  poisoned : Bool
  unordered : Bool
  /-- Remote Stars accessed, bit h (R344). -/
  homes : Nat
  abandoned : Bool
  /-- A frame start has judged the Stream Channel's job as missed (R400). -/
  missed : Bool
  /-- Outcome and DETAIL decided without running (R213, R121, R349, R356). -/
  forced : Option (Nat × Nat)
  /-- It was admitted (R213, R240). -/
  admitted : Bool
  /-- When the doorbell that submitted it arrived, in ns of `State.mono` (R357); it was in its ring, or came, while its Bakery
  was quiesced (R121). -/
  arrived : Nat
  cancel : Bool
  /-- Pass number (R240, R392). -/
  pass : Nat
  /-- Ticket of a Stream Channel's job: its address, and bytes 4–63 (R392). -/
  ticketAt : Option Nat
  ticket : List Byte
  tDone : Nat
  mbxWritten : Bool
  mbxPoison : Bool
  mbxSeq : Nat
  /-- Copy: next byte in traversal order; begun; Epoch ns at which its next unit began to wait; promoted (R208). -/
  unit : Nat
  started : Bool
  since : Nat
  promoted : Bool
  /-- Stream Channel: ISSUED number of the job. -/
  issued : Nat
  deriving DecidableEq, Repr

/-- A Bakery of the loaded Recipe (R209), and its standing in the fabric (R203, R207). -/
structure Bakery where
  defined : Bool
  ovens : List Nat
  streams : List Nat
  ctxFirst : Nat
  ctxCount : Nat
  weight : Nat
  /-- Standing reservations: target (0xFE: every DRAM channel) and amount. -/
  standing : List (Nat × Nat)
  /-- Profiles: number and its pairs. -/
  profiles : List (Nat × List (Nat × Nat))
  /-- Jobs admitted since the load, a Patch or a reset: the next pass number (R240). -/
  passes : Nat
  /-- New jobs complete CANCELLED_PATCH and triggers are dropped (R121, R170). -/
  quiesced : Bool
  /-- Epoch ns of the last slot moved, or of becoming active (R203). -/
  lastMove : Nat
  deriving DecidableEq, Repr

/-- A Bakery that no Recipe defines. -/
def Bakery.none : Bakery := ⟨false, [], [], 0, 0, 1, [], [], 0, false, 0⟩

/-- What a request asks of its target. -/
inductive ReqOp where
  /-- A FETCH block: Oven, its instruction's serial number, address, length, Pantry offset it fills. -/
  | fetch (oven uid addr len pantry : Nat)
  /-- A FLUSH block: Oven, its instruction's serial number, address, bytes, poison. -/
  | flush (oven uid addr : Nat) (data : List Byte) (poison : Bool)
  /-- A remote Star's request that the guest map has admitted: the link it came on, 4 once that link has been lost, and its
  proxy ID (R330). -/
  | guest (link : Nat) (m : MerMsg) (proxy : Nat)
  /-- A Meridian message for a link's egress, and the link it came on if it is forwarded (R326). -/
  | message (link : Nat) (m : MerMsg) (from_ : Option Nat)
  /-- A write of a master for which nothing but its acknowledgement is awaited (R288, R309). -/
  | posted (m : Nat)
  /-- The next 64 bytes of the window that this Star's Set copies, at an offset (R340). -/
  | setCopy (off : Nat)
  /-- Bytes of a received line (R417, R418): port × 16 + virtual channel, the frame, its channel, address. -/
  | rx (vc frame chan addr : Nat) (data : List Byte)
  deriving DecidableEq, Repr

/-- A request waiting at a shared target (R205–R208). -/
structure MemReq where
  target : Nat
  cls : Nat
  /-- Bakery number, or 16 for the system group. -/
  group : Nat
  /-- Deadline in Epoch ns, for Frame. -/
  deadline : Int
  /-- Epoch ns at which it arrived. -/
  t : Nat
  size : Nat
  promoted : Bool
  op : ReqOp
  deriving DecidableEq, Repr

/-- A write held while a Set copies its window (R340): its Star-local address, bytes and poison, and what waits for it. -/
structure HeldWrite where
  addr : Nat
  data : List Byte
  poison : Bool
  op : ReqOp
  deriving DecidableEq, Repr

/-- A Slicer's staging buffer while it stages a copy (R306): the copy, and the bytes read so far with their marking. -/
structure Stage where
  job : Nat
  data : List Byte
  marks : List Bool
  deriving DecidableEq, Repr

/-- Round-robin position of a target: the group being served and the units it has taken in this round (R206). -/
structure Turn where
  group : Nat
  units : Nat
  deriving DecidableEq, Repr

/-- The fabric: requests, meters, Racks and Bakeries. -/
structure FabState where
  reqs : List MemReq
  /-- Frame meter in bytes × 3,840, by target × 32 + group (R207). -/
  meters : List (Nat × Nat)
  turns : List (Nat × Turn)
  racks : List (Nat × Rack)
  baks : List (Nat × Bakery)
  /-- Microsecond boundaries, as `State.usCount` counts them, up to which the meters have gained (R207). -/
  meterAt : Nat
  /-- VDD_HEARTH in mV that the Hearth targets' capacity follows since the latest boundary; 0 before Pace's first command
  (R204, R216). -/
  mv : Nat
  deriving DecidableEq, Repr

/-- A memory window of the loaded Recipe (R290). -/
structure Window where
  kind : Nat
  owner : Option Nat
  members : Nat
  func : Nat
  hwin : Nat
  base : Nat
  size : Nat
  slice : Nat
  /-- Dark through the loss of a Star (R337, R344), or left dark by a Set (R340). -/
  dark : Bool
  setDark : Bool
  deriving DecidableEq, Repr

/-- An outstanding read of a host window, by its tag (R295–R297). -/
structure HostRead where
  tag : Nat
  port : PPort
  fn : Nat
  hwin : Nat
  addr : Nat
  len : Nat
  /-- Who waits for it. -/
  op : ReqOp
  /-- Epoch ns of its issue. -/
  t : Nat
  /-- Its request has gone out; otherwise it waits for room among the outstanding ones (R440). -/
  sent : Bool
  deriving DecidableEq, Repr

/-- An outstanding request to a remote Star, by its tag (R320, R331). -/
structure RemoteReq where
  tag : Nat
  home : Nat
  link : Nat
  op : ReqOp
  deriving DecidableEq, Repr

/-- Memory: DRAM and Pantry bytes, poison, windows and host accesses. -/
structure MemState where
  /-- DRAM bytes by Star-local address; unlisted: 0 (DESIGN CHOICE, log entry 3). -/
  dram : List (Nat × Byte)
  /-- 64-byte DRAM blocks (by number) whose code carries poison marking (R282). -/
  poison : List (Nat × Bool)
  /-- Pantry bytes by Oven × 2²¹ + offset; unlisted: 0 (DESIGN CHOICE, log entry 3). -/
  pantry : List (Nat × Byte)
  wins : List (Nat × Window)
  /-- Relocations installed by Sets: base, size, and the new device address; `none`: left dark (R340). -/
  relocs : List (Nat × Nat × Option Nat)
  /-- While this Star's Set copies a window: its base, size, and the writes held, oldest first (R340). -/
  holding : Option (Nat × Nat)
  held : List HeldWrite
  hostReads : List HostRead
  remote : List RemoteReq
  nextTag : Nat
  /-- Metadata cache of each channel: cached code blocks, latest first (R284), by channel. -/
  codeCache : List (Nat × List Nat)
  /-- Channels in power-down, and when each was last used, in ns of `State.mono` (R286). -/
  pdown : List Nat
  lastUse : List (Nat × Nat)
  /-- The Slicers' staging buffers in use (R306). -/
  stage : List (Nat × Stage)
  /-- Channels that train, and those trained but not initialised (R285). -/
  training : List Nat
  initing : List Nat
  /-- MEM_TRAINED has been raised since a channel last began its training (R179). -/
  told : Bool
  /-- Decode words and encode tables of the SLICER section (R303). -/
  sdecs : List (Nat × Word)
  sencs : List (Nat × EncTable)
  deriving DecidableEq, Repr

/-- A submitted descriptor: its context, its ring index, the ns of the doorbell, and whether a Patch or a reset of its Bakery
has cancelled it (R121, R357). -/
structure Submitted where
  ctx : Nat
  index : Nat
  t : Nat
  cancel : Bool
  deriving DecidableEq, Repr

/-- Contexts: descriptors submitted and not yet taken, jobs, lap counts, due messages (R355–R367). -/
structure CtxState where
  /-- Submitted descriptors in doorbell order (R357). -/
  fetchQ : List Submitted
  jobs : List Job
  nextId : Nat
  /-- Lap count of each completion ring (R361). -/
  laps : List (Nat × Nat)
  /-- Contexts whose record write has been acknowledged with ARMED set, once for each message due (R367). -/
  msgDue : List Nat
  /-- The latest Crust cycle, in ns of `State.mono`, in which admission decided on a job (R215). -/
  admitAt : Option Nat
  /-- By mailbox: the latest Crust cycle of an update or an acknowledgement, and the context that updated it, or 1,024 for an
  acknowledgement (R373). -/
  mbxAt : List (Nat × (Nat × Nat))
  deriving DecidableEq, Repr
/-! ## Stream Channels and generators (spec/12) -/

/-- A view of a channel (R393, R405). -/
structure SView where
  en : Bool
  vbase : Nat
  vsize : Nat
  sbase : Nat
  sstride : Nat
  scount : Nat
  sel : Nat
  deriving DecidableEq, Repr

/-- The channel block of a STREAM section (R405). -/
structure SCfg where
  context : Nat
  gen : Nat
  profile : Nat
  trigSrc : Nat
  trigPort : Nat
  trigVc : Nat
  policy : Nat
  depth : Nat
  dl : Nat
  miss : Nat
  group : Option Nat
  underrun : Nat
  mbx : Nat
  mbxEn : Bool
  ticketRing : Nat
  trigCtx : Nat
  watchMbx : Nat
  watchEn : Bool
  fill : Nat
  resultAddr : Nat
  ticketBase : Nat
  bufBase : Nat
  bufStride : Nat
  bufCount : Nat
  bufPitch : Nat
  views : List SView
  deriving DecidableEq, Repr

/-- A trigger: its argument and Epoch arrival time in ns (R386). -/
structure Trigger where
  arg : Word
  t : Nat
  deriving DecidableEq, Repr

/-- An issued job as its channel follows it, until it has been judged and shown or ruled out (R399–R401). -/
structure SJob where
  id : Nat
  issued : Nat
  /-- Epoch ns. -/
  deadline : Int
  pass : Nat
  /-- Every pass has ended; nothing ranks before the deadline outcome. -/
  finished : Bool
  /-- Refused, cancelled, or an outcome ranks before the deadline outcome. -/
  failed : Bool
  judged : Bool
  abandoned : Bool
  /-- Epoch ns at which it finished (R399). -/
  done : Nat
  deriving DecidableEq, Repr

/-- The frame a channel presents (R394, R399). -/
structure Shown where
  deadline : Int
  pass : Nat
  issued : Nat
  deriving DecidableEq, Repr

/-- A Stream Channel in use (R384–R393). -/
structure SChan where
  cfg : SCfg
  table : TTable
  /-- 1 STOPPED, 2 RUNNING, 3 QUIESCED (R385). -/
  st : Nat
  /-- What the channel was before it was quiesced. -/
  before : Nat
  inst : Option TInst
  busy : Bool
  /-- Queued or pending triggers, oldest first (R387). -/
  queue : List Trigger
  /-- Triggers of the present Crust cycle that found the channel busy: judged after any READY of the cycle (R388). -/
  came : List Trigger
  /-- The ns of `State.mono` at which an arriving trigger made the channel busy (R388). -/
  busyAt : Option Nat
  /-- The latest delivered trigger (inputs 0 and 1). -/
  trig : Trigger
  rxCount : Nat
  outcome : Nat
  detail : Nat
  signal : Word
  issued : Nat
  /-- Pending Rebase mask (R390). -/
  rebase : Nat
  jobs : List SJob
  shown : Option Shown
  /-- The layers show the FILL colour (R401, R404). -/
  fill : Bool
  /-- A trigger has arrived since the last TICK (R403). -/
  fed : Bool
  deriving DecidableEq, Repr

/-- A mode of a generator (R406). -/
structure GMode where
  period : Nat
  hactive : Nat
  vactive : Nat
  deriving DecidableEq, Repr

/-- A layer of a generator (R398, R406). -/
structure GLayer where
  z : Nat
  chan : Nat
  x : Nat
  y : Nat
  w : Nat
  h : Nat
  deriving DecidableEq, Repr

/-- A layer's buffer for the present frame, fixed at the frame start: transparent, a FILL pixel, or a buffer (R395). -/
inductive LayerBuf where
  | clear
  | fill (pixel : Nat)
  | buffer (base pitch : Nat)
  deriving DecidableEq, Repr

/-- An output timing generator, as loaded and as it runs (R395–R398, R406). -/
structure Gen where
  defined : Bool
  lock : Bool
  defMode : Nat
  phase : Nat
  bg : Nat
  modes : List (Nat × GMode)
  layers : List GLayer
  /-- START has been written; Epoch ns from which frame 0 may start. -/
  startAt : Option Nat
  /-- At least one frame has started since START. -/
  begun : Bool
  mode : Nat
  frame : Nat
  /-- Epoch ns of the latest frame start, and of the next one. -/
  start : Nat
  next : Nat
  /-- An armed mode switch: mode and Epoch ns (R397). -/
  armed : Option (Nat × Int)
  /-- The buffers fixed for the present frame, by layer order; next line to scan out. -/
  bufs : List (GLayer × LayerBuf)
  line : Nat
  deriving DecidableEq, Repr

/-- A generator that no section defines. -/
def Gen.none : Gen :=
  { defined := false, lock := false, defMode := 0, phase := 0, bg := 0, modes := [], layers := [], startAt := Option.none,
    begun := false, mode := 0, frame := 0, start := 0, next := 0, armed := Option.none, bufs := [], line := 0 }

/-- A stream group (R402–R404). -/
structure SGroup where
  gen : Nat
  div : Nat
  stallMaxUs : Nat
  /-- Frame number of the next slot. -/
  nextSlot : Nat
  /-- Epoch ns of a slot that waits. -/
  waiting : Option Nat
  deriving DecidableEq, Repr

/-- Stream Channels, generators and groups. -/
structure StrState where
  chans : List (Nat × SChan)
  gens : List (Nat × Gen)
  groups : List (Nat × SGroup)
  deriving DecidableEq, Repr
/-! ## Meridian (spec/10) -/

/-- A link: its LINK entry, its training, its link layer, and Rise over it (R315–R323, R336). -/
structure MLink where
  /-- It has a LINK entry; the peer that entry demands, 255 for any (R334). -/
  decl : Bool
  peerHome : Nat
  peerLink : Nat
  /-- Training at Meridian-2, since an Epoch ns (R316). -/
  gen2At : Option Nat
  /-- The peer's identity has been accepted; its unit identity (R317). -/
  identOk : Bool
  unit : Nat
  /-- Epoch ns of the refusal (R315). -/
  refusedAt : Nat
  /-- Latest FSEQ sent, acknowledged, and received in order; Epoch ns of the last ACK progress (R318, R319, R323). -/
  tx : Nat
  acked : Nat
  rx : Nat
  ackAt : Nat
  /-- Credits of the REQ, RSP and CTL pools (R321). -/
  req : Nat
  rsp : Nat
  ctl : Nat
  /-- CTL messages that wait for credits or for replay room, oldest first (R321, R323). -/
  ctlQ : List MerMsg
  /-- The latest sequenced flits that are not acknowledged, oldest first: FSEQ and bytes (R323). -/
  replay : List (Nat × List Byte)
  /-- Flits sent since the latest skip flit (R314). -/
  sinceSkip : Nat
  /-- NAKs in a row without progress; the present 10 ms: when it began in ns of `State.mono`, and its flits and replays; the
  ratio of R317 was exceeded in the 10 ms before. -/
  retries : Nat
  winAt : Nat
  winTx : Nat
  winReplays : Nat
  noisy : Bool
  /-- Rise has been asked for, and is not complete (R336). -/
  rising : Bool
  /-- Destinations the peer has announced, and its Epoch minus this Star's in ns, once it has (R332, R336). -/
  said : Option (Nat × Int)
  /-- Rise has installed the link in the live masks (R336). -/
  installed : Bool
  /-- The Star at the far end has left by a Set (R315, R340). -/
  leftBySet : Bool
  deriving DecidableEq, Repr

/-- A link at reset. -/
def MLink.reset : MLink :=
  { decl := false, peerHome := 255, peerLink := 255, gen2At := none, identOk := false, unit := 0, refusedAt := 0,
    tx := 0xFFF, acked := 0xFFF, rx := 0xFFF, ackAt := 0, req := 0, rsp := 0, ctl := 0, ctlQ := [], replay := [],
    sinceSkip := 0, retries := 0, winAt := 0, winTx := 0, winReplays := 0, noisy := false, rising := false, said := none,
    installed := false, leftBySet := false }

/-- A guest map entry (R329, R334): Star, first master ID, first proxy, count, Bakery or system. -/
structure Guest where
  src : Nat
  first : Nat
  proxy : Nat
  count : Nat
  bakery : Option Nat
  deriving DecidableEq, Repr

/-- A POOL: base, size, and the ranges taken, as offset and size (R334, R340). -/
structure MPool where
  base : Nat
  size : Nat
  used : List (Nat × Nat)
  deriving DecidableEq, Repr

/-- What a Set does for the first window of those still to place: it offers it, copies it, has it relocated or left dark on
every Star; or, after the last, it awaits the answers to SET_FINAL (R340). -/
inductive SetStage where
  | offer | copy | relocate | dark | final
  deriving DecidableEq, Repr

/-- A Set of this Star: its tag, the windows still to place, the Stars still to be offered the first of them, the Star
and address that accepted it, and the counts (R340). -/
structure SetState where
  seq : Nat
  wins : List Nat
  asking : List Nat
  accepted : Option (Nat × Nat)
  /-- Bytes of the accepted window that have reached the accepting Star (R340). -/
  copied : Nat
  /-- Stars whose acknowledgement of a relocation or of SET_FINAL is awaited; the window that is being relocated was dark on
  one of them. -/
  acks : List Nat
  anyDark : Bool
  relocated : Nat
  dark : Nat
  stage : SetStage
  deriving DecidableEq, Repr

/-- Meridian: what the MERIDIAN section loads, the links, and Sets. -/
structure MerState where
  constId : Nat
  links : List (Nat × MLink)
  guests : List Guest
  pools : List MPool
  set : Option SetState
  /-- Stars that are leaving, whose SET_FINAL waits for requests outstanding to them (R340). -/
  finals : List Nat
  /-- When Epoch was last slewed, in ns of `State.mono` (R333). -/
  slewAt : Option Nat
  deriving DecidableEq, Repr
/-! ## Video ports (spec/13) -/

/-- An RXPORT entry: PHY, lanes or trios, expected rate (R435). -/
structure RxPort where
  phy : Nat
  lanes : Nat
  rate : Nat
  deriving DecidableEq, Repr

/-- An RXVC entry (R435). -/
structure RxVc where
  dt : Nat
  pack : Bool
  pitch : Nat
  maxLines : Nat
  deriving DecidableEq, Repr

/-- A received frame, open or waiting for its writes: which of the channel's frames it is, slot, number, next line, flags
(R416–R418). -/
structure RxFrame where
  id : Nat
  slot : Nat
  number : Nat
  line : Nat
  crc : Bool
  trunc : Bool
  overflow : Bool
  deriving DecidableEq, Repr

/-- The port configuration of an eDP or DSI entry (R435). -/
structure TxCfg where
  lanes : Nat
  rate : Nat
  /-- DSI: MODE of video mode. -/
  mode : Nat
  flags : Nat
  dsc : Bool
  bpc : Nat
  slices : Nat
  sliceH : Nat
  bpp16 : Nat
  deriving DecidableEq, Repr

/-- The LVDS entry: dual, mapping WM10, flags (R435). -/
structure LvdsCfg where
  dual : Bool
  wm10 : Bool
  flags : Nat
  deriving DecidableEq, Repr

/-- A TIMING entry (R420, R435). -/
structure VTiming where
  hsync : Nat
  hbp : Nat
  hfp : Nat
  vsync : Nat
  vbp : Nat
  vfpMin : Nat
  pclk : Nat
  flags : Nat
  deriving DecidableEq, Repr

/-- A DSI_INIT entry (R435). -/
structure DsiInit where
  dt : Nat
  data : List Byte
  delayMs : Nat
  deriving DecidableEq, Repr

/-- A host AUX transaction (R429). -/
structure AuxTx where
  port : Nat
  op : Nat
  addr : Nat
  data : List Byte
  len : Nat
  seq : Nat
  defers : Nat
  /-- On the wire; otherwise behind a training, or waiting for its retry from a microsecond count. -/
  sent : Bool
  deferAt : Option Nat
  deriving DecidableEq, Repr

/-- Video ports. -/
structure VidState where
  rx : List (Nat × RxPort)
  /-- By port × 16 + virtual channel. -/
  rxvc : List (Nat × RxVc)
  opened : List (Nat × RxFrame)
  closed : List (Nat × RxFrame)
  edp : List (Nat × TxCfg)
  dsi : Option TxCfg
  lvds : Option LvdsCfg
  /-- By generator × 4 + mode. -/
  timing : List (Nat × VTiming)
  dsiInit : List DsiInit
  /-- Entries not yet sent, and the microsecond count from which the next may be. -/
  initLeft : List DsiInit
  initAt : Nat
  dsiQueue : List (Nat × List Byte)
  aux : Option AuxTx
  /-- Microsecond counts of the latest HPD change and of the latest failed training, by port. -/
  hpdAt : List (Nat × Nat)
  failAt : List (Nat × Nat)
  /-- Frames since START, a mode switch or an Epoch step, by generator, up to 8 (R421). -/
  steady : List (Nat × Nat)
  /-- Ports whose link HOLD keeps down until RELEASE (R428). -/
  hold : List Nat
  deriving DecidableEq, Repr

/-- The video ports at reset: nothing loaded. -/
def VidState.reset : VidState :=
  { rx := [], rxvc := [], opened := [], closed := [], edp := [], dsi := none, lvds := none, timing := [], dsiInit := [],
    initLeft := [], initAt := 0, dsiQueue := [], aux := none, hpdAt := [], failAt := [], steady := [], hold := [] }
/-! ## Orbit (spec/16) -/

/-- A START entry (R530). -/
structure OrbStart where
  observeMs : Nat
  brakeMs : Nat
  pulseUs : Nat
  refine : Bool
  tries : Nat
  rpm0 : Nat
  rpm1 : Nat
  rampMs : Nat
  rampD : Nat
  handTol : Nat
  alignMs : Nat
  posDiff : Nat
  deriving DecidableEq, Repr

/-- START of a channel without an entry (R530). -/
def OrbStart.default : OrbStart := ⟨100, 1000, 200, false, 3, 150, 900, 1500, 250, 25, 200, 30⟩

/-- A configured channel: its CHANNEL, CURVE, SHAPE and START entries, and the band of R508 (R530). -/
structure OrbCfg where
  poles : Nat
  khz : Nat
  dead : Nat
  blank : Nat
  twin : Nat
  hyst : Nat
  advance : Nat
  demag : Nat
  span : Nat
  ocCode : Nat
  posCode : Nat
  ocMs : Nat
  dir : Bool
  policy : Nat
  depth : Nat
  retryMax : Nat
  retryS : Nat
  kp : Nat
  ki : Nat
  slew : Nat
  hystC : Nat
  /-- TEMP in °C and RPM. -/
  curve : List (Nat × Nat)
  shape : List Nat
  start : OrbStart
  dLo : Nat
  dHi : Nat
  deriving DecidableEq, Repr

/-- A command of R526. -/
inductive OrbCmd where
  | auto
  | manual (rpm : Int)
  | stop
  | clear
  deriving DecidableEq, Repr

/-- A channel of Orbit as it runs (R501–R529). Times are in ns of `State.mono`; a target is in 1/10,000 rpm. -/
structure OrbChan where
  cfg : OrbCfg
  /-- STATE of ORB_STATE: 1 IDLE; 2 OBSERVE; 3 BRAKE; 4 POSITION; 5 ALIGN; 6 RAMP; 7 RUN_PWM; 8 RUN_FULL; 9 FAULT_WAIT. -/
  st : Nat
  /-- When the present phase began; when the gates were last turned off. -/
  since : Nat
  offAt : Nat
  /-- Latest fault code; in fault for Pace; full speed (R524, R527, R529). -/
  fault : Nat
  inFault : Bool
  full : Bool
  /-- MANUAL mode and its rpm; STOP is in force (R526). -/
  manual : Bool
  want : Int
  stopped : Bool
  target : Int
  /-- T_use, in 1/10,000 of 0.25 °C (R522). -/
  tUse : Nat
  queue : List OrbCmd
  /-- Step of the drive, reverse drive, and the applied duty in per-mille (R505, R509). -/
  step : Nat
  rev : Bool
  duty : Nat
  /-- On-times of the 16 intervals of the latest softened commutation: incoming and outgoing high switch (R506). -/
  soft : List (Nat × Nat)
  /-- Time of the latest commutation; a valid crossing has come since; when the next commutation is due (R511, R512). -/
  commAt : Nat
  crossed : Bool
  commDue : Option Nat
  /-- Length of the present forced step (R519). -/
  stepNs : Nat
  /-- Latest intervals between crossings or transitions, newest first, at most 6; time of the latest one (R512, R515). -/
  ivals : List Nat
  lastX : Nat
  /-- Consecutive valid crossings or transitions, the direction of the transitions, and the pattern they left (R515, R521). -/
  cnt : Nat
  obsFwd : Bool
  obsAfter : Nat
  /-- Consecutive crossings that count for hand-over (R519). -/
  hand : Nat
  /-- Reported speed and VALID (R520). -/
  speed : Int
  valid : Nat
  /-- Passes through BRAKE since POSITION; failed ramps; failed retries; retrying is over until a command (R516–R528). -/
  brakes : Nat
  tries : Nat
  retries : Nat
  /-- Times of synchronisation losses (R527). -/
  losses : List Nat
  /-- First and latest overcurrent trip of the present run of PWM periods (R527, R528). -/
  ocFrom : Option Nat
  ocLast : Nat
  /-- D of R523 in per-mille × 65,536, its last error, and the 10 ms period of the last update. -/
  demand : Int
  lastErr : Int
  loopAt : Nat
  deriving DecidableEq, Repr

/-- Orbit: its configured channels, and the Tj_max values of the latest second, newest first, each with how many times it
came in a row (R522). -/
structure OrbState where
  chans : List (Nat × OrbChan)
  temps : List (Nat × Nat)
  /-- THERMTRIP_N has driven every gate output low until power-on reset (R503). -/
  tripped : Bool
  deriving DecidableEq, Repr

/-! ## Pace (spec/02) -/

/-- The AVSBus transactions that Pace issues (R72). -/
inductive AvsTx where
  | writeV (mv : Nat)
  | readV
  | readI
  | readT
  | readS
  deriving DecidableEq, Repr

/-- What one active Oven asks of a tick (R60–R62): its Bakery, Sentinel rate in Mhc/s, W_n, and P_ref in ns. -/
structure PaceDemand where
  bakery : Nat
  rate : Nat
  work : Nat
  period : Nat
  deriving DecidableEq, Repr

/-- The inputs of one tick, taken at its start (R59). -/
structure PaceSnap where
  mode : Nat
  vmin : Nat
  vbg : Nat
  vfix : Nat
  guard : Nat
  vdroop : Nat
  rail : Nat
  /-- CEIL_EFF × 256 in 0.125 W (R67). -/
  ceil : Nat
  /-- Prompt or Bulk work runs or is pending (R64). -/
  background : Bool
  demands : List PaceDemand
  deriving DecidableEq, Repr

/-- Pace between and within its ticks (R58–R80). Its results are PACE registers. -/
structure PaceState where
  /-- The latest tick boundary, in 100 µs of Epoch; boundaries passed; the latest one starts a tick, which has not been taken
  yet; ticks run (R58, R72). -/
  tickAt : Nat
  bounds : Nat
  due : Bool
  ticks : Nat
  /-- V_now in mV, once a read-back has succeeded (R74, R164). -/
  vNow : Option Nat
  /-- Products of the latest 10 ticks in mV × 10 mA, newest first (R65). -/
  products : List Nat
  /-- Consecutive failing ticks, and the hold of R74. -/
  failing : Nat
  hold : Bool
  throttling : Bool
  /-- Transactions left of this tick; the first has had `tried` failed attempts; one has failed; the tick began with V_now
  known and no hold (R74). -/
  txq : List AvsTx
  tried : Nat
  failed : Bool
  counts : Bool
  snap : PaceSnap
  /-- Orbit's latest report: channels in fault and at full speed (R59, R77). -/
  report : Nat × Nat
  /-- Acknowledgements written since the latest tick, oldest first (R59, R84). -/
  acks : List Word
  /-- The cut of R67 at the latest tick. -/
  cut : Nat
  /-- The window of R78: the boundary count at its start, the channels at full speed in every report of it, and its first and
  latest Tj_max. -/
  winStart : Nat
  winFull : Nat
  winFirst : Option Nat
  winLast : Nat
  deriving DecidableEq, Repr

/-- Pace as PACE_CTL turns on. -/
def PaceState.reset : PaceState :=
  { tickAt := 0, bounds := 0, due := false, ticks := 0, vNow := none, products := [], failing := 0, hold := false, throttling := false
    txq := [], tried := 0, failed := false, counts := false
    snap := { mode := 0, vmin := 0, vbg := 0, vfix := 0, guard := 0, vdroop := 0, rail := 0, ceil := 184320
              background := false, demands := [] }
    report := (0, 0), acks := [], cut := 0, winStart := 0, winFull := 15, winFirst := none, winLast := 0 }

/-! ## Nightwatch (spec/15) -/

/-- A layer of the keyword network (R478, R496). -/
structure NwLayer where
  op : Nat
  src : Nat
  aux : Nat
  k : Nat
  inN : Nat
  outN : Nat
  woff : Nat
  shift : Int
  curve : Nat
  stride : Nat
  deriving DecidableEq, Repr

/-- A keyword entry (R479, R496). -/
structure NwKeyword where
  thresh : Nat
  hyst : Nat
  hold : Nat
  len : Nat
  deriving DecidableEq, Repr

/-- The configuration block and the parts of a NIGHTWATCH section (R496), with its directory CRC (R498). -/
structure NwCfg where
  chEn : Nat
  preMask : Nat
  kwsMask : Nat
  alarmMask : Nat
  fullClk : Bool
  rate48 : Bool
  slots : Nat
  policy : Nat
  depth : Nat
  windowS : Nat
  settleMs : Nat
  bandCount : Nat
  deadMs : Nat
  aliveMs : Nat
  slotMap : List Nat
  userThresh : Nat
  enrolMin : Nat
  scoreLayer : Nat
  embLayer : Nat
  modelId : Nat
  toneFlo : Nat
  toneFhi : Nat
  toneSnr : Nat
  toneFloor : Int
  toneOn : Nat
  toneOff : Nat
  impactDb : Nat
  impactFloor : Int
  hbDb : Nat
  hbMs : Nat
  hbHz : Nat
  firL16 : List Int
  firF16 : List Int
  firF48 : List Int
  /-- LO, CTR, HI. -/
  bands : List (Nat × Nat × Nat)
  layers : List NwLayer
  weights : List Byte
  curves : List (Nat × Curve)
  keywords : List NwKeyword
  tables : List (Nat × TTable)
  crc : Nat
  deriving DecidableEq, Repr

/-- A decimation path of a channel: integrators and combs of the CIC, its latest 31 outputs, and the latest 64 inputs of the
FIR filter, newest first, with 24 fraction bits (R471). -/
structure NwPath where
  ints : List Int
  combs : List Int
  cic : List Int
  fir : List Int
  deriving DecidableEq, Repr

/-- A path that has seen nothing. -/
def NwPath.reset : NwPath := ⟨[0, 0, 0, 0, 0], [0, 0, 0, 0, 0], [], []⟩

/-- A PDM channel: its state, the sample periods in a row without and with a transition, its paths, and its latest 16 kHz
sample (R471, R475). -/
structure NwChan where
  dead : Bool
  quiet : Nat
  lively : Nat
  p16 : NwPath
  p48 : NwPath
  sample : Int
  deriving DecidableEq, Repr

/-- A channel at reset. -/
def NwChan.reset : NwChan := ⟨false, 0, 0, .reset, .reset, 0⟩

/-- Where a keyword stands: frames in its present run, the frame and the sample at which that began, and whether it has been
detected and has not yet fallen (R479). -/
structure NwRun where
  run : Nat
  frame : Nat
  sample : Nat
  spent : Bool
  deriving DecidableEq, Repr

/-- A wake trigger: what its EMIT and its snapshot say (R486, R491). -/
structure NwTrig where
  cause : Nat
  detail : Nat
  table : Nat
  kw : Nat
  user : Nat
  score : Nat
  sim : Int
  tStart : Nat
  tDet : Nat
  settling : Bool
  deriving DecidableEq, Repr

/-- A delivered record that has not been posted (R488, R491). -/
structure NwRec where
  trig : NwTrig
  short : Bool
  deadMask : Nat
  retLost : Bool
  expired : Bool
  tOldest : Nat
  bufStart : Nat
  bufOldest : Nat
  chMask : Nat
  mode : Nat
  drops : Nat
  tClose : Nat
  deriving DecidableEq, Repr

/-- An enrolment under way: user, keyword, tag, the SCOUNT at which it times out, and the utterances taken (R482). -/
structure NwEnrol where
  user : Nat
  kw : Nat
  seq : Nat
  until_ : Nat
  embs : List (List Int)
  deriving DecidableEq, Repr

/-- Retention memory: templates by user × 16 + keyword, the MODEL_ID they belong to, and whether its CRC matches (R495). -/
structure NwRet where
  templates : List (Nat × List Int)
  model : Option Nat
  good : Bool
  deriving DecidableEq, Repr

/-- Nightwatch (R469–R500). -/
structure NwState where
  cfg : Option NwCfg
  /-- 0 UNCONFIGURED, 1 LISTEN, 2 FULL; PDM_CLK in Hz, 0 when stopped (R469, R470). -/
  mode : Nat
  clk : Nat
  scount : Nat
  /-- Settling, the samples of it left, and the SCOUNT at which settling was last in force (R470, R491). -/
  settling : Bool
  settleLeft : Nat
  settledAt : Nat
  chans : List NwChan
  /-- Keyword input of the latest 400 samples and alarm input of the latest 64, newest first, in 1/840 of a sample's
  unit (R477, R483). -/
  kwsIn : List Int
  alarmIn : List Int
  /-- SCOUNT of the latest feature frame and alarm block; frames formed. -/
  frameAt : Nat
  blockAt : Nat
  frame : Nat
  /-- Inputs of each layer, newest first, and its latest output (R478). -/
  layerIn : List (Nat × List (List Int))
  layerOut : List (Nat × List Int)
  runs : List (Nat × NwRun)
  /-- Embeddings of the latest frames, newest first. -/
  embs : List (List Int)
  /-- Energies of the latest 64 alarm blocks, newest first (R484). -/
  levels : List Nat
  /-- Tonal and non-tonal blocks in a row, and whether a tone is on (R483). -/
  tonal : Nat
  nonTonal : Nat
  toneOn : Bool
  /-- Blocks until IMPACT may be raised again; blocks in a row of a shatter, and whether it has been raised (R484). -/
  impactHold : Nat
  shatter : Nat
  shatterDone : Bool
  /-- Inputs 0–5 and 9 of the pattern tables (R485). -/
  kw : Nat
  score : Nat
  user : Nat
  sim : Int
  toneHz : Nat
  level : Int
  signal : Word
  /-- Sample of the latest KW, and its T_START. -/
  kwStart : Nat
  /-- Running pattern tables; a halted one has no instance (R485). -/
  tables : List (Nat × TInst)
  /-- The wake being delivered, busy, and waiting triggers, oldest first; drops since the last delivery (R487). -/
  due : Option NwTrig
  busy : Bool
  queue : List NwTrig
  drops : Nat
  rec_ : Option NwRec
  /-- The wake window, the SCOUNT at which it closes, a scrub, and an opening that waits for it (R488, R489, R493). -/
  window : Bool
  winEnd : Nat
  scrub : Bool
  openDue : Bool
  /-- Pre-roll bytes by offset; unlisted: 0 (R493); the sample at which recording last started (R492). -/
  pre : List (Nat × Byte)
  s0 : Nat
  enrol : Option NwEnrol
  ret : NwRet
  /-- RET_VALID, and RET_LOST due in the next record (R495). -/
  retValid : Bool
  retLost : Bool
  deriving DecidableEq, Repr

/-- Nightwatch at its reset, apart from retention memory. -/
def NwState.reset : NwState :=
  { cfg := none, mode := 0, clk := 0, scount := 0, settling := false, settleLeft := 0, settledAt := 0
    chans := List.replicate 8 NwChan.reset, kwsIn := [], alarmIn := [], frameAt := 0, blockAt := 0, frame := 0
    layerIn := [], layerOut := [], runs := [], embs := [], levels := [], tonal := 0, nonTonal := 0, toneOn := false
    impactHold := 0, shatter := 0, shatterDone := false, kw := 0, score := 0, user := 0, sim := 0, toneHz := 0
    level := 0, signal := 0, kwStart := 0, tables := [], due := none, busy := false, queue := [], drops := 0, rec_ := none
    window := false, winEnd := 0, scrub := false, openDue := false, pre := [], s0 := 0, enrol := none
    ret := ⟨[], none, false⟩, retValid := false, retLost := false }

/-! ## The Recipe and its loader (spec/03) -/

/-- A key-hash fuse slot: the hash word's bits as burnt, the valid fuse and the revoke fuse (R103, R107). -/
structure FuseSlot where
  hash : Nat
  valid : Bool
  revoked : Bool
  deriving DecidableEq, Repr

/-- A directory entry (R91). -/
structure DirEntry where
  ty : Nat
  inst : Nat
  off : Nat
  len : Nat
  crc : Nat
  owner : Nat
  deriving DecidableEq, Repr

/-- What the loader keeps of a header that pass 1 has accepted (R90, R101). -/
structure RecipeHead where
  total : Nat
  sigOff : Nat
  rollback : Nat
  build : Nat
  /-- KEY_SLOT that verified it; 0 in open-key mode. -/
  slot : Nat
  /-- SPI_MODE and SPI_MHZ, clamped: how the rest of the load reads a flash (R90, R110). -/
  spiMode : Nat
  spiMhz : Nat
  deriving DecidableEq, Repr

/-- The command that the loader runs (R112, R121, R123). -/
structure RcpRun where
  /-- 0 automatic SPI load; 1 LOAD; 2 PATCH; 3 DEFERRED, by the host or by a Procedure. -/
  kind : Nat
  seq : Nat
  /-- Flash copy that an automatic load reads; a copy has held MAGIC (R110, R117). -/
  copy : Nat
  magic : Bool
  /-- A Procedure started this pass 3 (R180). -/
  byZen : Bool
  /-- A Patch: its Bakery, that Bakery's RCP_BAKERY state before it, how far it is (0 verify, 1 verified, 2 drain; a load:
  3 its fuses are being burnt), and when the drain began, in ns of `State.mono` (R107, R121). -/
  bakery : Nat
  before : Nat
  phase : Nat
  drainAt : Nat
  /-- What pass 1 accepted. -/
  head : RecipeHead
  dir : List DirEntry
  /-- The Recipe's bytes while its fuses are burnt (R107). -/
  image : List Byte
  deriving DecidableEq, Repr

/-- Fuses, the flash, the command under way, and the directory of the loaded Recipe (R103–R112). Its registers are RCP
registers. -/
structure RcpState where
  slots : List FuseSlot
  rollback : Nat
  /-- What SFDP gave to the latest automatic load; none for a flash without SFDP (R110). -/
  flash : Option Sfdp
  /-- SPI_MODE and SPI_MHZ of the latest Recipe committed, with which pass 3 reads the flash (R90, R110, R112). -/
  spiMode : Nat
  spiMhz : Nat
  run : Option RcpRun
  dir : List DirEntry
  deriving DecidableEq, Repr

/-- The loader of a new part: no fuse burnt (DESIGN CHOICE, log entry 1). -/
def RcpState.reset : RcpState := ⟨List.replicate 4 ⟨0, false, false⟩, 0, none, 0, 25, none, []⟩

/-! ## The whole state -/

/-- One Star (R1–R3): its registers and the state of every block, the queue of waiting commands, and the model's own
fields (DESIGN CHOICE, log entries 4 and 5). -/
structure State where
  /-- The ordering code of the part (R1, R4). -/
  code : OrderCode
  /-- Epoch in ns (R549). -/
  epoch : Nat
  /-- Epoch microsecond boundaries passed: what Zenith's and the channels' timers count (R149, R154). -/
  usCount : Nat
  /-- The model's own: ns of the machine's clocks since reset, which no Epoch step changes. -/
  mono : Nat
  /-- BAR0 register values that differ from their reset value, by offset (R45, R550). -/
  regs : List (Nat × Word)
  pwr : PwrState
  zen : ZenState
  flt : FltState
  /-- The access tables of the loaded Recipe; `none`: the reset state of R378. -/
  awt : Option AwtTables
  pcie : PcieState
  side : SideState
  fab : FabState
  ovens : List (Nat × Oven)
  mem : MemState
  ctx : CtxState
  str : StrState
  mer : MerState
  vid : VidState
  orb : OrbState
  pace : PaceState
  nw : NwState
  rcp : RcpState
  /-- Commands that wait, first in first out. -/
  pending : List Instr
  /-- The model's own: what has been driven out of the package, latest first. -/
  port : List PortEvent
  /-- The model's own: how many free values have been drawn. -/
  freeCtr : Nat
  deriving DecidableEq, Repr

/-- The supplies at reset (DESIGN CHOICE, log entry 1): all but VDD_HEARTH present. -/
def Supplies.reset : Supplies := ⟨true, true, true, false⟩

/-- The pins at reset (DESIGN CHOICE, log entry 1). -/
def PowerPins.reset : PowerPins :=
  { porN := false, perstN := false, hearthEn := false, pwrreqN := false, wakeN := true, thermtripN := true,
    modulePresN := true, moduleEjectN := true, moduleRdyN := true }

/-- Power at reset: POR_N low, every Crust and Hearth domain OFF. -/
def PwrState.reset : PwrState :=
  { sup := .reset, pins := .reset, undef := false, bootsel := 0, addrSel := false, romDue := false,
    romRunning := false, cfgBuilt := false, autoLoadDue := false, dom := [(159, .on), (163, .on)], pend := [],
    moving := [], vok := false, lastPerst := false, tripped := false, ejectAt := none, bakReset := none }

/-- Zenith at reset: nothing loaded, nothing running. -/
def ZenState.reset : ZenState :=
  { roles := [64, 64, 64, 64, 64, 64], policy := [], targets := [], procs := [],
    insts := [none, none, none, none, none, none, none, none], reqs := [] }

/-- A PCIe link at reset: down. -/
def PLink.reset : PLink := ⟨false, 0, 0, false⟩

/-- PCI Express at reset: nothing loaded (R466's defaults). -/
def PcieState.reset : PcieState :=
  { linkA := .reset, linkB := .reset, cfg := [], msix := [], vfCount := 0, maxGenA := 5, maxGenB := 3, ssvid := 0,
    ssid := 0, primary := none, lostLogged := [] }

/-- The sideband at reset. -/
def SideState.reset : SideState :=
  { mwl := 0, mrl := 0, ibiEvt := false, ibiFrom := false, trigMask := 0, fromHost := 0, spiBusy := none,
    gpioExt := 0, edgeAt := [], tap := .idcode, chain := [] }


/-- The fabric at reset: nothing loaded. -/
def FabState.reset : FabState := ⟨[], [], [], [], [], 0, 0⟩

/-- Memory at reset: nothing listed (DESIGN CHOICE, log entry 3), no window. -/
def MemState.reset : MemState :=
  { dram := [], poison := [], pantry := [], wins := [], relocs := [], holding := none, held := [], hostReads := [], remote := [], nextTag := 0, codeCache := [], pdown := [], lastUse := [], stage := [],
    training := [], initing := [], told := true, sdecs := [], sencs := [] }

/-- The contexts at reset: no job. -/
def CtxState.reset : CtxState := ⟨[], [], 0, [], [], none, []⟩

/-- The machine right after reset: in power-on reset, POR_N low (R168; DESIGN CHOICE, log entry 1). -/
def State.reset : State :=
  { code := .u48, epoch := 0, usCount := 0, mono := 0, regs := [], pwr := .reset, zen := .reset, flt := ⟨[]⟩, awt := none,
    pcie := .reset, side := .reset,
    fab := .reset, ovens := [], mem := .reset, ctx := .reset,
    str := ⟨[], [], []⟩,
    mer := ⟨0, [], [], [], none, [], none⟩,
    vid := .reset,
    orb := ⟨[], [], false⟩,
    pace := .reset,
    nw := .reset,
    rcp := .reset,
    pending := [], port := [], freeCtr := 0 }

end Sys2Proof.Machine
end

