-- ==== Sys2Proof/Machine/StateTable.lean ====
section
/-! DEFINITION. The evaluation pass of a state table (R147–R153). -/
namespace Sys2Proof

/-- The remaining count of a timer at boundary number `now` (R147). -/
def timerCount (now : Nat) : TTimer → Nat
  | .stopped => 0
  | .running due => due - now
  | .expired => 0

/-- The value of a selector (R147), over the events in `i.events` and the inputs of the snapshot. -/
def selValue (inputs : Nat → Word) (now : Nat) (i : TInst) (sel : Nat) : Word :=
  if sel < 0x40 then (if i.events.testBit sel then 1 else 0)
  else if sel < 0x80 then inputs (sel - 0x40)
  else if sel < 0x88 then i.locals.getD (sel - 0x80) 0
  else if sel < 0x8c then BitVec.ofNat 32 (timerCount now (i.timers.getD (sel - 0x88) .stopped))
  else if sel < 0x90 then BitVec.ofNat 32 (i.counters.getD (sel - 0x8c) 0)
  else 0

/-- Whether a row's condition holds (R148). -/
def condHolds (inputs : Nat → Word) (now : Nat) (i : TInst) (r : TRow) : Bool :=
  let v := selValue inputs now i r.src
  match r.cond with
  | 0 => true
  | 1 => v != 0
  | 2 => v == r.imm
  | 3 => v != r.imm
  | 4 => decide (r.imm.toNat ≤ v.toNat)
  | 5 => decide (v.toNat < r.imm.toNat)
  | 6 => (v &&& r.imm) == r.imm
  | 7 => (v &&& r.imm) == 0
  | 8 => decide (0x88 ≤ r.src ∧ r.src < 0x8c) && (i.timers.getD (r.src - 0x88) .stopped == .expired)
  | _ => decide (r.imm.toInt ≤ v.toInt)

/-- The first row of the state whose condition holds: rows in index order up to the one with LAST (R150, R151). -/
def firstRow (inputs : Nat → Word) (now : Nat) (i : TInst) : List TRow → Option TRow
  | [] => none
  | r :: rs => if condHolds inputs now i r then some r else if r.last then none else firstRow inputs now i rs

/-- The action of a row on the instance's own locals, timers and counters (R149). EMIT, WRITE and HALT act outside. -/
def actLocal (inputs : Nat → Word) (now : Nat) (r : TRow) (i : TInst) : TInst :=
  let d8 := min r.dst 7
  let d4 := min r.dst 3
  match r.act with
  | 1 => { i with locals := i.locals.set d8 r.arg }
  | 2 => { i with locals := i.locals.set d8 (i.locals.getD d8 0 + r.arg) }
  | 3 => { i with locals := i.locals.set d8 (selValue inputs now i (r.arg.toNat % 256)) }
  | 4 => { i with timers := i.timers.set d4 (if r.arg = 0 then .expired else .running (now + r.arg.toNat)) }
  | 5 => { i with timers := i.timers.set d4 .stopped }
  | 6 => { i with counters := i.counters.set d4 (satInc 16 (i.counters.getD d4 0)) }
  | 7 => { i with counters := i.counters.set d4 0 }
  | _ => i

/-- How a pass ended: no row's condition held, 64 rows fired, or HALT, which may be the 64th (R151, R152). -/
inductive PassEnd where
  | idle | limit | halt | haltLimit
  deriving DecidableEq, Repr

/-- The instance has halted. -/
def PassEnd.halts (e : PassEnd) : Bool := e == .halt || e == .haltLimit

/-- The step-limit counter counts the pass. -/
def PassEnd.limited (e : PassEnd) : Bool := e == .limit || e == .haltLimit

/-- The row that fires next, the snapshot's events after it, and the instance after its CONSUME, its action on the instance
and its NEXT. Conditions and COPY see the snapshot's events; CONSUME clears the pending flag too (R148, R151). -/
def fireRow (t : TTable) (inputs : Nat → Word) (now snap : Nat) (i : TInst) : Option (TRow × Nat × TInst) :=
  match firstRow inputs now { i with events := snap } (t.rows.drop i.state) with
  | none => none
  | some r =>
    let take (e : Nat) : Nat := if r.consume && decide (r.src < 0x40) then putBit r.src false e else e
    let j := actLocal inputs now r { i with events := take snap }
    some (r, take snap, { j with events := take i.events, state := r.next })

/-- An arriving event: its flag is set, and a pass is due; one that is pending already merges (R151, R152). -/
def TInst.arrive (e : Nat) (i : TInst) : TInst := { i with events := putBit e true i.events, wake := true }

/-- Whether a pass is due: something has triggered it, or an input has changed since the latest one (R151; DEDUCED, log entry 29). -/
def TInst.ready (inputs : List Word) (i : TInst) : Bool := i.wake || i.seen != inputs

/-- An expiry at a boundary: the timer expires and a pass is due (R149). -/
def TInst.expire (k : Nat) (i : TInst) : TInst := { i with timers := i.timers.set k .expired, wake := true }

/-- Whether timer `k` runs and its boundary has come. -/
def TInst.due (now k : Nat) (i : TInst) : Bool :=
  match i.timers.getD k .stopped with
  | .running d => decide (d ≤ now)
  | _ => false

/-- An instance as a pass begins: its snapshot of the inputs is taken, and the timers whose boundary has come have expired
with it (R151). -/
def TInst.begun (inputs : List Word) (now : Nat) (i : TInst) : TInst :=
  { i with
    wake := false, seen := inputs
    timers := i.timers.map fun x => match x with | .running d => if d ≤ now then .expired else x | _ => x }

end Sys2Proof
end

