-- ==== Sys2Proof/Machine/Ops.lean ====
section
/-! DEFINITION. The named operations over registers, power domains, outputs, the fault log, the message vectors and
Zenith's events: every meaning is written over these. -/
namespace Sys2Proof.Machine

/-! ## The part (R1–R4) -/

/-- Enabled Ovens of an ordering code (R1). -/
def ovenCount : OrderCode → Nat
  | .u48 => 48
  | .u32 => 32
  | .u24 => 24

/-- DEVICE_ID of an ordering code (R4). -/
def deviceId : OrderCode → Word
  | .u48 => 0x4601C390
  | .u32 => 0x46018350
  | .u24 => 0x46016000

/-- Whether the LVDS transmitter and generator 3 are present (R1, R3). -/
def lvdsPresent : OrderCode → Bool
  | .u24 => false
  | _ => true

/-- Populated DRAM in bytes (R1, R37). -/
def dramBytes : OrderCode → Nat
  | .u24 => 0x200000000
  | _ => 0x400000000

/-! ## Registers -/

/-- What a register reads as while nothing has been written to it (R550 and the register tables). -/
def regReset (off : Nat) : Word :=
  if off = 0x3000c then 0x001E0F00
  else if off = 0x30010 then 0x10
  else if off = 0x30014 then 0x02D002D0
  else if off = 0x30018 then 0x02D00000
  else if off = 0x30030 then 0x000F0A00
  else if off = 0x3003c then 0x440
  else if off = 0x10034 then 0x14
  else if off = 0x80000 then 0x14
  else if off = 0x80004 then 4
  else if off = 0x80008 then 0x3E8
  else if off = 0x300000 then 0x00200A00
  else if 0x100000 ≤ off ∧ off < 0x110000 then
    (if off % 64 = 0x10 then 0x404 else if off % 64 = 0x24 then 0x80 else 0)
  else 0

/-- The stored value of the register at an offset. -/
def State.reg (s : State) (off : Nat) : Word := spGet (regReset off) s.regs off

/-- The state with a register's stored value set. -/
def State.setReg (off : Nat) (v : Word) (s : State) : State :=
  { s with regs := spSet (regReset off) off v s.regs }

/-- A field of a register, as a number. -/
def State.fget (s : State) (f : Fld) : Nat := bitsOf f.hi f.lo (s.reg f.off)

/-- The state with a field of a register set. -/
def State.fset (f : Fld) (v : Nat) (s : State) : State := s.setReg f.off (withBits f.hi f.lo v (s.reg f.off))

/-- A counter that counts modulo its width. -/
def State.fadd (f : Fld) (n : Nat) (s : State) : State := s.fset f (s.fget f + n)

/-- A saturating counter. -/
def State.fsat (f : Fld) (s : State) : State := s.fset f (satInc (f.hi + 1 - f.lo) (s.fget f))

/-- The registers of a range of offsets return to their reset values (R576). -/
def State.resetRegs (lo hi : Nat) (s : State) : State := { s with regs := spErase lo hi s.regs }

/-- A pair of registers holding bits [31:0] and [63:32] of a value. -/
def State.setPair (lo hi : Nat) (v : Nat) (s : State) : State :=
  (s.setReg lo (BitVec.ofNat 32 v)).setReg hi (BitVec.ofNat 32 (v / 2 ^ 32))

/-- The value that a pair of registers holds. -/
def State.pair (s : State) (lo hi : Nat) : Nat := (s.reg lo).toNat + 2 ^ 32 * (s.reg hi).toNat

/-! ## Outputs and free values -/

/-- The state with an output driven. -/
def State.out (e : PortEvent) (s : State) : State := { s with port := e :: s.port }

/-- A free value, and the state with the next one due (DESIGN CHOICE, log entry 4). -/
def State.free (s : State) : Word × State := (Config.freeValue s.freeCtr, { s with freeCtr := s.freeCtr + 1 })

/-- Epoch in microseconds. -/
def State.nowUs (s : State) : Nat := s.epoch / 1000

/-! ## Power domains (R155, R156) -/

/-- The state of a power domain. -/
def State.dom (s : State) (d : Nat) : DomState := spGet .off s.pwr.dom d

/-- Whether a domain is ON. -/
def State.on (s : State) (d : Nat) : Bool := s.dom d == .on

/-! ## Functions and their master IDs (R42, R43, R109, R443, R575) -/

/-- The number of a function: 0–31 on port A, 32–63 on port B. -/
def fnIndex (f : HostFn) : Nat := (match f.port with | .a => 0 | .b => 32) + f.vf.val

/-- The boot port of R108. -/
def State.bootPort (s : State) : PPort := if s.pwr.bootsel % 2 = 0 then .a else .b

/-- The primary port: the boot port until commit, then PRIMARY_PORT (R443). -/
def State.primaryPort (s : State) : PPort := s.pcie.primary.getD s.bootPort

/-- A port's link. -/
def State.link (s : State) : PPort → PLink
  | .a => s.pcie.linkA
  | .b => s.pcie.linkB

/-- Configuration space words of a PF or VF at reset, in the words that this model reads (R555). -/
def cfgReset (idx : Nat) (off : Nat) : Word :=
  let vf := decide (idx % 32 ≠ 0)
  if off = 0x00 then (if vf then 0x46021D7B else 0x46011D7B)
  else if off = 0x08 then 0x12000000
  else if off = 0x34 then (if vf then 0x50 else 0x40)
  else if vf then 0
  else if off = 0x10 then 0x4
  else if off = 0x18 ∨ off = 0x20 then 0xC
  else if off = 0x168 then 1
  else if off = 0x190 then 0x824
  else 0

/-- A word of a function's configuration space. -/
def State.cfgWord (s : State) (f : HostFn) (off : Nat) : Word :=
  spGet (cfgReset (fnIndex f) off) s.pcie.cfg (fnIndex f * 4096 + off)

/-- The state with a word of a function's configuration space set. -/
def State.setCfgWord (f : HostFn) (off : Nat) (v : Word) (s : State) : State :=
  { s with pcie := { s.pcie with
      cfg := spSet (cfgReset (fnIndex f) off) (fnIndex f * 4096 + off) v s.pcie.cfg } }

/-- The PF of a port. -/
def pfOf (p : PPort) : HostFn := ⟨p, 0⟩

/-- SR-IOV NumVFs and VF Enable of a port's PF (R443, R555). -/
def State.numVfs (s : State) (p : PPort) : Nat := bitsOf 15 0 (s.cfgWord (pfOf p) 0x158)
def State.vfEnable (s : State) (p : PPort) : Bool := decide (bitsOf 0 0 (s.cfgWord (pfOf p) 0x150) = 1)

/-- Whether a function exists (R575). -/
def State.fnExists (s : State) (f : HostFn) : Bool :=
  decide (f.vf.val = 0) ||
    (f.port == s.primaryPort && s.vfEnable f.port && decide (f.vf.val ≤ s.numVfs f.port))

/-- The master ID that a function's accesses carry (R42). -/
def State.masterOf (s : State) (f : HostFn) : Nat :=
  if f.vf.val ≠ 0 then 0x420 + f.vf.val else if f.port == s.primaryPort then 0x420 else 0x41B

/-- The domains of a port's controller and lanes (R155). -/
def portDomains : PPort → Nat × Nat
  | .a => (113, 114)
  | .b => (115, 116)

/-- Whether requests of a function's port reach Untal: its link is up and its domains are ON, and the configuration
space has been built (R166, R450). -/
def State.portUp (s : State) (p : PPort) : Bool :=
  (s.link p).up && s.pwr.cfgBuilt && s.on (portDomains p).1 && s.on (portDomains p).2

/-- Whether a function's BARs decode: it exists, Memory Space Enable is set (the VFs' own in SR-IOV Control) and it is
in D0 (R449, R575). -/
def State.barsDecode (s : State) (f : HostFn) : Bool :=
  s.portUp f.port && s.fnExists f &&
    (if f.vf.val = 0 then decide (bitsOf 1 1 (s.cfgWord f 0x04) = 1)
     else decide (bitsOf 3 3 (s.cfgWord (pfOf f.port) 0x150) = 1)) &&
    decide (bitsOf 1 0 (s.cfgWord f 0x44) = 0)

/-! ## MSI-X (R367–R369, R446) -/

/-- The entry of a vector of a function. -/
def State.msixEntry (s : State) (f : HostFn) (v : Nat) : MsixEntry :=
  spGet MsixEntry.reset s.pcie.msix (fnIndex f * 2048 + v)

/-- The state with an entry set. -/
def State.setMsix (f : HostFn) (v : Nat) (e : MsixEntry) (s : State) : State :=
  { s with pcie := { s.pcie with msix := spSet MsixEntry.reset (fnIndex f * 2048 + v) e s.pcie.msix } }

/-- Whether a function may send messages: MSI-X Enable set, Function Mask clear, not in D3hot (R367, R449; PRESUMED, log entry 38). -/
def State.msixOn (s : State) (f : HostFn) : Bool :=
  let mc := s.cfgWord f 0x50
  decide (bitsOf 31 31 mc = 1) && decide (bitsOf 30 30 mc = 0) && decide (bitsOf 1 0 (s.cfgWord f 0x44) = 0)

/-- The index of SBD's PCIE registers of a port. -/
def portNum : PPort → Nat
  | .a => 0
  | .b => 1

/-- A message falls due on a vector of a function: discarded while the function does not exist or its port is down,
left pending while the vector is masked, else sent (R367, R450, R575). -/
def messageDue (f : HostFn) (v : Nat) (s : State) : State :=
  if !(s.fnExists f) || !(s.portUp f.port) then s.fadd (Fld.SBD_PCIE_MSGLOST_COUNT (portNum f.port)) 1
  else
    let e := s.msixEntry f v
    if e.mask || !(s.msixOn f) then s.setMsix f v { e with pend := true }
    else s.out (.msix f v (e.lo.toNat + 2 ^ 32 * e.hi.toNat) e.data)

/-- Miscellaneous vector `v` is signalled, on the PF that carries 0x420 (R369). -/
def signalMisc (v : Nat) (s : State) : State := messageDue (pfOf s.primaryPort) (1024 + v) s

/-- An event sequence register advances, and its vector is signalled (R369). -/
def advanceSeq (f : Fld) (v : Nat) (s : State) : State := signalMisc v (s.fadd f 1)

/-! ## The fault log (R534–R538) -/

/-- The order in which the faults of one Crust cycle enter the queue (R537). -/
def faultBefore (a b : FaultEntry) : Bool :=
  decide (a.kind < b.kind) || (decide (a.kind = b.kind) && (decide (a.master < b.master) ||
    (decide (a.master = b.master) && decide (a.target < b.target))))

/-- The queue with a fault put behind those of earlier cycles and among those of its own cycle in order (R537). -/
def enqueueFault (e : FaultEntry) : List FaultEntry → List FaultEntry
  | [] => [e]
  | q :: qs => if q.t = e.t && faultBefore e q then e :: q :: qs else q :: enqueueFault e qs

/-- A fault is detected: its kind counts, and it waits for the log; a fault that finds the queue full is lost (R537). -/
def logFault (kind flags master target detail addr : Nat) (s : State) : State :=
  let e : FaultEntry := ⟨kind, flags, master, target, detail, addr, s.epoch⟩
  let s := s.fadd (Fld.FLT_COUNT_COUNT kind) 1
  let q := enqueueFault e s.flt.queue
  let s := { s with flt := { s.flt with queue := q.take 64 } }
  let s := s.fset Fld.FLT_QUEUE_LEVEL (q.take 64).length
  if 64 < q.length then s.fadd Fld.FLT_LOST_COUNT 1 else s

/-! ## Zenith's events and start requests (R177–R179) -/

/-- ZEN_STATUS and ZEN_INST follow the instances (R187). -/
def syncZen (s : State) : State :=
  let s := s.fset Fld.ZEN_STATUS_RUNNING (s.zen.insts.countP Option.isSome)
  (List.range 8).foldl (fun s i =>
    match s.zen.insts.getD i none with
    | none => s.fset (Fld.ZEN_INST_ACTIVE i) 0
    | some z => ((s.fset (Fld.ZEN_INST_PROC i) z.proc).fset (Fld.ZEN_INST_ACTIVE i) 1).fset (Fld.ZEN_INST_ROW i)
        z.inst.state) s

/-- Whether an instance of a Procedure runs. -/
def ZenState.runs (z : ZenState) (p : Nat) : Bool :=
  z.insts.any fun o => match o with | some i => i.proc == p | none => false

/-- The first free instance. -/
def ZenState.freeInst (z : ZenState) : Option Nat := z.insts.findIdx? Option.isNone

/-- An instance starts with a Procedure (R153, R177); one that finds none free does not. -/
def startInst (r : ZenReq) (s : State) : State :=
  match s.zen.freeInst, s.zen.procs.lookup r.proc with
  | some i, some t => syncZen { s with zen := { s.zen with
      insts := s.zen.insts.set i (some ⟨r.proc, r.cause, r.arg, t.begin, .none⟩) } }
  | _, _ => s

/-- A start request is dropped, replaced or ignored: DROPPED of its Procedure counts (R178). -/
def dropStart (p : Nat) (s : State) : State := s.fsat (Fld.ZEN_COUNT_DROPPED p)

/-- A request of a Procedure takes the place of an older one. -/
def replaceReq (r : ZenReq) : List ZenReq → List ZenReq
  | [] => []
  | q :: qs => if q.proc = r.proc then r :: qs else q :: replaceReq r qs

/-- A start request for a Procedure, under its trigger policy (R178). -/
def startRequest (proc cause : Nat) (arg : Word) (s : State) : State :=
  let r : ZenReq := ⟨proc, cause, arg⟩
  if (s.zen.procs.lookup proc).isNone then dropStart proc s
  else if !(s.zen.runs proc) && s.zen.freeInst.isSome then startInst r s
  else
    let (pol, depth) := (s.zen.policy.lookup proc).getD (1, 1)
    let n := s.zen.reqs.countP fun q => q.proc == proc
    let enqueue (s : State) : State := { s with zen := { s.zen with reqs := s.zen.reqs ++ [r] } }
    match pol with
    | 0 => if n < depth then enqueue s else dropStart proc s
    | 1 => if n = 0 then enqueue s
           else dropStart proc { s with zen := { s.zen with reqs := replaceReq r s.zen.reqs } }
    | _ => dropStart proc s

/-- The role that an event starts (R181): STARTUP 0, WAKE 1, PATCH 3, RISE 4, SET 5; 6 for none. -/
def roleOf (e : Nat) : Nat :=
  if e = 1 then 1 else if e = 2 then 0 else if 6 ≤ e ∧ e ≤ 9 then 4 else if e = 14 then 5 else if e = 16 then 3 else 6

/-- An event of Zenith arrives: it becomes pending in every running instance, and the role map's Procedure is asked
to start (R177, R179). -/
def raiseZen (e : Nat) (s : State) : State :=
  let s := { s with zen := { s.zen with
    insts := s.zen.insts.map (Option.map fun z => { z with inst := z.inst.arrive e }) } }
  let p := s.zen.roles.getD (roleOf e) 64
  if p < 64 then startRequest p e 0 s else s

/-- The instances with one of them changed. -/
def onInst (i : Nat) (g : ZenInst → ZenInst) (s : State) : State :=
  { s with zen := { s.zen with insts := s.zen.insts.modify i (Option.map g) } }

/-- WRITE_DONE of one instance (R179, R180). -/
def writeDone (i : Nat) (s : State) : State :=
  onInst i (fun z => { z with inst := z.inst.arrive 4, write := .none }) s

/-! ## Outcomes -/

/-- The outcome of a meaning that acts on Crust, Hearth or the memory dies: a next state, unless their state is
undefined after a supply fault (R161). -/
def ok (f : State → State) (s : State) : Host.Outcome State Fault Refusal :=
  if s.pwr.undef then .fault .crustStateUndefined else .next (f s)

end Sys2Proof.Machine
end

