-- ==== Sys2Proof/Machine/Access.lean ====
section
/-! DEFINITION. Access tables and the path of a register access (R3, R18, R46–R48, R375–R378, R577, R578). -/
namespace Sys2Proof.Machine

/-! ## Targets and tables (R376, R378) -/

/-- Base of a BAR0 block and its AWT target; the next block's base ends it (R45, R547). -/
def blockBases : List (Nat × Nat) :=
  [(0x0, 64), (0x10000, 65), (0x20000, 66), (0x30000, 67), (0x40000, 68), (0x80000, 69), (0xa0000, 70),
   (0xc0000, 71), (0x100000, 72), (0x200000, 73), (0x300000, 74), (0x380000, 75), (0x400000, 76), (0x480000, 77),
   (0x490000, 78), (0x500000, 79), (0x580000, 80), (0x600000, 81), (0x800000, 82), (0x1000000, 83)]

/-- The block of a BAR0 offset: its base and AWT target; none in the unassigned range and beyond (R45). -/
def blockOf (off : Nat) : Option (Nat × Nat) :=
  if 0x1300000 ≤ off then none else (blockBases.filter fun b => decide (b.1 ≤ off)).getLast?

/-- Bytes of the region of BAR0 target `t` (R45). -/
def blockSize (t : Nat) : Nat :=
  match ([0x10000, 0x10000, 0x10000, 0x10000, 0x40000, 0x20000, 0x20000, 0x40000, 0x100000, 0x100000, 0x80000, 0x80000,
    0x80000, 0x10000, 0x70000, 0x80000, 0x80000, 0x200000, 0x800000, 0x300000] : List Nat)[t - 64]? with
  | some n => n
  | none => 0

/-- Visible DRAM in bytes: MEM_SIZE once it is set at commit, the populated size before (R278, R310). -/
def State.visibleDram (s : State) : Nat :=
  let v := s.fget Fld.MEM_SIZE_VISIBLE_MIB
  if v = 0 then dramBytes s.code else v * 0x100000

/-- First and last byte of a target's range (R376). -/
def awtRange (s : State) (t : Nat) : Nat × Nat :=
  if t = 0 then (0, s.visibleDram - 1)
  else if t = 1 then (0x1C00000000, 0x1FFFFFFFFF)
  else if t < 50 then (0, 0x1FFFFF)
  else if t < 58 then (0, 2 ^ 40 - 1)
  else if t = 58 then (0, 0x7FFFF)
  else (0, blockSize t - 1)

/-- The tables in force: the Recipe's, or the reset state of R378. -/
def State.awtEntries (s : State) (t : Nat) : List AwtEntry :=
  match s.awt with
  | some a => (a.tables.lookup t).getD []
  | none =>
    if 59 ≤ t ∧ t < 64 then []
    else
      let (lo, hi) := awtRange s t
      let m : BitVec 64 := if t = 64 ∨ t = 65 ∨ t = 82 then 0xC000000000000000 else 0x8000000000000000
      [⟨lo, hi, m, m⟩]

/-- The Circle of a master ID (R375, R378). -/
def State.circleOf (s : State) (m : Nat) : Option Nat :=
  match s.awt with
  | some a => a.circles.lookup m
  | none => if m = 0x418 ∨ m = 0x41A then some 63 else if m = 0x420 then some 62 else none

/-- Whether a target permits a master an access to `n` bytes from `a` (R375). -/
def State.permits (s : State) (t m : Nat) (write : Bool) (a n : Nat) : Bool :=
  match s.circleOf m with
  | none => false
  | some k => (s.awtEntries t).any fun e =>
      decide (e.base ≤ a) && decide (a + n - 1 ≤ e.limit) && (if write then e.wr.getLsbD k else e.rd.getLsbD k)

/-- FLAGS of a fault record (R536). -/
def faultFlags (write remote job bar nomaster : Bool) : Nat :=
  (if write then 1 else 0) + (if remote then 2 else 0) + (if job then 4 else 0) + (if bar then 8 else 0) +
    (if nomaster then 16 else 0)

/-- An access denial: AWT_DENY of the target counts, and the fault log records it (R377). -/
def denyAccess (t m flags addr : Nat) (s : State) : State :=
  logFault 1 flags m t 0 addr (s.fadd (Fld.AWT_DENY_COUNT t) 1)

/-! ## Register offsets (R3, R577) -/

/-- Whether an offset belongs to a fused-off resource (R3). -/
def regFused (c : OrderCode) (off : Nat) : Bool :=
  (decide (0x1000000 ≤ off ∧ off < 0x1300000) && decide (ovenCount c ≤ (off - 0x1000000) / 0x10000)) ||
  (!(lvdsPresent c) &&
    (decide (0x490400 ≤ off ∧ off < 0x490500) || decide (0x210300 ≤ off ∧ off < 0x210400)))

/-- The power domain that holds the register at an offset (R577). -/
def regDomain (off : Nat) : Nat :=
  if off < 0x30000 then 111
  else if off < 0x40000 then 158
  else if off < 0x80000 then 111
  else if off < 0x200000 then 112
  else if off < 0x210000 then 129 + (off - 0x200000) / 0x4000
  else if off < 0x380000 then 112
  else if off < 0x400000 then 102 + (off - 0x380000) / 0x1000
  else if off < 0x480000 then 112
  else if off < 0x480100 then 112
  else if off < 0x480300 then 117 + (off - 0x480100) / 0x100
  else if off < 0x481000 then 112
  else if off < 0x490000 then 117 + (off - 0x481000) / 0x400
  else if off < 0x500000 then 112
  else if off < 0x580000 then 157
  else if off < 0x600000 then 159
  else if off < 0x1000000 then 111
  else (off - 0x1000000) / 0x10000

/-- Whether a register's domain can be reached: ON, and for Nightwatch the crossing open (R17, R18, R577). -/
def State.regOn (s : State) (off : Nat) : Bool := s.on 111 && s.on (regDomain off)

/-- How a register access is handled. -/
inductive RegGate where
  /-- Dropped, or read as zero, and nothing logged: fused off or no register (R3, R47). -/
  | void
  | denied (t : Nat)
  | unpowered (t d : Nat)
  | granted
  deriving DecidableEq, Repr

/-- The order in which an access to a register offset is judged (R578; DEDUCED, log entry 9 for R47). -/
def regGate (s : State) (m : Nat) (write : Bool) (off : Nat) : RegGate :=
  if regFused s.code off then .void
  else match blockOf off, regAt off with
  | some (b, t), some _ =>
    if !(s.permits t m write (off - b) 4) then .denied t
    else if !(s.regOn off) then .unpowered t (regDomain off)
    else .granted
  | _, _ => .void

/-- The faults that the handling of an access makes (R48, R18). -/
def gateFaults (g : RegGate) (m : Nat) (write : Bool) (off : Nat) (s : State) : State :=
  match g with
  | .denied t => denyAccess t m (faultFlags write false false true false) off s
  | .unpowered t d => logFault 3 (faultFlags write false false true false) m t d off s
  | _ => s

/-- A host command that writes a register: its effect happens only if the access is granted (R48, R578); a function
whose BARs do not decode makes no access (R447, R449, R575). -/
def hostWrite (f : HostFn) (off : Nat) (act : State → State) (s : State) : State :=
  if !(s.barsDecode f) then s
  else
    let m := s.masterOf f
    match regGate s m true off with
    | .granted => act s
    | g => gateFaults g m true off s

/-! ## Reading (R6, R549) -/

/-- The 32 bits from domain 32w of the map of domains that satisfy a test (R186). -/
def domMap (w : Nat) (p : Nat → Bool) : Word :=
  BitVec.ofNat 32 ((List.range 32).foldl
    (fun n j => if 32 * w + j < 164 && p (32 * w + j) then n + 2 ^ j else n) 0)

/-- A word of an access table as its registers read it (R383). -/
def awtWord (s : State) (off : Nat) : Word :=
  let o := off - 0xc0000
  if o < 0x4000 then
    (match s.circleOf (o / 4) with
     | some k => BitVec.ofNat 32 k
     | none => 0x80)
  else if o < 0x4400 then BitVec.ofNat 32 (s.awtEntries ((o - 0x4000) / 4)).length
  else
    let r := o - 0x8000
    match (s.awtEntries (r / 0x800))[r % 0x800 / 0x20]? with
    | none => 0
    | some e =>
      let v : Nat := match r % 0x20 / 4 with
        | 0 => e.base
        | 1 => e.base / 2 ^ 32
        | 2 => e.limit
        | 3 => e.limit / 2 ^ 32
        | 4 => e.rd.toNat
        | 5 => e.rd.toNat / 2 ^ 32
        | 6 => e.wr.toNat
        | _ => e.wr.toNat / 2 ^ 32
      BitVec.ofNat 32 v

/-- PWR_STATUS (R186). -/
def pwrStatus (s : State) : Word :=
  let b (c : Bool) (i : Nat) : Nat := if c then 2 ^ i else 0
  let p := s.pwr
  BitVec.ofNat 32 (b (!(p.pend.isEmpty && p.moving.isEmpty)) 0 + b p.vok 1 + b p.pins.hearthEn 2 + b p.lastPerst 4 +
    b (!p.pins.modulePresN) 8 + b (!p.pins.moduleEjectN) 9 + b (!p.pins.moduleRdyN) 10)

/-- The pin levels: an output drives its OUT level, but floats for a 1 under open drain (R462). -/
def gpioLevels (s : State) : Nat :=
  let dir := (s.reg Reg.SBD_GPIO_DIR).toNat
  let od := (s.reg Reg.SBD_GPIO_OD).toNat
  let out := (s.reg Reg.SBD_GPIO_OUT).toNat
  (List.range 16).foldl (fun n i =>
    let level := if dir.testBit i && !(od.testBit i && out.testBit i) then out.testBit i else s.side.gpioExt.testBit i
    if level then n + 2 ^ i else n) 0

/-- The static address (R454). -/
def State.staticAddr (s : State) : BitVec 7 := if s.pwr.addrSel then 0x4B else 0x4A

/-- The value a register reads as (R6): computed for the registers that mirror other state, the stored one otherwise. -/
def readReg (s : State) (off : Nat) : Word :=
  if off = 0x0 then deviceId s.code
  else if off = 0x4 then withBits 3 3 (portNum s.primaryPort) (s.reg off)
  else if off = 0x8 then BitVec.ofNat 32 s.epoch
  else if off = 0xc then BitVec.ofNat 32 (s.epoch / 2 ^ 32)
  else if off = 0x10000 then withBits 7 6 s.pwr.bootsel (s.reg off)
  else if off = 0x20000 then pwrStatus s
  else if 0x20010 ≤ off ∧ off < 0x20028 then domMap ((off - 0x20010) / 4) fun d => s.on d
  else if 0x20030 ≤ off ∧ off < 0x20048 then domMap ((off - 0x20030) / 4) fun d => s.dom d == .ret
  else if 0x20050 ≤ off ∧ off < 0x20068 then
    domMap ((off - 0x20050) / 4) fun d => (s.pwr.pend.any (·.1 == d)) || s.pwr.moving.any (·.1 == d)
  else if off = 0x202bc then 1
  else if 0x2037c ≤ off ∧ off ≤ 0x2038c then (if s.on ((off - 0x20100) / 4) then 1 else 0)
  else if (0xc0000 ≤ off ∧ off < 0xc4400) ∨ (0xc8000 ≤ off ∧ off < 0x100000) then awtWord s off
  else if off = 0x600004 then BitVec.ofNat 32 (gpioLevels s)
  else if off = 0x600040 then withBits 22 16 s.staticAddr.toNat (s.reg off)
  else s.reg off

/-- What the fields of a register return to a host: zero for WO fields and reserved bits (R6, R7). -/
def hostView (d : RegDesc) (v : Word) : Word :=
  d.flds.foldl (fun w f => if f.acc = .wo then w else withBits f.hi f.lo (bitsOf f.hi f.lo v) w) 0

/-! ## Writing stored fields (R6–R8) -/

/-- A write to a register with no action of its own: RW fields take the clamped value, W1C fields are cleared by ones,
every other field is unchanged (R6, R8). -/
def storeFields (d : RegDesc) (v old : Word) : Word :=
  d.flds.foldl (fun w f =>
    match f.acc with
    | .rw => withBits f.hi f.lo (clampNat f.min f.max (bitsOf f.hi f.lo v)) w
    | .w1c => withBits f.hi f.lo (bitsOf f.hi f.lo old &&& (2 ^ (f.hi + 1 - f.lo) - 1 - bitsOf f.hi f.lo v)) w
    | _ => w) old

end Sys2Proof.Machine
end

