-- ==== Sys2Proof/Machine/Arith.lean ====
section
/-! DEFINITION. Decoded operands, encoding, Curves and lane arithmetic (R130–R142, R226, R227, R234, R235). A dyadic
value is a pair (a, e) that stands for a × 2^e. -/
namespace Sys2Proof

/-- v / 2^n, rounded to nearest, ties to even. -/
def rne (v : Int) (n : Nat) : Int := divNearestEven v (2 ^ n)

/-- a × 2^k rounded to an integer, to nearest, ties to even; exact for k ≥ 0. -/
def scaleRne (a : Int) (k : Int) : Int := if k ≥ 0 then a * 2 ^ k.toNat else rne a (-k).toNat

/-- The lane range (R139). -/
def laneMin : Int := -(2 ^ 31)
def laneMax : Int := 2 ^ 31 - 1

/-- The accumulator range (R227). -/
def accMin : Int := -(2 ^ 47)
def accMax : Int := 2 ^ 47 - 1

/-- Saturation to the lane range, with the number of results it saturated (R234). -/
def satLane (v : Int) : Int × Nat :=
  if v < laneMin then (laneMin, 1) else if laneMax < v then (laneMax, 1) else (v, 0)

/-- Saturation to the accumulator range, likewise (R227, R263). -/
def satAcc (v : Int) : Int × Nat :=
  if v < accMin then (accMin, 1) else if accMax < v then (accMax, 1) else (v, 0)

/-! ## Decoding (R130, R131) -/

/-- Sign, exponent and magnitude of a decode entry. -/
def opSign (w : Word) : Bool := w.getLsbD 17
def opExp (w : Word) : Nat := bitsOf 16 12 w
def opMag (w : Word) : Nat := bitsOf 11 0 w

/-- The exact value of a decode entry as a dyadic: ±M × 2^(E − 27). -/
def opValue (w : Word) : Int × Int :=
  ((if opSign w then -(opMag w : Int) else (opMag w : Int)), (opExp w : Int) - 27)

/-- A decode entry as a lane value, before saturation: value × 2²⁴, rounded (R234). -/
def opLane (w : Word) : Int := let (a, e) := opValue w; scaleRne a (e + 24)

/-! ## Comparing dyadics and encoding (R132–R134) -/

/-- Whether a × 2^e < b × 2^f. -/
def dyLt (x y : Int × Int) : Bool :=
  let m := min x.2 y.2
  decide (x.1 * 2 ^ (x.2 - m).toNat < y.1 * 2 ^ (y.2 - m).toNat)

/-- The value of a threshold: ±MAG × 2^(EXP − 31). -/
def threshValue (w : Word) : Int × Int :=
  let m : Int := bitsOf 15 0 w
  ((if w.getLsbD 21 then -m else m), (bitsOf 20 16 w : Int) - 31)

/-- Whether x′ is above a threshold (R133). -/
def above (x : Int × Int) (w : Word) : Bool :=
  let t := threshValue w
  dyLt t x || (w.getLsbD 22 && !(dyLt x t))

/-- The code of a dyadic value (R132, R133); an empty slot encodes every value to 0x00 (R136). -/
def encodeDy (t : EncTable) (x : Int × Int) : Byte :=
  let x' := (x.1, x.2 + t.xshift)
  t.codemap.getD ((t.thresh.filter (above x')).length) 0

/-- An encode slot with no entry: all zeros (R136). -/
def EncTable.zero : EncTable := ⟨0, List.replicate 255 0, List.replicate 256 0⟩

/-- A threshold list made non-decreasing: one below its predecessor takes its value, not its TIE_UP (R134). -/
def clampThresh (prev : Word) : List Word → List Word
  | [] => []
  | w :: ws =>
    let w' := if dyLt (threshValue w) (threshValue prev) then
        BitVec.ofNat 32 (bitsOf 21 0 prev + (if w.getLsbD 22 then 2 ^ 22 else 0)) else w
    w' :: clampThresh w' ws

/-! ## Curves (R139–R142) -/

/-- A Curve slot with no entry: 0 for every input (R140). -/
def Curve.zero : Curve := ⟨false, 8, 0, List.replicate 17 0⟩

/-- A Curve's value on a lane value, with the saturations of EXTEND (R141, R142). -/
def evalCurve (c : Curve) (x : Int) : Int × Nat :=
  let y (k : Nat) : Int := c.ys.getD k 0
  let d := x - c.xlo
  let top : Int := 16 * 2 ^ c.wshift
  if d < 0 then
    if c.extend then satLane (y 0 + rne ((y 1 - y 0) * d) c.wshift) else (y 0, 0)
  else if top ≤ d then
    if c.extend then satLane (y 16 + rne ((y 16 - y 15) * (d - top)) c.wshift) else (y 16, 0)
  else
    let i := (d / 2 ^ c.wshift).toNat
    let f := d % 2 ^ c.wshift
    (y i + rne ((y (i + 1) - y i) * f) c.wshift, 0)

/-! ## The array (R226, R227) -/

/-- One aligned product of a wave in a row with block exponent `bs`, with the magnitudes it saturated (R226). -/
def product (x w : Word) (bs : Int) : Int × Nat :=
  let m : Int := (opMag x * opMag w : Nat)
  let k : Int := (opExp x : Int) + opExp w - 30 - bs
  let q := scaleRne m k
  let (q, n) := if accMax < q then (accMax, 1) else (q, 0)
  ((if opSign x != opSign w then -q else q), n)

/-- One column of a wave: the old accumulator plus 64 products, saturated (R227). -/
def column (bs old : Int) (xs ws : List Word) : Int × Nat :=
  let (s, n) := (xs.zip ws).foldl (fun (s, n) (x, w) => let (p, k) := product x w bs; (s + p, n + k)) (old, 0)
  let (r, k) := satAcc s
  (r, n + k)

/-- One wave through a tile (64 rows of 64 weights, row i for input lane i) into a row, with the saturations. -/
def waveRow (tile : List (List Word)) (xs : List Word) (r : AccRow) : AccRow × Nat :=
  let cols := (List.range 64).map fun j =>
    column r.bs (r.acc.getD j 0) xs ((List.range 64).map fun i => (tile.getD i []).getD j 0)
  (⟨r.bs, cols.map (·.1)⟩, (cols.map (·.2)).sum)

/-! ## Glaze stages (R235) -/

/-- One lane of a stage that is not pooling; a2 and a3 are the aux lanes. -/
def stageLane (curve : Nat → Curve) (sop : Nat) (sarg : Int) (x a2 a3 : Int) : Int × Nat :=
  match sop with
  | 1 => satLane (x + a2)
  | 2 => satLane (x - a2)
  | 3 => satLane (rne (x * a2) 24)
  | 4 => satLane (a3 + rne (x * (a2 - a3)) 24)
  | 5 => evalCurve (curve (sarg.toNat % 32)) x
  | 6 => satLane (scaleRne x sarg)
  | 7 => (max x a2, 0)
  | _ => (x, 0)

/-- An accumulator as a lane value, with its saturation (R234). -/
def accLane (bs a : Int) : Int × Nat := satLane (scaleRne a bs)

/-- The smallest e with m × 2^f < 2^e for a positive m × 2^f: 2^(e − 1) ≤ m × 2^f < 2^e (R265). -/
def ceilExp (m : Nat) (f : Int) : Int := (Nat.log2 m : Int) + 1 + f

end Sys2Proof
end

