-- ==== Sys2Proof/Machine/Fabric.lean ====
section
/-! DEFINITION. Shared targets: capacities, reservations, metering, and the choice of the request served (R203–R218). -/
namespace Sys2Proof.Machine

/-! ## Capacities (R52, R53, R204) -/

/-- VDD_HEARTH in mV that capacities follow: PACE_VOLT.VCMD as the latest Epoch microsecond boundary found it, or 600 before
Pace's first command (R204, R216). -/
def State.hearthMv (s : State) : Nat := if s.fab.mv = 0 then 600 else s.fab.mv

/-- At an Epoch microsecond boundary the Hearth targets take the capacity of the present Pace point (R216). -/
def latchMv (s : State) : State := { s with fab := { s.fab with mv := s.fget Fld.PACE_VOLT_VCMD } }

/-- G(V) × 15 in Mhc/s: the straight lines between the points of R52. -/
def rate15 (mv : Nat) : Nat :=
  if mv ≤ 600 then 10500
  else if mv ≤ 675 then 10500 + (mv - 600) * 50
  else if mv ≤ 750 then 14250 + (mv - 675) * 46
  else if mv ≤ 825 then 17700 + (mv - 750) * 40
  else if mv ≤ 900 then 20700 + (mv - 825) * 34
  else 23250

/-- Whether a target number names a target (R204). -/
def targetExists (s : State) (t : Nat) : Bool :=
  decide (t < 28) || (decide (32 ≤ t) && decide (t < 32 + ovenCount s.code))

/-- Guaranteed capacity × 15 of a shared target, in MB/s (R204). -/
def cap15 (s : State) (t : Nat) : Nat :=
  if !(targetExists s t) then 0
  else if t < 16 then 15 * (match s.code with | .u48 => 13600 | .u32 => 12000 | .u24 => 10240)
  else if t < 20 then
    (if s.fget (Fld.MER_LINK_STATUS_STATE (t - 16)) = 4 ∨ s.fget (Fld.MER_LINK_STATUS_STATE (t - 16)) = 5 then
       15 * (if s.fget (Fld.MER_LINK_STATUS_GEN (t - 16)) = 2 then 52000 else 13000)
     else 0)
  else if t < 28 then 32 * rate15 s.hearthMv
  else 64 * rate15 s.hearthMv

/-- The service unit of a target in bytes (R204). -/
def unitBytes (t : Nat) : Nat := if t < 16 then 64 else if t < 20 then 16 else if t < 28 then 4096 else 32

/-! ## Bakeries and reservations (R209–R216) -/

/-- A Bakery of the loaded Recipe. -/
def State.bakery (s : State) (b : Nat) : Bakery := spGet Bakery.none s.fab.baks b

/-- The state with a Bakery changed. -/
def State.onBakery (b : Nat) (g : Bakery → Bakery) (s : State) : State :=
  { s with fab := { s.fab with baks := spSet Bakery.none b (g (s.bakery b)) s.fab.baks } }

/-- An amount list's amount at a target; 0xFE names every DRAM channel (R209, R210). -/
def amountAt (l : List (Nat × Nat)) (t : Nat) : Nat :=
  (l.map fun e => if e.1 = t ∨ (e.1 = 0xFE ∧ t < 16) then e.2 else 0).sum

/-- A Rack; one that is not loaded has no entry. -/
def State.rack? (s : State) (r : Nat) : Option Rack := s.fab.racks.lookup r

/-- LINK_RES of a Bakery's cross-link Racks at a link egress (R199, R216). -/
def linkResAt (s : State) (b t : Nat) : Nat :=
  (s.fab.racks.map fun e =>
    if e.2.bakery = b && (e.2.prod.isNone || e.2.cons.isNone) && e.2.prod.isSome && e.2.link + 16 = t then e.2.linkRes
    else 0).sum

/-- A Bakery's standing reservations at a target (R209, R216). -/
def standingAt (s : State) (b t : Nat) : Nat := amountAt (s.bakery b).standing t + linkResAt s b t

/-- The jobs in a Bakery's count of R240: admitted, and their records not yet written (R214). -/
def bakeryJobs (s : State) (b : Nat) : List Job :=
  s.ctx.jobs.filter fun j => j.bakery == some b && j.copy.isNone && j.admitted

/-- What the admitted jobs of a Bakery reserve at a target (R207, R212). -/
def jobResvAt (s : State) (b t : Nat) : Nat :=
  ((s.ctx.jobs.filter fun j => j.bakery == some b).map fun j => amountAt j.resv t).sum

/-- The standing part of a target's reserved total (R218). -/
def standingTotal (s : State) (t : Nat) : Nat := ((List.range 16).map fun b => standingAt s b t).sum

/-- The reserved total of a target, in 1/256, not saturated (R212). -/
def reservedTotal (s : State) (t : Nat) : Nat :=
  standingTotal s t + (s.ctx.jobs.map fun j => amountAt j.resv t).sum

/-- The reserved amount U of a group at a target (R207); the system group has none. -/
def reservedOf (s : State) (g t : Nat) : Nat := if g < 16 then standingAt s g t + jobResvAt s g t else 0

/-- The Prompt weight of a group (R206, R209, R218). -/
def weightOf (s : State) (g : Nat) : Nat := if g < 16 then (s.bakery g).weight else s.fget Fld.FAB_SYSW_WEIGHT

/-- The Bakery that a context belongs to (R348). -/
def State.ctxBakery (s : State) (c : Nat) : Option Nat :=
  if s.fget (Fld.CTX_OWNER_MEMBER c) = 1 then some (s.fget (Fld.CTX_OWNER_BAKERY c)) else none

/-- The group of a Bakery or of the system (R205). -/
def groupOf : Option Nat → Nat
  | some b => b
  | none => 16

/-- The class an access is served in: Frame of the system group counts as Prompt (R205). -/
def classIn (g cls : Nat) : Nat := if g = 16 && cls = 0 then 1 else cls

/-! ## Metering (R207). A counter holds bytes × 3,840, so that every gain is exact. -/

/-- A group's counter at a target. -/
def meterOf (s : State) (t g : Nat) : Nat := spGet 0 s.fab.meters (t * 32 + g)

/-- The state with a counter set. -/
def setMeter (t g v : Nat) (s : State) : State :=
  { s with fab := { s.fab with meters := spSet 0 (t * 32 + g) v s.fab.meters } }

/-- One microsecond's gain: U × C / 256 × 1 µs. -/
def meterGain (s : State) (t g : Nat) : Nat := reservedOf s g t * cap15 s t

/-- The ceiling of a counter: 8 µs of gain, and at least one service unit while U is not zero (DEDUCED, log entry 12). -/
def meterCeil (s : State) (t g : Nat) : Nat :=
  if reservedOf s g t = 0 then 0 else max (8 * meterGain s t g) (3840 * unitBytes t)

/-- `n` boundaries of R207 for one counter. -/
def meterStep (n t g : Nat) (s : State) : State :=
  setMeter t g (min (meterOf s t g + n * meterGain s t g) (meterCeil s t g)) s

/-- METER_GAIN: every counter gains for each Epoch microsecond boundary that has passed since the latest gain; within a
microsecond nothing happens (R207). -/
def gainMeters (s : State) : State :=
  let n := s.usCount - s.fab.meterAt
  if n = 0 then s
  else
    let s := { s with fab := { s.fab with meterAt := s.usCount } }
    (List.range 80).foldl (fun s t => (List.range 16).foldl (fun s g => meterStep n t g s) s) s

def execMeterGain (s : State) : Host.Outcome State Fault Refusal := ok gainMeters s

/-! ## The choice at a service opportunity (R206–R208) -/

/-- A request as the choice sees it: a key that names it, its class, group, deadline, order of arrival, charged units
and bytes, and whether it was promoted. -/
structure Cand where
  key : Nat
  cls : Nat
  group : Nat
  deadline : Int
  order : Nat
  units : Nat
  bytes : Nat
  promoted : Bool
  deriving DecidableEq, Repr

/-- Whether the metering covers a Frame request (R207). -/
def covered (s : State) (t : Nat) (c : Cand) : Bool := decide (3840 * c.bytes ≤ meterOf s t c.group)

/-- The better of two covered Frame requests: earliest deadline, then oldest (R206). -/
def frameFirst (a b : Cand) : Bool :=
  decide (a.deadline < b.deadline) || (decide (a.deadline = b.deadline) && decide (a.order ≤ b.order))

/-- The first of a list under an order. -/
def bestOf (lt : Cand → Cand → Bool) : List Cand → Option Cand
  | [] => none
  | c :: cs => match bestOf lt cs with
    | none => some c
    | some d => if lt c d then some c else some d

/-- The oldest request. -/
def oldest : List Cand → Option Cand := bestOf fun a b => decide (a.order ≤ b.order)

/-- Whether a request competes as Prompt: Prompt, promoted Bulk, or Frame that is not covered (R206). -/
def asPrompt (s : State) (t : Nat) (c : Cand) : Bool :=
  c.cls == 1 || c.promoted || (c.cls == 0 && !(covered s t c))

/-- A target's place in the round robin. -/
def turnOf (s : State) (t : Nat) : Turn := spGet ⟨0, 0⟩ s.fab.turns t

/-- The group whose turn it is, among those that have a Prompt request, and the units it has taken (R206). -/
def nextTurn (s : State) (t : Nat) (ps : List Cand) : Turn :=
  let u := turnOf s t
  let has (g : Nat) : Bool := ps.any fun c => c.group == g
  if has u.group && decide (u.units < weightOf s u.group) then u
  else
    match (List.range 17).find? fun g => decide (u.group < g) && has g with
    | some g => ⟨g, 0⟩
    | none => ⟨((List.range 17).find? has).getD 0, 0⟩

/-- What a service opportunity chooses. -/
inductive Chosen where
  | none
  | frame (c : Cand)
  | prompt (c : Cand) (turn : Turn)
  | bulk (c : Cand)
  deriving DecidableEq, Repr

/-- The choice of R206. -/
def choose (s : State) (t : Nat) (cs : List Cand) : Chosen :=
  match bestOf frameFirst (cs.filter fun c => c.cls == 0 && covered s t c) with
  | some c => .frame c
  | none =>
    let ps := cs.filter (asPrompt s t)
    let u := nextTurn s t ps
    match oldest (ps.filter fun c => c.group == u.group) with
    | some c => .prompt c u
    | none =>
      match oldest (cs.filter fun c => c.cls == 2) with
      | some c => .bulk c
      | none => .none

/-- The key of the request chosen. -/
def Chosen.key? : Chosen → Option Nat
  | .none => Option.none
  | .frame c => some c.key
  | .prompt c _ => some c.key
  | .bulk c => some c.key

/-- What a choice costs: the counter loses the request's size; an uncovered Frame request counts as demoted; the turn
takes the units (R206, R207, R218; DEDUCED, log entry 10). -/
def charge (t : Nat) (ch : Chosen) (s : State) : State :=
  match ch with
  | .frame c => setMeter t c.group (meterOf s t c.group - 3840 * c.bytes) s
  | .prompt c u =>
    let s := { s with fab := { s.fab with turns := spSet ⟨0, 0⟩ t ⟨u.group, u.units + c.units⟩ s.fab.turns } }
    if c.cls = 0 then s.fadd (Fld.FAB_TGT_DEMOTED_COUNT t) c.units else s
  | _ => s

/-! ## Stalls (R203) -/

/-- Whether a Bakery is active: it holds a Frame job admitted and not completed. -/
def bakeryActive (s : State) (b : Nat) : Bool := (bakeryJobs s b).any fun j => j.cls == 0 && (j.phase == .ticket || j.phase == .running)

/-- A slot moves on a Rack of a Bakery: the stall interval restarts and the Bakery's bit clears (R203). -/
def slotMoved (b : Nat) (s : State) : State :=
  (s.onBakery b fun k => { k with lastMove := s.epoch }).fset Fld.FAB_STALL_STALLED
    (putBit b false (s.fget Fld.FAB_STALL_STALLED))

/-- BAKERY_STALL: the bit is set, vector 5 is signalled, and a STALL record is made (R203, R369, R535). -/
def stallBakery (b : Nat) (s : State) : State :=
  if bakeryActive s b && !((s.fget Fld.FAB_STALL_STALLED).testBit b) &&
      decide ((s.bakery b).lastMove + 1000 * s.fget Fld.FAB_STALLCFG_STALL_US ≤ s.epoch) then
    logFault 11 16 0 b (s.fget Fld.FAB_STALLCFG_STALL_US) 0 (signalMisc 5 (s.fset Fld.FAB_STALL_STALLED (putBit b true (s.fget Fld.FAB_STALL_STALLED))))
  else s

def execBakeryStall (bakery : Fin 16) (s : State) : Host.Outcome State Fault Refusal := ok (stallBakery bakery.val) s

/-- BULK_AGE in ns (R208, R218). -/
def bulkAge (s : State) : Nat := 100000 * s.fget Fld.FAB_BULKAGE_BULK_AGE

/-! ## Readings of FAB registers (R218) -/

/-- FAB_TGT_CAP and FAB_TGT_RESV. -/
def fabCapReg (s : State) (t : Nat) : Word := BitVec.ofNat 32 (cap15 s t / 15)
def fabResvReg (s : State) (t : Nat) : Word :=
  BitVec.ofNat 32 (min (reservedTotal s t) 4095 + 65536 * min (standingTotal s t) 4095)

end Sys2Proof.Machine
end

