-- ==== Sys2Proof/Machine/Crypto.lean ====
section
/-! DEFINITION. Integrity and authenticity of a Recipe: CRC-32C (R99), SHA-256 (R100, FIPS 180-4), and ECDSA on P-256
(R102, FIPS 186-5). -/
namespace Sys2Proof

/-! ## CRC-32C (R99) -/

/-- One bit of a reflected CRC step. -/
def crcBit (c : Nat) : Nat := if c % 2 = 1 then (c / 2) ^^^ 0x82F63B78 else c / 2

/-- One byte of CRC-32C. -/
def crcByte (c : Nat) (b : Byte) : Nat :=
  crcBit (crcBit (crcBit (crcBit (crcBit (crcBit (crcBit (crcBit (c ^^^ b.toNat))))))))

/-- CRC-32C of bytes: polynomial 0x1EDC_6F41 reflected, initial value and final XOR 0xFFFF_FFFF. -/
def crc32c (bs : List Byte) : Nat := bs.foldl crcByte 0xFFFFFFFF ^^^ 0xFFFFFFFF

/-! ## SHA-256 (R100) -/

/-- Big-endian value of bytes. -/
def beVal (bs : List Byte) : Nat := bs.foldl (fun n b => n * 256 + b.toNat) 0

/-- The `n` big-endian bytes of a value. -/
def beBytes (n v : Nat) : List Byte := (leBytes n v).reverse

/-- Rotation right of a word. -/
def ror (k : Nat) (w : Word) : Word := w.rotateRight k

/-- The 64 round constants of SHA-256. -/
def shaK : List Word :=
  [0x428a2f98, 0x71374491, 0xb5c0fbcf, 0xe9b5dba5, 0x3956c25b, 0x59f111f1, 0x923f82a4, 0xab1c5ed5] ++
  [0xd807aa98, 0x12835b01, 0x243185be, 0x550c7dc3, 0x72be5d74, 0x80deb1fe, 0x9bdc06a7, 0xc19bf174] ++
  [0xe49b69c1, 0xefbe4786, 0x0fc19dc6, 0x240ca1cc, 0x2de92c6f, 0x4a7484aa, 0x5cb0a9dc, 0x76f988da] ++
  [0x983e5152, 0xa831c66d, 0xb00327c8, 0xbf597fc7, 0xc6e00bf3, 0xd5a79147, 0x06ca6351, 0x14292967] ++
  [0x27b70a85, 0x2e1b2138, 0x4d2c6dfc, 0x53380d13, 0x650a7354, 0x766a0abb, 0x81c2c92e, 0x92722c85] ++
  [0xa2bfe8a1, 0xa81a664b, 0xc24b8b70, 0xc76c51a3, 0xd192e819, 0xd6990624, 0xf40e3585, 0x106aa070] ++
  [0x19a4c116, 0x1e376c08, 0x2748774c, 0x34b0bcb5, 0x391c0cb3, 0x4ed8aa4a, 0x5b9cca4f, 0x682e6ff3] ++
  [0x748f82ee, 0x78a5636f, 0x84c87814, 0x8cc70208, 0x90befffa, 0xa4506ceb, 0xbef9a3f7, 0xc67178f2]

/-- The initial hash value. -/
def shaInit : List Word :=
  [0x6a09e667, 0xbb67ae85, 0x3c6ef372, 0xa54ff53a, 0x510e527f, 0x9b05688c, 0x1f83d9ab, 0x5be0cd19]

/-- The next word of the message schedule, from its latest 16 words, newest first. -/
def shaNext (w : List Word) : Word :=
  let a := w.getD 1 0
  let b := w.getD 14 0
  (ror 17 a ^^^ ror 19 a ^^^ (a >>> 10)) + w.getD 6 0 + (ror 7 b ^^^ ror 18 b ^^^ (b >>> 3)) + w.getD 15 0

/-- The message schedule after `n` more words; newest first. -/
def shaSchedule : Nat → List Word → List Word
  | 0, w => w
  | n + 1, w => shaSchedule n (shaNext w :: w)

/-- One round on the working variables a to h. -/
def shaRound (v : List Word) (kw : Word × Word) : List Word :=
  match v with
  | [a, b, c, d, e, f, g, h] =>
    let t1 := h + (ror 6 e ^^^ ror 11 e ^^^ ror 25 e) + ((e &&& f) ^^^ (~~~e &&& g)) + kw.1 + kw.2
    let t2 := (ror 2 a ^^^ ror 13 a ^^^ ror 22 a) + ((a &&& b) ^^^ (a &&& c) ^^^ (b &&& c))
    [t1 + t2, a, b, c, d + t1, e, f, g]
  | v => v

/-- The hash value after one block of 64 bytes. -/
def shaBlock (h : List Word) (blk : List Byte) : List Word :=
  let w16 := (List.range 16).map fun i => BitVec.ofNat 32 (beVal (slice (4 * i) 4 blk))
  let w := (shaSchedule 48 w16.reverse).reverse
  (h.zip ((shaK.zip w).foldl shaRound h)).map fun p => p.1 + p.2

/-- The hash value after `n` blocks. -/
def shaBlocks : Nat → List Byte → List Word → List Word
  | 0, _, h => h
  | n + 1, bs, h => shaBlocks n (bs.drop 64) (shaBlock h (bs.take 64))

/-- SHA-256, as a number. -/
def sha256 (bs : List Byte) : Nat :=
  let n := bs.length
  let pad := (119 - n % 64) % 64
  let m := bs ++ (0x80 : Byte) :: (List.replicate pad (0 : Byte) ++ beBytes 8 (8 * n))
  (shaBlocks (m.length / 64) m shaInit).foldl (fun a w => a * 2 ^ 32 + w.toNat) 0

/-! ## ECDSA on P-256 (R102) -/

/-- The field prime, the order, b, and the base point of P-256. -/
def p256P : Nat := 0xffffffff00000001000000000000000000000000ffffffffffffffffffffffff
def p256N : Nat := 0xffffffff00000000ffffffffffffffffbce6faada7179e84f3b9cac2fc632551
def p256B : Nat := 0x5ac635d8aa3a93e7b3ebbd55769886bc651d06b0cc53b0f63bce3c3e27d2604b
def p256G : Nat × Nat :=
  (0x6b17d1f2e12c4247f8bce6e563a440f277037d812deb33a0f4a13945d898c296,
   0x4fe342e2fe1a7f9b8ee7eb4a7c0f9e162bce33576b315ececbb6406837bf51f5)

/-- b to the power e modulo m, over the low `k` bits of e. -/
def powMod (m : Nat) : Nat → Nat → Nat → Nat
  | 0, _, _ => 1 % m
  | k + 1, b, e => let r := powMod m k (b * b % m) (e / 2); if e % 2 = 1 then r * b % m else r

/-- The inverse modulo a prime of 256 bits. -/
def invMod (m a : Nat) : Nat := powMod m 256 (a % m) (m - 2)

/-- Difference modulo m. -/
def subMod (m a b : Nat) : Nat := (a + m - b % m) % m

/-- Sum of two points of the curve; `none` is the point at infinity. -/
def ecAdd : Option (Nat × Nat) → Option (Nat × Nat) → Option (Nat × Nat)
  | none, q => q
  | p, none => p
  | some (x1, y1), some (x2, y2) =>
    let p := p256P
    if x1 = x2 && (y1 + y2) % p = 0 then none
    else
      let l := if x1 = x2 then subMod p (3 * x1 * x1) 3 * invMod p (2 * y1) % p
               else subMod p y2 y1 * invMod p (subMod p x2 x1) % p
      let x := subMod p (l * l) (x1 + x2)
      some (x, subMod p (l * subMod p x1 x) y1)

/-- A point times the low `k` bits of a number. -/
def ecMul : Nat → Nat → Option (Nat × Nat) → Option (Nat × Nat)
  | 0, _, _ => none
  | k + 1, n, q => let r := ecMul k (n / 2) (ecAdd q q); if n % 2 = 1 then ecAdd q r else r

/-- Whether a point lies on P-256. -/
def onCurve (x y : Nat) : Bool :=
  decide (x < p256P) && decide (y < p256P) && y * y % p256P == subMod p256P (x * x * x + p256B) (3 * x)

/-- Whether a signature (r, s) of a digest verifies under a point. -/
def ecdsaVerify (x y r sg digest : Nat) : Bool :=
  if r = 0 || p256N ≤ r || sg = 0 || p256N ≤ sg then false
  else
    let w := invMod p256N sg
    match ecAdd (ecMul 256 (digest * w % p256N) (some p256G)) (ecMul 256 (r * w % p256N) (some (x, y))) with
    | none => false
    | some (rx, _) => rx % p256N == r

end Sys2Proof
end

