-- ==== Sys2Proof/Machine/Flits.lean ====
section
/-! DEFINITION. Meridian on the wire: message units, flits, their CRC, and lane order (R313, R314, R319, R320). -/
namespace Sys2Proof

/-! ## Message units (R320) -/

/-- OP of a message header. -/
def MerOp.code : MerOp → Nat
  | .rd => 1
  | .wrf => 2
  | .wrm => 3
  | .rdc => 4
  | .wra => 5
  | .slot => 6
  | .ctl => 7

/-- The 16-bit Rack tag of a SLOT (R193). -/
def MerMsg.rackTag (m : MerMsg) : Nat :=
  m.user % 2 ^ 14 + (if m.poison then 2 ^ 14 else 0) + (if m.frameEnd then 2 ^ 15 else 0)

/-- Bits [73:34] of a header: the device address; for a SLOT the Rack number and the Rack tag. -/
def MerMsg.place (m : MerMsg) : Nat :=
  match m.op with
  | .slot => m.addr % 2 ^ 10 + 2 ^ 10 * m.rackTag
  | _ => m.addr % 2 ^ 40

/-- TAG of a header; a CTL message carries its kind there (DESIGN CHOICE, log entry 17). -/
def MerMsg.tagField (m : MerMsg) : Nat :=
  match m.op with
  | .ctl => m.ctlKind % 2 ^ 12
  | _ => m.tag % 2 ^ 12

/-- The 128-bit header of a message. -/
def MerMsg.header (m : MerMsg) : Nat :=
  m.op.code + 2 ^ 4 * (m.cls % 4) + (if m.poison then 2 ^ 6 else 0) + 2 ^ 7 * (m.srcHome % 8) + 2 ^ 10 * (m.master % 2 ^ 12) +
    2 ^ 22 * m.tagField + 2 ^ 34 * m.place + 2 ^ 74 * (m.deadline % 2 ^ 32) + 2 ^ 106 * (m.status % 4)

/-- `n` bytes of a list, with zeros where it is shorter. -/
def padTo (n : Nat) (l : List Byte) : List Byte := (l ++ List.replicate (n - l.length) 0).take n

/-- What follows the header: byte enables of a masked write in a unit of their own, data, or the fields of a CTL message
in 8 bytes each, at most 8 of them (CTL: DESIGN CHOICE, log entry 17). -/
def MerMsg.body (m : MerMsg) : List Byte :=
  match m.op with
  | .rd => []
  | .wra => []
  | .wrf => padTo 64 m.data
  | .wrm => leBytes 16 (m.enables % 2 ^ 64) ++ padTo 64 m.data
  | .rdc => padTo 64 m.data
  | .slot => padTo 32 m.data
  | .ctl => padTo (16 * ((min 8 m.ctl.length + 1) / 2)) ((m.ctl.take 8).flatMap (leBytes 8))

/-- The units of a message, one after another. -/
def MerMsg.bytes (m : MerMsg) : List Byte := leBytes 16 m.header ++ m.body

/-- Units that a message occupies. -/
def msgUnits (m : MerMsg) : Nat :=
  match m.op with
  | .rd => 1
  | .wrf => 5
  | .wrm => 6
  | .rdc => 5
  | .wra => 1
  | .slot => 3
  | .ctl => 1 + (min 8 m.ctl.length + 1) / 2

/-! ## Flits (R319) -/

/-- The fields of a flit that its sender chooses: IDLE and FSEQ, ACK with its NAK, the credits returned. -/
structure FlitHead where
  idle : Bool
  fseq : Nat
  ack : Nat
  nak : Bool
  crReq : Nat
  crRsp : Nat
  crCtl : Nat
  racks : List (Nat × Nat)
  deriving DecidableEq, Repr

/-- The 624 bytes of a flit that its CRC covers; unused units are NOP headers, which are zeros (R320). -/
def flitCovered (h : FlitHead) (payload : List Byte) : List Byte :=
  leBytes 2 (h.fseq % 4096 + (if h.idle then 2 ^ 15 else 0)) ++
    leBytes 2 (h.ack % 4096 + (if h.nak then 2 ^ 14 else 0) + 2 ^ 15) ++
    leBytes 2 h.crReq ++ leBytes 2 h.crRsp ++ leBytes 2 h.crCtl ++ List.replicate 6 0 ++
    padTo 16 ((h.racks.take 8).flatMap fun e => leBytes 2 (e.1 % 1024 + 1024 * (e.2 % 64))) ++ padTo 592 payload

/-- A flit of 640 bytes. -/
def flitBytes (h : FlitHead) (payload : List Byte) : List Byte :=
  let c := flitCovered h payload
  c ++ leBytes 4 (crc32c c) ++ List.replicate 12 0

/-- An IDLE flit that carries an ACK or a NAK. -/
def ackFlit (nak : Bool) (seq : Nat) : List Byte := flitBytes ⟨true, 0, seq, nak, 0, 0, 0, []⟩ []

/-- An IDLE flit that returns credits, beside the ACK of the latest flit received in order. -/
def creditFlit (ack req rsp ctl : Nat) (racks : List (Nat × Nat)) : List Byte :=
  flitBytes ⟨true, 0, ack, false, req, rsp, ctl, racks⟩ []

/-- The fields of a flit as its receiver reads them; good when it passed FEC and its CRC holds (R319, R323). -/
def RxFlit.view (x : RxFlit) : MerFlit :=
  let w (o : Nat) : Nat := leAt o 2 x.bytes
  let racks := (List.range 8).map fun i => (w (16 + 2 * i) % 1024, w (16 + 2 * i) / 1024)
  { good := x.fec && x.bytes.length == 640 && leAt 0x270 4 x.bytes == crc32c (x.bytes.take 0x270)
    corrected := x.corrected
    idle := (w 0).testBit 15
    fseq := w 0 % 4096
    ack := w 2 % 4096
    nak := (w 2).testBit 14
    valid := (w 2).testBit 15
    crReq := w 4
    crRsp := w 6
    crCtl := w 8
    racks := racks.filter fun e => e.2 != 0 }

/-! ## Lanes (R313) -/

/-- The transmit lanes that the receivers 0 to 7 find: straight, reversed, or another permutation or fewer lanes, which
makes training fail. Polarity inversion of any lane is corrected. -/
def laneOrder (lanes : List (Fin 8 × Bool)) : Option Bool :=
  let l := lanes.map fun e => e.1.val
  if l = List.range 8 then some false
  else if l = (List.range 8).reverse then some true
  else none

/-- The bits of bytes, least significant first. -/
def bitsOfBytes (bs : List Byte) : List Bool := bs.flatMap fun b => (List.range 8).map fun i => b.getLsbD i

/-- The data of a Meridian-2 codeword: a flit and 20 zero bits, in 514 symbols of 10 bits (R312, R313). Its parity and the order
of its bits on the lanes stay on the wire, which the output list does not show (log entry 6). -/
def codewordData (flit : List Byte) : List Bool := bitsOfBytes flit ++ List.replicate 20 false

end Sys2Proof
end

