-- ==== Sys2Proof/Machine/MerOps.lean ====
section
/-! DEFINITION. Meridian's link layer as other blocks use it: links, credits, routes, sending (R314–R326, R347). -/
namespace Sys2Proof.Machine

/-- This Star's home ID (R38). -/
def State.home (s : State) : Nat := s.fget Fld.GLB_STATUS_HOME_ID

/-- The set bits below `n` of a number, ascending. -/
def bitsSet (n v : Nat) : List Nat := (List.range n).filter fun i => v.testBit i

/-- A link. -/
def State.mlink (s : State) (l : Nat) : MLink := spGet MLink.reset s.mer.links l

/-- The state with a link changed. -/
def onLink (l : Nat) (g : MLink → MLink) (s : State) : State :=
  { s with mer := { s.mer with links := spSet MLink.reset l (g (s.mlink l)) s.mer.links } }

/-- STATE of a link (R315). -/
def linkState (s : State) (l : Nat) : Nat := s.fget (Fld.MER_LINK_STATUS_STATE l)

/-- MER_EVT_SEQ advances, on vector 6 (R347). -/
def merEvent (s : State) : State := advanceSeq Fld.MER_EVT_SEQ_SEQ 6 s

/-- A link enters a state; a change is an event, and changes Zenith's input 4 (R179, R347). -/
def setLinkState (l v : Nat) (s : State) : State :=
  if linkState s l = v then s else (merEvent (s.fset (Fld.MER_LINK_STATUS_STATE l) v))

/-- Whether a link is TRAINED or ACTIVE. -/
def inService (s : State) (l : Nat) : Bool := linkState s l == 4 || linkState s l == 5

/-! ## Flits and credits (R314, R317, R319, R321, R323) -/

/-- Flits sent and not acknowledged (R323). -/
def outstanding (k : MLink) : Nat := (k.tx + 4096 - k.acked) % 4096

/-- A link's count of flits and replays, begun anew once 10 ms are over: more than one replay in 1,000 flits of the 10 ms
that are over makes the link noisy (R317; DEDUCED, log entry 20). -/
def rollWin (now : Nat) (k : MLink) : MLink :=
  if k.winAt + 10000000 ≤ now then
    { k with winAt := now, winTx := 0, winReplays := 0, noisy := decide (k.winTx < 1000 * k.winReplays) }
  else k

/-- A flit goes out, counted in the present 10 ms (R317) and followed by a skip flit after every 1,024th (R314). -/
def sendFlit (l : Nat) (bytes : List Byte) (s : State) : State :=
  let full := (s.mlink l).sinceSkip + 1 = 1024
  let s := onLink l (fun k =>
    let k := rollWin s.mono k
    { k with sinceSkip := if k.sinceSkip + 1 = 1024 then 0 else k.sinceSkip + 1, winTx := k.winTx + 1 }) s
  let s := s.out (.flit l bytes)
  if full then s.out (.skipFlit l) else s

/-- Credits returned in an IDLE flit: units to the pools, slots to Racks (R319, R321). -/
def returnCredits (l req rsp ctl : Nat) (racks : List (Nat × Nat)) (s : State) : State :=
  sendFlit l (creditFlit (s.mlink l).rx req rsp ctl racks) s

/-- Units returned to the pool that a message came from, while its link is in service (R321). -/
def returnUnits (l : Nat) (m : MerMsg) (s : State) : State :=
  let n := msgUnits m
  if 4 ≤ l || !(inService s l) then s
  else match m.op with
  | .rdc => returnCredits l 0 n 0 [] s
  | .wra => returnCredits l 0 n 0 [] s
  | .ctl => returnCredits l 0 0 n [] s
  | .slot => s
  | _ => returnCredits l n 0 0 [] s

/-- Whether a link can send a message now: in service, room for replay, and credits of its pool (R321, R323). -/
def canSend (s : State) (l : Nat) (m : MerMsg) : Bool :=
  let k := s.mlink l
  inService s l && decide (outstanding k < 256) &&
    (match m.op with
     | .rd => decide (msgUnits m ≤ k.req)
     | .wrf => decide (msgUnits m ≤ k.req)
     | .wrm => decide (msgUnits m ≤ k.req)
     | .rdc => decide (msgUnits m ≤ k.rsp)
     | .wra => decide (msgUnits m ≤ k.rsp)
     | .ctl => decide (msgUnits m ≤ k.ctl)
     | .slot => true)

/-- The credits a message takes (R321). -/
def spend (m : MerMsg) (k : MLink) : MLink :=
  match m.op with
  | .rdc => { k with rsp := k.rsp - msgUnits m }
  | .wra => { k with rsp := k.rsp - msgUnits m }
  | .ctl => { k with ctl := k.ctl - msgUnits m }
  | .slot => k
  | _ => { k with req := k.req - msgUnits m }

/-- The sequenced flit that carries a message, with the ACK of the latest flit received in order: the message begins at the
first unit, and NOP units follow it (R319, R320; one message to a flit: DESIGN CHOICE, log entry 17). -/
def msgFlit (k : MLink) (m : MerMsg) : List Byte :=
  flitBytes ⟨false, (k.tx + 1) % 4096, k.rx, false, 0, 0, 0, []⟩ m.bytes

/-- A message leaves in a sequenced flit, which is kept for replay until it is acknowledged (R319, R323). -/
def sendMsg (l : Nat) (m : MerMsg) (s : State) : State :=
  let f := msgFlit (s.mlink l) m
  let s := onLink l (fun k => { spend m k with
    tx := (k.tx + 1) % 4096, ackAt := if outstanding k = 0 then s.epoch else k.ackAt
    replay := k.replay ++ [((k.tx + 1) % 4096, f)] }) s
  sendFlit l f (s.fadd (Fld.MER_LINK_TX_COUNT l) 1)

/-- A link control message: sent where the link can take it and none waits before it, else it waits (R321, R323). -/
def sendCtl (l : Nat) (m : MerMsg) (s : State) : State :=
  if !(inService s l) then s
  else if (s.mlink l).ctlQ.isEmpty && canSend s l m then sendMsg l m s
  else onLink l (fun k => { k with ctlQ := k.ctlQ ++ [m] }) s

/-- Control messages that waited go out while the link can take them. -/
def flushCtl (l : Nat) : List MerMsg → State → State
  | [], s => s
  | m :: ms, s =>
    if canSend s l m then flushCtl l ms (sendMsg l m (onLink l (fun k => { k with ctlQ := ms }) s)) else s

/-! ## Routes (R324, R325) -/

/-- The live mask of a home. -/
def liveMask (s : State) (h : Nat) : Nat := s.fget (Fld.MER_ROUTE_LIVE h)

/-- Whether a Star is routed (R324). -/
def State.routed (s : State) (h : Nat) : Bool := h == s.home || liveMask s h ≠ 0

/-- The link that traffic to a home takes, by ADDR[15:12] (R325). -/
def routeLink (s : State) (h addr : Nat) : Option Nat :=
  let ls := bitsSet 4 (liveMask s h)
  ls[addr / 4096 % 16 % ls.length]?

/-- A message joins a link's egress (R199, R204, R326). -/
def enqueueFrom (from_ : Option Nat) (l cls g : Nat) (deadline : Int) (m : MerMsg) (s : State) : State :=
  let q : MemReq := ⟨16 + l, classIn g cls, g, deadline, s.epoch, 16 * msgUnits m, false, .message l m from_⟩
  { s with fab := { s.fab with reqs := s.fab.reqs ++ [q] } }

/-- A message of this Star joins a link's egress. -/
def enqueueMsg (l cls g : Nat) (deadline : Int) (m : MerMsg) (s : State) : State := enqueueFrom none l cls g deadline m s

/-- A message with nothing filled in. -/
def blankMsg (s : State) (op : MerOp) : MerMsg :=
  { op, cls := 1, poison := false, srcHome := s.home, master := 0, tag := 0, addr := 0, deadline := 0, status := 0,
    enables := 0, data := [], frameEnd := false, user := 0, ctlKind := 0, ctl := [] }

/-- A remote block's message: the whole block read, written, or written under byte enables (R320). -/
def blockMsg (s : State) (op : MerOp) (cls m addr : Nat) (deadline : Int) (data : List Byte) (poison : Bool) : MerMsg :=
  let off := addr % 64
  { blankMsg s op with
    cls, poison, master := m, addr, deadline := (deadline / 1000 % 2 ^ 32).toNat
    enables := if op = .wrm then (2 ^ data.length - 1) * 2 ^ off else 0
    data := if op = .rd then [] else List.replicate off 0 ++ data ++ List.replicate (64 - off - data.length) 0 }

/-- The operation of a remote write: WRF for a whole block, else WRM. -/
def writeOp (addr n : Nat) : MerOp := if addr % 64 = 0 ∧ n = 64 then .wrf else .wrm

/-- A request to a remote Star is issued, with a tag that its completion returns (R320, R325). -/
def issueRemote (h : Nat) (m : MerMsg) (g : Nat) (deadline : Int) (op : ReqOp) (s : State) : State :=
  match routeLink s h m.addr with
  | none => s
  | some l =>
    let tag := s.mem.nextTag % 4096
    let s := { s with mem := { s.mem with nextTag := s.mem.nextTag + 1, remote := s.mem.remote ++ [⟨tag, h, l, op⟩] } }
    enqueueMsg l m.cls g deadline { m with tag } s

/-- A request to a remote Star whose answer the same command brings: its message is sent at once where its link can take it,
else it joins the egress (R325; DESIGN CHOICE, log entry 11). -/
def sendRemote (h : Nat) (m : MerMsg) (g : Nat) (deadline : Int) (s : State) : State :=
  match routeLink s h m.addr with
  | none => s
  | some l =>
    let m := { m with tag := s.mem.nextTag % 4096 }
    let s := { s with mem := { s.mem with nextTag := s.mem.nextTag + 1 } }
    if canSend s l m then sendMsg l m s else enqueueMsg l m.cls g deadline m s

/-- The home at the far end of a link. -/
def peerHomeOf (s : State) (l : Nat) : Nat := s.fget (Fld.MER_LINK_STATUS_PEER_HOME l)

end Sys2Proof.Machine
end

