-- ==== Sys2Proof/Machine/MemPath.lean ====
section
/-! DEFINITION. Device addresses and memory accesses: routing, checks, DRAM, Pantries, host windows, poison
(R36–R41, R278–R298, R578). -/
namespace Sys2Proof.Machine

/-! ## Where an address leads (R36–R41, R280, R290–R295) -/

/-- Where an access goes. -/
inductive Dest where
  | dram (a : Nat)
  | pantry (n off : Nat)
  /-- A host window: its number of HWIN, its function and the host bus address. -/
  | host (k fn addr a : Nat)
  | remote (home a : Nat)
  | lost (home : Nat)
  | unmapped (a : Nat)
  | fused (n : Nat)
  deriving DecidableEq, Repr

/-- The Striped window that an address lies in (R293). -/
def State.striped (s : State) (a : Nat) : Option Window :=
  (s.mem.wins.find? fun e => e.2.kind == 1 && decide (e.2.base ≤ a ∧ a < e.2.base + e.2.size)).map (·.2)

/-- The relocation that an address lies in (R293, R340). -/
def State.reloc (s : State) (a : Nat) : Option (Nat × Nat × Option Nat) :=
  s.mem.relocs.find? fun e => decide (e.1 ≤ a ∧ a < e.1 + e.2.1)

/-- The translation of R293: the device address that an address in a Striped window stands for. -/
def stripe (w : Window) (a : Nat) : Nat :=
  let off := a - w.base
  let ms := bitsSet 8 w.members
  let g := off / 4096
  ms.getD (g % ms.length) 0 * 2 ^ 37 + (w.slice + g / ms.length * 4096 + off % 4096)

/-- The lost Star that darkens a Striped window: its lowest member that is not routed (R294, R344). -/
def darkHome (s : State) (w : Window) : Nat :=
  ((bitsSet 8 w.members).find? fun h => !(s.routed h)).getD (w.base / 2 ^ 37)

/-- The host window that a Star-local address lies in (R295). -/
def State.hostWindow (s : State) (a : Nat) : Option Window :=
  (s.mem.wins.find? fun e => e.2.kind == 2 && decide (e.2.base % 2 ^ 37 ≤ a ∧ a < e.2.base % 2 ^ 37 + e.2.size)).map (·.2)

/-- Where a Star-local address leads (R37, R39, R281, R295). -/
def localDest (s : State) (a : Nat) : Dest :=
  if a < 0x400000000 then (if a < s.visibleDram then .dram a else .unmapped a)
  else if 0x1000000000 ≤ a ∧ a < 0x100C000000 then
    let n := (a - 0x1000000000) / 0x400000
    let off := (a - 0x1000000000) % 0x400000
    if 0x200000 ≤ off then .unmapped a
    else if ovenCount s.code ≤ n then .fused n
    else .pantry n off
  else if 0x1C00000000 ≤ a then
    match s.hostWindow a with
    | some w =>
      if s.fget (Fld.MEM_HWIN_CTRL_EN w.hwin) = 1 then
        .host w.hwin w.func (s.fget (Fld.MEM_HWIN_LO_HBASE w.hwin) * 4096 +
          s.fget (Fld.MEM_HWIN_HI_HBASE w.hwin) * 2 ^ 32 + (a - w.base % 2 ^ 37)) a
      else .unmapped a
    | none => .unmapped a
  else .unmapped a

/-- Where a device address leads, after Striped and relocated windows (R38, R41, R293, R294). -/
def destOf (s : State) (addr : Nat) : Dest :=
  let a := addr % 2 ^ 40
  let go (a : Nat) : Dest :=
    let h := a / 2 ^ 37
    if h = s.home then localDest s (a % 2 ^ 37) else if s.routed h then .remote h a else .lost h
  match s.striped a with
  | some w => if w.dark then .lost (darkHome s w) else go (stripe w a)
  | none =>
    match s.reloc a with
    | some (b, _, some n) => go (n + (a - b))
    | some (b, _, none) => .lost (b / 2 ^ 37)
    | none => go a

/-- The memory channel of a visible Star-local address (R280). -/
def channelOf (a : Nat) : Nat :=
  (a / 2 ^ 8 % 16) ^^^ (a / 2 ^ 12 % 16) ^^^ (a / 2 ^ 16 % 16) ^^^ (a / 2 ^ 20 % 16)

/-- The offset of a Star-local address in its channel, and the column, bank and row of an offset (R280). -/
def channelOffset (a : Nat) : Nat := a / 2 ^ 12 * 2 ^ 8 + a % 2 ^ 8
def columnOf (o : Nat) : Nat := o % 2 ^ 11
def bankOf (o : Nat) : Nat := (o / 2 ^ 11 % 16) ^^^ (o / 2 ^ 15 % 16)
def rowOf (c : OrderCode) (o : Nat) : Nat := o / 2 ^ 15 % (match c with | .u24 => 2 ^ 14 | _ => 2 ^ 15)

/-! ## Results -/

/-- Who makes an access: master ID, the flags of a fault record but WRITE (R536), and the class, group and deadline that its
accesses carry (R205). -/
structure Who where
  m : Nat
  remote : Bool
  job : Bool
  cls : Nat
  group : Nat
  deadline : Int
  /-- A service opportunity has chosen and charged the access already. -/
  paid : Bool
  deriving DecidableEq, Repr

/-- A master that belongs to no Bakery: Prompt, in the system group (R205, R536). -/
def Who.plain (m : Nat) : Who := ⟨m, false, false, 1, 16, 0, false⟩

/-- A context's accesses for a job of a class and group (R205, R536). -/
def Who.ofJob (ctx : Nat) : Who := ⟨ctx, false, true, 1, 16, 0, false⟩
def Who.forJob (j : Job) : Who :=
  ⟨j.ctx, false, true, j.cls, groupOf j.bakery, j.deadline.getD 0, false⟩

/-- A context's accesses to its rings: Prompt, in the group of its Bakery (R205 gives them no class: DESIGN CHOICE, log
entry 10). -/
def Who.ring (s : State) (c : Nat) : Who := { Who.ofJob c with group := groupOf (s.ctxBakery c) }

/-- What an access answers: its bytes and the poison marking of each, the first refusal's DETAIL (R366), the lowest lost
Star. -/
structure AccRes where
  data : List Byte
  marks : List Bool
  refused : Option Nat
  lost : Option Nat
  deriving DecidableEq, Repr

/-- Whether any byte of an answer carries poison marking. -/
def AccRes.poison (r : AccRes) : Bool := r.marks.any id

/-- An access with nothing wrong. -/
def AccRes.good (d : List Byte) : AccRes := ⟨d, d.map fun _ => false, none, none⟩

/-- Data read with poison marking or without. -/
def AccRes.read (d : List Byte) (p : Bool) : AccRes := ⟨d, d.map fun _ => p, none, none⟩

/-- A read of a lost Star: zeros with poison marking (R41). -/
def lostRes (n h : Nat) : AccRes := ⟨List.replicate n 0, List.replicate n true, none, some h⟩

/-- The end of an access in flight on a link or to a Star that is lost: zeros with poison marking, or a write that is treated
as poisoned (R344, R345). -/
def inFlightLost (n : Nat) (h : Option Nat) : AccRes := ⟨List.replicate n 0, true :: List.replicate (n - 1) true, none, h⟩

/-- The first of two refusals. -/
def firstOf (a b : Option Nat) : Option Nat := match a with | some x => some x | none => b

/-- The lower of two lost Stars. -/
def lowestOf (a b : Option Nat) : Option Nat :=
  match a, b with | some x, some y => some (min x y) | some x, none => some x | none, y => y

/-- The results of two parts of one access, in order. -/
def AccRes.append (a b : AccRes) : AccRes :=
  ⟨a.data ++ b.data, a.marks ++ b.marks, firstOf a.refused b.refused, lowestOf a.lost b.lost⟩

/-- `n` free bytes, and the state with them drawn (DESIGN CHOICE, log entry 4). -/
def freeBytes : Nat → State → List Byte × State
  | 0, s => ([], s)
  | n + 1, s =>
    let b := Config.freeByte s.freeCtr
    let (bs, s) := freeBytes n { s with freeCtr := s.freeCtr + 1 }
    (b :: bs, s)

/-- A refused write. -/
def refusedWrite (d : Nat) : AccRes := ⟨[], [], some d, none⟩

/-- A refused access: zeros. -/
def refusedRes (n d : Nat) : AccRes := ⟨List.replicate n 0, List.replicate n false, some d, none⟩

/-- An unmapped access is logged (R39). -/
def logUnmapped (w : Who) (write bar : Bool) (a : Nat) (s : State) : State :=
  logFault 2 (faultFlags write w.remote w.job bar false) w.m 0xFFFF 0 a s

/-- An access to a domain that is not ON is logged (R233, R287). -/
def logPower (w : Who) (write : Bool) (t d a : Nat) (s : State) : State :=
  logFault 3 (faultFlags write w.remote w.job false false) w.m t d a s

/-- A denied memory access (R377). -/
def denyMem (w : Who) (write : Bool) (t a : Nat) (s : State) : State :=
  denyAccess t w.m (faultFlags write w.remote w.job false false) a s

/-! ## DRAM (R282–R288, R298) -/

/-- Whether inline ECC is on (R281). -/
def State.inlineEcc (s : State) : Bool := s.fget Fld.MEM_CFG_INLINE_ECC = 1

/-- The bytes of a DRAM range. -/
def State.dramBytes (s : State) (a n : Nat) : List Byte := spRange 0 s.mem.dram a n

/-- The state with DRAM bytes written. -/
def State.putDram (a : Nat) (d : List Byte) (s : State) : State :=
  { s with mem := { s.mem with dram := spWriteAll 0 a d s.mem.dram } }

/-- The poison marking of a 64-byte block. -/
def State.poisoned (s : State) (blk : Nat) : Bool := spGet false s.mem.poison blk

/-- The state with a block's marking set. -/
def State.setPoison (blk : Nat) (p : Bool) (s : State) : State :=
  { s with mem := { s.mem with poison := spSet false blk p s.mem.poison } }

/-- An uncorrectable error: MEM_UE counts, and the fault log records it (R282, R283; DEDUCED, log entry 40). -/
def memUe (w : Who) (write : Bool) (c link a : Nat) (s : State) : State :=
  logFault 6 (faultFlags write w.remote w.job false false) w.m c link a (s.fadd (Fld.MEM_UE_COUNT c) 1)

/-- The code block that holds the code of an address (R281). -/
def codeBlock (a : Nat) : Nat := channelOffset a / 2 ^ 11

/-- Units charged for an access within one block of DRAM (R284). -/
def dramUnits (s : State) (a n : Nat) (write : Bool) : Nat :=
  if s.inlineEcc then
    (if write && decide (n < 64) then 2 else 1) +
      (if (spGet [] s.mem.codeCache (channelOf a)).contains (codeBlock a) then 0 else 1)
  else 1

/-- The metadata cache after an access: 64 code blocks, the latest first (R284; DEDUCED, log entry 18). -/
def touchCode (a : Nat) (s : State) : State :=
  if s.inlineEcc then
    let b := codeBlock a
    let l := (b :: (spGet [] s.mem.codeCache (channelOf a)).filter fun x => x != b).take 64
    { s with mem := { s.mem with codeCache := spSet [] (channelOf a) l s.mem.codeCache } }
  else s

/-- A channel serves an access: it leaves power-down, and its idle time starts again (R286). -/
def wakeChannel (c : Nat) (s : State) : State :=
  { s with mem := { s.mem with pdown := s.mem.pdown.filter fun k => k != c, lastUse := spSet 0 c s.mono s.mem.lastUse } }

/-- A target serves an access that no queued request stood for: it takes the opportunity as the one request there, and is
charged (R204–R207; DESIGN CHOICE, log entry 10). -/
def takeService (w : Who) (t units : Nat) (s : State) : State :=
  if w.paid then s
  else charge t (choose s t [⟨0, classIn w.group w.cls, w.group, w.deadline, 0, units, units * unitBytes t, false⟩]) s

/-- A channel serves an access within one block (R204, R284, R286). -/
def dramService (w : Who) (a n : Nat) (write : Bool) (s : State) : State :=
  wakeChannel (channelOf a) (touchCode a (takeService w (channelOf a) (dramUnits s a n write) s))

/-- The external port of a Pantry serves an access (R204). -/
def pantryService (w : Who) (k off n : Nat) (s : State) : State := takeService w (32 + k) ((off % 32 + n + 31) / 32) s

/-- The error that detection reports on the first of the blocks accessed. -/
def errOf (errs : List MemErr) : MemErr := errs.headD .none

/-- A read of bytes within one 64-byte block of a channel that is ON (R282, R283). -/
def dramRead (w : Who) (a n : Nat) (err : MemErr) (s : State) : AccRes × State :=
  let c := channelOf a
  let d := s.dramBytes a n
  let p := s.inlineEcc && s.poisoned (a / 64)
  match err with
  | .corrected => if s.inlineEcc then (AccRes.read d p, s.fadd (Fld.MEM_CE_COUNT c) 1) else (AccRes.read d p, s)
  | .uncorrectable =>
    if s.inlineEcc then
      let (fb, s) := freeBytes n s
      (AccRes.read fb true, memUe w false c 0 a s)
    else (AccRes.read d p, s)
  | .linkCorrected => (AccRes.read d p, s.fadd (Fld.MEM_LINKCE_COUNT c) 1)
  | .linkFailed =>
    let (fb, s) := freeBytes n s
    (AccRes.read fb true, memUe w false c 1 a s)
  | _ => (AccRes.read d p, s)

/-- The marking of a block after a write: a whole block takes the write's; a part keeps the block's or adds the
write's. Without inline ECC the marking is dropped, counted and logged (R282, R298). -/
def dramMark (w : Who) (a n : Nat) (p : Bool) (s : State) : State :=
  if s.inlineEcc then s.setPoison (a / 64) (p || (decide (n < 64) && s.poisoned (a / 64)))
  else if p then
    logFault 7 (faultFlags true w.remote w.job false false) w.m 0 0 a (s.fadd Fld.MEM_POISON_DROP_COUNT 1)
  else s

/-- A write of bytes within one 64-byte block of a channel that is ON. An uncorrectable error in the read of a merge leaves
the bytes not written as they were read, which the spec does not give: free (R282, R283, R298). -/
def dramWrite (w : Who) (a : Nat) (d : List Byte) (p : Bool) (err : MemErr) (s : State) : State :=
  let c := channelOf a
  let part := decide (d.length < 64)
  match err with
  | .corrected =>
    let s := dramMark w a d.length p (s.putDram a d)
    if s.inlineEcc && part then s.fadd (Fld.MEM_CE_COUNT c) 1 else s
  | .uncorrectable =>
    if s.inlineEcc && part then
      let (fb, s) := freeBytes 64 s
      (memUe w true c 0 a ((s.putDram (a / 64 * 64) fb).putDram a d)).setPoison (a / 64) true
    else dramMark w a d.length p (s.putDram a d)
  | .linkCorrected => dramMark w a d.length p ((s.fadd (Fld.MEM_LINKCE_COUNT c) 1).putDram a d)
  | .linkFailed =>
    let s := memUe w true c 1 a s
    if s.inlineEcc then (dramMark w a d.length p (s.putDram a d)).setPoison (a / 64) true
    else
      let (fb, s) := freeBytes 64 s
      s.putDram (a / 64 * 64) fb
  | _ => dramMark w a d.length p (s.putDram a d)

/-- Whether a Set of this Star holds writes to a DRAM address: it copies the window there (R340, DEDUCED, log entry 16). -/
def State.holds (s : State) (a : Nat) : Bool :=
  match s.mem.holding with
  | some (b, n) => decide (b % 2 ^ 37 ≤ a ∧ a < b % 2 ^ 37 + n)
  | none => false

/-! ## Pantries (R231, R233) -/

/-- The key of a Pantry byte. -/
def pantryKey (n off : Nat) : Nat := n * 0x200000 + off % 0x200000

/-- Bytes of a Pantry from an offset, taken modulo 2 MiB (R231). -/
def State.pantryBytes (s : State) (n off : Nat) : Nat → List Byte
  | 0 => []
  | k + 1 => spGet 0 s.mem.pantry (pantryKey n off) :: s.pantryBytes n (off + 1) k

/-- The state with Pantry bytes written from an offset, modulo 2 MiB. -/
def State.putPantry (n : Nat) : Nat → List Byte → State → State
  | _, [], s => s
  | off, b :: bs, s => State.putPantry n (off + 1) bs
      { s with mem := { s.mem with pantry := spSet 0 (pantryKey n off) b s.mem.pantry } }

/-! ## Host windows and remote Stars (R295–R297, R331) -/

/-- The port of a host window's function (R290, R295). -/
def State.winPort (s : State) (fn : Nat) : PPort :=
  if fn = 32 then (match s.primaryPort with | .a => .b | .b => .a) else s.primaryPort

/-- A failed host read is logged with its kind (R297, R535). -/
def logHostRead (w : Who) (p : PPort) (kind a : Nat) (s : State) : State :=
  logFault 8 (faultFlags false w.remote w.job false false) w.m (portNum p) kind a s

/-- DETAIL of a failed host read (R535); 0 when it succeeded. -/
def hostFail : ExtStatus → Nat
  | .ok => 0
  | .unsupported => 1
  | .abort => 2
  | .poisoned => 3
  | .timeout => 4
  | _ => 1

/-- A host-window read whose answer the same command brings: its TLP goes out with a tag, and data, or zero with poison
marking, comes back (R295, R297, R450; DESIGN CHOICE, log entry 11). -/
def hostResult (w : Who) (p : PPort) (fn addr a n : Nat) (e : ExtReply) (s : State) : AccRes × State :=
  if !(s.portUp p) then (AccRes.read (List.replicate n 0) true, logHostRead w p 5 a s)
  else
    let s := State.out (.hostRead p fn addr n s.mem.nextTag) { s with mem := { s.mem with nextTag := s.mem.nextTag + 1 } }
    if e.status = .ok then (AccRes.good ((e.data ++ List.replicate n 0).take n), s)
    else (AccRes.read (List.replicate n 0) true, logHostRead w p (hostFail e.status) a s)

/-- The AWT target number that an address names on its home Star, for DETAIL of a remote denial (R366, DEDUCED, log entry 15). -/
def remoteTarget (a : Nat) : Nat :=
  let l := a % 2 ^ 37
  if l < 0x400000000 then 0
  else if 0x1C00000000 ≤ l then 1
  else if 0x1000000000 ≤ l ∧ l < 0x100C000000 then 2 + (l - 0x1000000000) / 0x400000
  else 0xFFFF

/-- The result of a remote read from its answer (R330, R331). -/
def remoteResult (h a n : Nat) (e : ExtReply) : AccRes :=
  match e.status with
  | .ok => AccRes.good ((e.data ++ List.replicate n 0).take n)
  | .denied => refusedRes n (remoteTarget a)
  | .lost => lostRes n h
  | _ => AccRes.read ((e.data ++ List.replicate n 0).take n) true

/-- A posted write through a host window, or its loss while the port is down (R295, R450). -/
def hostSend (w : Who) (k fn addr a : Nat) (d : List Byte) (p : Bool) (s : State) : State :=
  let port := s.winPort fn
  if s.portUp port then s.out (.hostWrite port fn addr d p)
  else if s.pcie.lostLogged.contains k then s
  else logFault 9 (faultFlags true w.remote w.job false false) w.m (portNum port) k a
    { s with pcie := { s.pcie with lostLogged := k :: s.pcie.lostLogged } }

/-! ## One piece of an access, and whole accesses (R578) -/

/-- A write is held by this Star's Set: what waits for it is `op` (R340). -/
def holdWrite (a : Nat) (d : List Byte) (p : Bool) (op : ReqOp) (s : State) : State :=
  { s with mem := { s.mem with held := s.mem.held ++ [⟨a, d, p, op⟩] } }

/-- A read of `n` bytes within one block: 64 B, or 32 B of a Pantry. One of a remote Star sends its RD (R325). -/
def readPiece (w : Who) (addr n : Nat) (errs : List MemErr) (e : ExtReply) (s : State) : AccRes × State :=
  match destOf s addr with
  | .fused k => (refusedRes n (2 + k), s)
  | .unmapped a => (refusedRes n 0xFFFF, logUnmapped w false false a s)
  | .lost h => (lostRes n h, s)
  | .remote h a =>
    (remoteResult h a n e, sendRemote h (blockMsg s .rd (classIn w.group w.cls) w.m a w.deadline [] false) w.group w.deadline s)
  | .dram a =>
    if !(s.permits 0 w.m false a n) then (refusedRes n 0, denyMem w false 0 a s)
    else if !(s.on (133 + channelOf a)) then (refusedRes n 0, logPower w false 0 (133 + channelOf a) a s)
    else dramRead w a n (errOf errs) (dramService w a n false s)
  | .pantry k off =>
    if !(s.permits (2 + k) w.m false off n) then (refusedRes n (2 + k), denyMem w false (2 + k) off s)
    else if !(s.on (48 + k)) then (refusedRes n (2 + k), logPower w false (2 + k) (48 + k) off s)
    else (AccRes.good (s.pantryBytes k off n), pantryService w k off n s)
  | .host _ fn ha a =>
    if !(s.permits 1 w.m false a n) then (refusedRes n 1, denyMem w false 1 a s)
    else hostResult w (s.winPort fn) fn ha a n e s

/-- A write of bytes within one block. One of a remote Star sends its WRF or WRM, with its marking (R298, R325). -/
def writePiece (w : Who) (addr : Nat) (d : List Byte) (p : Bool) (errs : List MemErr) (e : ExtReply) (s : State) :
    AccRes × State :=
  match destOf s addr with
  | .fused k => (refusedWrite (2 + k), s)
  | .unmapped a => (refusedWrite 0xFFFF, logUnmapped w true false a s)
  | .lost h => (⟨[], [], none, some h⟩, s)
  | .remote h a =>
    (⟨[], [], if e.status = .denied then some (remoteTarget a) else none, if e.status = .lost then some h else none⟩,
      sendRemote h (blockMsg s (writeOp a d.length) (classIn w.group w.cls) w.m a w.deadline d p) w.group w.deadline s)
  | .dram a =>
    if !(s.permits 0 w.m true a d.length) then (refusedWrite 0, denyMem w true 0 a s)
    else if !(s.on (133 + channelOf a)) then (refusedWrite 0, logPower w true 0 (133 + channelOf a) a s)
    else if s.holds a then (AccRes.good [], holdWrite a d p (.posted w.m) s)
    else (AccRes.good [], dramWrite w a d p (errOf errs) (dramService w a d.length true s))
  | .pantry k off =>
    if !(s.permits (2 + k) w.m true off d.length) then (refusedWrite (2 + k), denyMem w true (2 + k) off s)
    else if !(s.on (48 + k)) then (refusedWrite (2 + k), logPower w true (2 + k) (48 + k) off s)
    else
      let s := (pantryService w k off d.length s).putPantry k off d
      (AccRes.good [], if p then
        logFault 7 (faultFlags true w.remote w.job false false) w.m (2 + k) 0 off (s.fadd Fld.MEM_POISON_DROP_COUNT 1)
        else s)
  | .host k fn addr a =>
    if !(s.permits 1 w.m true a d.length) then (refusedWrite 1, denyMem w true 1 a s)
    else (AccRes.good [], hostSend w k fn addr a d p s)

/-- Bytes from an address to the end of its 64-byte block (R553). -/
def blockLen (addr n : Nat) : Nat := min n (64 - addr % 64)

/-- The 64-byte blocks of a range. -/
def blockCount (addr n : Nat) : Nat := if n = 0 then 0 else (addr % 64 + n + 63) / 64

/-- Bytes from an address to the end of its target's service unit: 32 B in the Pantry range, 64 B elsewhere (R204; DEDUCED, log entry 11). -/
def pieceLen (addr n : Nat) : Nat :=
  let a := addr % 2 ^ 37
  let g := if 0x1000000000 ≤ a ∧ a < 0x100C000000 then 32 else 64
  min n (g - addr % g)

/-- Whether the answer of an access comes from outside the Star. -/
def isExternal (s : State) (addr : Nat) : Bool :=
  match destOf s addr with
  | .remote _ _ => true
  | .host _ _ _ _ => true
  | _ => false

/-- A read of any length, block by block; `fuel` bounds the blocks. -/
def readLoop (w : Who) : Nat → Nat → Nat → List MemErr → ExtReply → State → AccRes × State
  | 0, _, _, _, _, s => (AccRes.good [], s)
  | fuel + 1, addr, n, errs, e, s =>
    if n = 0 then (AccRes.good [], s)
    else
      let k := blockLen addr n
      let ext := isExternal s addr
      let (r, s) := readPiece w addr k errs e s
      let (r', s) := readLoop w fuel (addr + k) (n - k) errs.tail (if ext then { e with data := e.data.drop k } else e) s
      (r.append r', s)

/-- A read of `n` bytes at a device address. -/
def readBytes (w : Who) (addr n : Nat) (errs : List MemErr) (e : ExtReply) (s : State) : AccRes × State :=
  readLoop w (n + 1) addr n errs e s

/-- A write of any length, block by block, each with the marking of its own bytes (R298). -/
def writeLoop (w : Who) : Nat → Nat → List Byte → List Bool → List MemErr → ExtReply → State → AccRes × State
  | 0, _, _, _, _, _, s => (AccRes.good [], s)
  | fuel + 1, addr, d, marks, errs, e, s =>
    if d.isEmpty then (AccRes.good [], s)
    else
      let k := blockLen addr d.length
      let (r, s) := writePiece w addr (d.take k) ((marks.take k).any id) errs e s
      let (r', s) := writeLoop w fuel (addr + k) (d.drop k) (marks.drop k) errs.tail e s
      (r.append r', s)

/-- A write of bytes at a device address, with the poison marking of each. -/
def writeMarked (w : Who) (addr : Nat) (d : List Byte) (marks : List Bool) (errs : List MemErr) (e : ExtReply) (s : State) :
    AccRes × State :=
  writeLoop w (d.length + 1) addr d marks errs e s

/-- A write of bytes at a device address, all with poison marking or without. -/
def writeBytes (w : Who) (addr : Nat) (d : List Byte) (p : Bool) (errs : List MemErr) (e : ExtReply) (s : State) :
    AccRes × State :=
  writeMarked w addr d (d.map fun _ => p) errs e s

end Sys2Proof.Machine
end

