-- ==== Sys2Proof/Machine/Racks.lean ====
section
/-! DEFINITION. Racks: routes, credits, pushes and pops (R188–R198). -/
namespace Sys2Proof.Machine

/-- The rows a Rack's route crosses (R194, R195). -/
def rackRows (r : Rack) : List Nat :=
  match r.prod, r.cons with
  | some (p, _), some (c, _) =>
    let lo := min (p / 8) (c / 8)
    (List.range (max (p / 8) (c / 8) + 1 - lo)).map (· + lo)
  | some (p, _), none => [p / 8]
  | none, some (c, _) => [c / 8]
  | none, none => []

/-- Whether a Rack can move slots (R195). -/
def rackPowered (s : State) (r : Rack) : Bool := (rackRows r).all fun k => s.on (96 + k)

/-- Whether a Rack joins two Stars (R196). -/
def rackRemote (r : Rack) : Bool := r.prod.isNone || r.cons.isNone

/-- The state with a Rack replaced. -/
def State.setRack (k : Nat) (r : Rack) (s : State) : State :=
  { s with fab := { s.fab with racks := spPut k r s.fab.racks } }

/-- The Rack of an Oven's output port and SUB. -/
def State.outRack (s : State) (n port sub : Nat) : Option (Nat × Rack) :=
  s.fab.racks.find? fun e => e.2.prod == some (n, port, sub)

/-- The Rack of an Oven's input port and SUB. -/
def State.inRack (s : State) (n port sub : Nat) : Option (Nat × Rack) :=
  s.fab.racks.find? fun e => e.2.cons == some (n, port, sub)

/-- The SLOT message of a slot (R320). -/
def slotMsg (s : State) (r : Rack) (x : RSlot) : MerMsg :=
  { blankMsg s .slot with
    cls := r.cls, poison := x.poison, addr := r.remoteRack, data := x.data, frameEnd := x.frameEnd, user := x.user }

/-- A push by the producer (R190, R197, R198): `none` while it must wait. A cross-link slot goes to the link's egress,
with the deadline of the job whose pass pushes it (DEDUCED, log entry 13). -/
def pushSlot (k : Nat) (r : Rack) (x : RSlot) (deadline : Int) (s : State) : Option State :=
  if r.discarding then some s
  else if r.credits = 0 || !(rackPowered s r) then none
  else
    let s := slotMoved r.bakery s
    if r.cons.isSome then some (s.setRack k { r with credits := r.credits - 1, slots := r.slots ++ [x] })
    else some (State.setRack k { r with credits := r.credits - 1 }
      (enqueueMsg r.link r.cls r.bakery deadline (slotMsg s r x) s))

/-- A pop by the consumer (R190, R193): `none` while it must wait. The credit returns to the producer, across the link
when the producer is remote (R196, R319); a preloaded slot of a cross-link Rack used none (R198; DEDUCED, log entry 14). -/
def popSlot (k : Nat) (r : Rack) (s : State) : Option (RSlot × State) :=
  match r.slots with
  | [] => none
  | x :: xs =>
    if !(rackPowered s r) then none
    else
      let s := slotMoved r.bakery s
      let s := if x.frameEnd then s.fadd (Fld.FAB_RACKFRM_FRAMES k) 1 else s
      if r.prod.isSome then some (x, s.setRack k { r with credits := r.credits + 1, slots := xs })
      else
        let s := s.setRack k { r with slots := xs, pre := r.pre - 1 }
        some (x, if r.pre = 0 then returnCredits r.link 0 0 0 [(r.remoteRack, 1)] s else s)

/-- Slots that arrived while their Rack could not move enter it once it can (R195). -/
def landSlots (s : State) : State :=
  s.fab.racks.foldl (fun s e =>
    if e.2.landed.isEmpty || !(rackPowered s e.2) then s
    else slotMoved e.2.bakery (s.setRack e.1 { e.2 with slots := e.2.slots ++ e.2.landed, landed := [] })) s

/-- A Rack emptied, with its preloaded slots and credits (R190, R191): on die at once; across a link only a connection
fills it, with credits to its effective depth (R197, R198; DEDUCED, log entry 14). -/
def rackRefill (r : Rack) : Rack :=
  if rackRemote r then
    let n := if r.connected && r.cons.isSome then min r.preload r.effDepth else 0
    { r with slots := List.replicate n RSlot.zero, landed := [], pre := n
             credits := if r.connected && r.prod.isSome then r.effDepth else 0 }
  else { r with slots := List.replicate r.preload RSlot.zero, credits := r.depth - r.preload }

/-- RACK_CR entries for `n` slots of a Rack, at most 63 each (R319). -/
def slotEntries (rack n : Nat) : List (Nat × Nat) :=
  List.replicate (n / 63) (rack, 63) ++ if n % 63 = 0 then [] else [(rack, n % 63)]

/-- The credits of `n` slots returned over a link, in flits of 8 entries (R196, R319). -/
def returnSlots (l rack : Nat) : Nat → Nat → State → State
  | 0, _, s => s
  | fuel + 1, n, s =>
    if n = 0 then s
    else returnSlots l rack fuel (n - 504) (returnCredits l 0 0 0 (slotEntries rack (min n 504)) s)

/-- A Rack loses its contents, and becomes `r`: the producer's credits of the slots that a cross-link Rack's consumer held go
back; its preloaded slots used none (R190, R196, R198; DEDUCED, log entry 14). -/
def emptyRack (k : Nat) (old r : Rack) (s : State) : State :=
  let n := old.slots.length - old.pre + old.landed.length
  let s := if old.prod.isNone && old.connected then returnSlots old.link old.remoteRack n n s else s
  s.setRack k r

/-- The Racks of a Bakery emptied and refilled (R121, R170, R203). -/
def refillRacks (b : Nat) (s : State) : State :=
  s.fab.racks.foldl (fun s e => if e.2.bakery = b then emptyRack e.1 e.2 (rackRefill e.2) s else s) s

/-- OCC of FAB_RACKSTAT (R218). -/
def rackOcc (r : Rack) : Nat := if r.cons.isSome then r.slots.length else if r.connected then r.effDepth - r.credits else 0

/-- FAB_RACKSTAT (R218). -/
def rackStat (s : State) (k : Nat) : Word :=
  match s.rack? k with
  | none => 0
  | some r => BitVec.ofNat 32 ((if r.everConnected then r.effDepth else r.depth) + 2 ^ 10 * rackOcc r +
      (if rackRemote r then 2 ^ 29 else 0) + (if r.connected then 2 ^ 30 else 0) + 2 ^ 31)

end Sys2Proof.Machine
end

