-- ==== Sys2Proof/Machine/StreamOps.lean ====
section
/-! DEFINITION. What the rest of the machine does to a Stream Channel: events, inputs, event sequence (R387, R389). -/
namespace Sys2Proof.Machine

/-- A channel in use (R384). -/
def State.chan? (s : State) (k : Nat) : Option SChan := s.str.chans.lookup k

/-- The state with a channel changed. -/
def onChan (k : Nat) (g : SChan → SChan) (s : State) : State :=
  { s with str := { s.str with chans := s.str.chans.map fun e => if e.1 = k then (e.1, g e.2) else e } }

/-- A channel's instance changed, while it runs. -/
def onChanInst (k : Nat) (g : TInst → TInst) (s : State) : State :=
  onChan k (fun c => if c.st = 2 then { c with inst := c.inst.map g } else c) s

/-- An event reaches a channel's instance; none does unless the channel is RUNNING (R385, R389). -/
def raiseStr (k e : Nat) (s : State) : State := onChanInst k (TInst.arrive e) s

/-- STR_EVT_SEQ of a channel advances, on vector 8 + s (R409). -/
def strEvent (k : Nat) (s : State) : State := advanceSeq (Fld.STR_EVT_SEQ_SEQ k) (8 + k) s

/-- The event and the input that a new SEQ of a mailbox gives the channels that watch it (R389). -/
def mailboxNews (m : Nat) (s : State) : State :=
  s.str.chans.foldl (fun s e => if e.2.cfg.watchEn && e.2.cfg.watchMbx == m then raiseStr e.1 6 s else s) s

/-! ## Triggers (R385–R388) -/

/-- A dropped, replaced or ignored trigger counts (R387). -/
def dropTrigger (k : Nat) (s : State) : State := s.fsat (Fld.STR_DROPS_DROPS k) 

/-- Whether TRIG is pending in a channel's instance. -/
def trigPending (c : SChan) : Bool := match c.inst with | some i => i.events.testBit 0 | none => false

/-- A trigger is delivered: TRIG, the inputs, and the busy period; one that finds TRIG pending counts as replaced (R387). -/
def deliver (k : Nat) (x : Trigger) (s : State) : State :=
  match s.chan? k with
  | none => s
  | some c =>
    let s := if trigPending c then dropTrigger k s else s
    raiseStr k 0 (onChan k (fun c => { c with busy := true, trig := x }) s)

/-- A trigger that finds the channel busy is handled by POLICY (R387). -/
def queueTrigger (k : Nat) (c : SChan) (x : Trigger) (s : State) : State :=
  match c.cfg.policy with
  | 0 =>
    if c.queue.length < c.cfg.depth then (onChan k (fun c => { c with queue := c.queue ++ [x] }) s)
    else dropTrigger k s
  | 1 =>
    let s := if c.queue.isEmpty then s else dropTrigger k s
    (onChan k (fun c => { c with queue := [x] }) s)
  | _ => dropTrigger k s

/-- A trigger arrives (R385–R387, R403). One that finds the channel busy is judged at the end of its Crust cycle, after any
READY of that cycle (R388). -/
def arriveTrigger (k : Nat) (arg : Word) (s : State) : State :=
  match s.chan? k with
  | none => s
  | some c =>
    let x : Trigger := ⟨arg, s.epoch⟩
    let s := if c.st = 1 then s else onChan k (fun c => { c with fed := true }) s
    if c.st = 3 then dropTrigger k s
    else if c.st = 2 then
      (if c.busy then onChan k (fun c => { c with came := c.came ++ [x] }) s
       else deliver k x (onChan k (fun c => { c with busyAt := some s.mono }) s))
    else s

/-- The end of a Crust cycle for a trigger that found its channel busy (R387, R388). -/
def judgeTrigger (k : Nat) (x : Trigger) (s : State) : State :=
  match s.chan? k with
  | none => s
  | some c =>
    if c.st = 3 then dropTrigger k s
    else if c.st = 2 then (if c.busy then queueTrigger k c x s else deliver k x s)
    else s

/-- The end of a Crust cycle for the triggers that have come in it (R388). -/
def judgeTriggers (s : State) : State :=
  s.str.chans.foldl (fun s e =>
    e.2.came.foldl (fun s x => judgeTrigger e.1 x s) (if e.2.came.isEmpty then s else onChan e.1 (fun c => { c with came := [] }) s)) s

/-- READY ends the busy period, and the oldest queued or pending trigger is delivered. READY of the Crust cycle in which an
arriving trigger made the channel busy comes before it, and ends nothing (R387, R388). -/
def readyChan (k : Nat) (s : State) : State :=
  match s.chan? k with
  | none => s
  | some c =>
    if c.busyAt = some s.mono then s
    else match c.queue with
    | [] => onChan k (fun c => { c with busy := false }) s
    | x :: xs => deliver k x (onChan k (fun c => { c with busy := false, queue := xs }) s)

end Sys2Proof.Machine
end

