-- ==== Sys2Proof/Machine/Jobs.lean ====
section
/-! DEFINITION. Contexts, submission and completion rings, descriptors, admission, outcomes, records, mailboxes and
context vectors (R209–R217, R240, R241, R348–R374). -/
namespace Sys2Proof.Machine

/-- A Stream Channel's accesses: Frame, in the group of its Bakery (R205); the spec gives them no deadline,
and the model takes the present (DESIGN CHOICE, log entry 10). -/
def Who.stream (s : State) (k : Nat) : Who :=
  let b := match s.chan? k with | some c => s.ctxBakery c.cfg.context | none => none
  { Who.plain (0x400 + k) with cls := 0, group := groupOf b, deadline := s.epoch }

/-! ## Jobs -/

/-- A job by its number. -/
def State.job? (s : State) (id : Nat) : Option Job := s.ctx.jobs.find? fun j => j.id == id

/-- The state with a job changed. -/
def onJob (id : Nat) (g : Job → Job) (s : State) : State :=
  { s with ctx := { s.ctx with jobs := s.ctx.jobs.map fun j => if j.id = id then g j else j } }

/-- The state with every job changed. -/
def onJobs (g : Job → Job) (s : State) : State := { s with ctx := { s.ctx with jobs := s.ctx.jobs.map g } }

/-- The state with a job gone: its reservations with it (R214). -/
def dropJob (id : Nat) (s : State) : State :=
  { s with ctx := { s.ctx with jobs := s.ctx.jobs.filter fun j => j.id != id } }

/-- What an access tells its job: its first refusal, the lowest lost Star (R241, R366). -/
def noteAccess (id : Nat) (r : AccRes) (s : State) : State :=
  onJob id (fun j => { j with refused := firstOf j.refused r.refused, lost := lowestOf j.lost r.lost }) s

/-- The lateness of DONE_LATE in µs, rounded up, saturating (R366). -/
def lateness (tDone : Nat) (d : Int) : Nat := min (((tDone : Int) - d + 999) / 1000).toNat 0xFFFFFFFF

/-- The deadline outcome (R217, R364, R400, R401). -/
def deadlineOutcome (j : Job) : Nat × Nat :=
  match j.deadline with
  | none => (0, 0)
  | some d =>
    if j.abandoned then (4, 0)
    else if j.stream.isSome then (if j.missed then (1, lateness j.tDone d) else (0, 0))
    else if d < (j.tDone : Int) then (1, lateness j.tDone d) else (0, 0)

/-- OUTCOME and DETAIL of a job, in the order of R241 and R308 (R366). -/
def jobOutcome (j : Job) : Nat × Nat :=
  match j.forced with
  | some o => o
  | none =>
    match j.lost with
    | some h => (5, h)
    | none =>
      match j.refused with
      | some d => (3, d)
      | none => if j.poisoned then (6, 0) else if j.unordered then (8, 0) else deadlineOutcome j

/-- Whether a job ran: it was neither refused nor cancelled without running (R371). -/
def jobRan (j : Job) : Bool := j.forced.isNone

/-- A Stream Channel's record of a job changed. -/
def onSJob (k id : Nat) (g : SJob → SJob) (s : State) : State :=
  onChan k (fun c => { c with jobs := c.jobs.map fun x => if x.id = id then g x else x }) s

/-- What a completed job tells its channel: finished and presentable, or failed, as its outcome now stands (R399, R400). -/
def tellChannel (j : Job) (s : State) : State :=
  match j.stream with
  | none => s
  | some k =>
    let bad := match (jobOutcome j).1 with | 0 => false | 1 => false | 4 => false | _ => true
    onSJob k j.id (fun x => { x with finished := !bad, failed := bad, pass := j.pass, done := j.tDone }) s

/-- The channels that a copy's completion triggers, whatever its outcome (R386). -/
def copyTriggers (j : Job) (s : State) : State :=
  s.str.chans.foldl (fun s e =>
    if e.2.cfg.trigSrc == 3 && e.2.cfg.trigCtx == j.ctx then arriveTrigger e.1 (BitVec.ofNat 32 j.userTag) s else s) s

/-- A job completes (R241, R309): T_DONE, and its mailbox write or its record falls due, behind those of jobs completed
before it (R359, R362). -/
def completeJob (id : Nat) (s : State) : State :=
  match s.job? id with
  | none => s
  | some j =>
    let j := { j with tDone := s.epoch, phase := if j.mbxEn && j.copy.isNone && jobRan j then .mbxDue else .recordDue }
    let s := dropJob id s
    let s := tellChannel j { s with ctx := { s.ctx with jobs := s.ctx.jobs ++ [j] } }
    if j.copy.isSome then copyTriggers j s else s

/-! ## Rings (R351–R353) -/

/-- Base and size of a context's rings. -/
def sqBase (s : State) (c : Nat) : Nat := s.fget (Fld.CTX_SQ_BASE_LO_ADDR c) * 64 + s.fget (Fld.CTX_SQ_BASE_HI_ADDR c) * 2 ^ 32
def cqBase (s : State) (c : Nat) : Nat := s.fget (Fld.CTX_CQ_BASE_LO_ADDR c) * 32 + s.fget (Fld.CTX_CQ_BASE_HI_ADDR c) * 2 ^ 32
def sqSize (s : State) (c : Nat) : Nat := 2 ^ s.fget (Fld.CTX_CFG_SQ_LOG2 c)
def cqSize (s : State) (c : Nat) : Nat := 2 ^ s.fget (Fld.CTX_CFG_CQ_LOG2 c)

/-- CTX_STATUS.STATE: 0 DISABLED, 1 ENABLED, 2 DRAINING, 3 FAULTED (R352). -/
def ctxState (s : State) (c : Nat) : Nat := s.fget (Fld.CTX_STATUS_STATE c)

/-- Jobs of a context not yet recorded (R381). -/
def ctxJobs (s : State) (c : Nat) : List Job := s.ctx.jobs.filter fun j => j.ctx == c

/-- Whether a context's completion ring is full (R359). -/
def cqFull (s : State) (c : Nat) : Bool :=
  (s.fget (Fld.CTX_CQ_PTR_TAIL c) + 1) % cqSize s c == s.fget (Fld.CTX_CQ_PTR_HEAD c) % cqSize s c

/-- A ring access failed: the context is FAULTED, it fetches nothing more, and one RING record is made (R356). -/
def ringFault (c write addr : Nat) (s : State) : State :=
  let s := s.fset (Fld.CTX_STATUS_STATE c) 3
  let s := { s with ctx := { s.ctx with fetchQ := s.ctx.fetchQ.filter fun e => e.ctx != c } }
  logFault 10 (faultFlags (write == 1) false true false false) c c write addr s

/-! ## Admission (R209–R215, R240, R299, R357) -/

/-- The domains that a Bakery's jobs need (R158, R159). -/
def bakeryDomains (s : State) (b : Nat) : List Nat :=
  ((s.bakery b).ovens.flatMap fun n => [n, 48 + n, 96 + n / 8]) ++
    (s.fab.racks.filter fun e => e.2.bakery == b).flatMap fun e => (rackRows e.2).map (96 + ·)

/-- Whether a domain is asked to leave ON (R159). -/
def leaving (s : State) (d : Nat) : Bool :=
  (s.pwr.pend ++ s.pwr.moving).any fun e => e.1 == d && e.2 != .on

/-- Whether a Bakery's jobs may be admitted: its domains are ON, and none is asked to leave (R158, R159). -/
def bakeryReady (s : State) (b : Nat) : Bool := (bakeryDomains s b).all fun d => s.on d && !(leaving s d)

/-- The copies that a Slicer holds (R299). -/
def slicerJobs (s : State) (k : Nat) : List Job :=
  s.ctx.jobs.filter fun j => j.admitted &&
    (match j.copy with | some d => d.slicer == k | none => false)

/-- The amounts of a profile of a Bakery; one it does not define is profile 0 (R211). -/
def profileOf (s : State) (b : Option Nat) (p : Nat) : List (Nat × Nat) :=
  match b with
  | none => []
  | some b => ((s.bakery b).profiles.lookup p).getD []

/-- The first target that refuses a Frame job (R213). -/
def refusing (s : State) (amounts : List (Nat × Nat)) : Option Nat :=
  (List.range 80).find? fun t =>
    let a := amountAt amounts t
    decide (a ≠ 0) && (decide (224 < reservedTotal s t + a) || cap15 s t == 0)

/-- The Epoch time in ns that a DEADLINE stands for (R364). -/
def resolveUs (s : State) (d : Nat) : Int :=
  let now : Int := s.nowUs
  let t := now + (((d : Int) - now) % 2 ^ 32)
  (if now + 2 ^ 31 < t then t - 2 ^ 32 else t) * 1000

/-- What admission says of a job. -/
inductive Verdict where
  | wait
  | force (outcome detail : Nat)
  | go
  deriving DecidableEq, Repr

/-- The verdict of admission on a job (R121, R158, R213, R240, R299, R349, R357, R359). -/
def verdict (s : State) (j : Job) : Verdict :=
  let quiet := match j.bakery with | some b => (s.bakery b).quiesced | none => false
  if j.copy.isNone && j.bakery.isNone then .force 3 0xFFFFFFFF
  else if quiet || j.cancel then .force 7 (j.bakery.getD 0)
  else if cqFull s j.ctx then .wait
  else
    let held := match j.copy, j.bakery with
      | some d, _ => decide (64 ≤ (slicerJobs s d.slicer).length)
      | none, some b => decide (64 ≤ (bakeryJobs s b).length) || !(bakeryReady s b)
      | none, none => false
    if held then .wait
    else if j.cls = 0 then
      match refusing s (profileOf s j.bakery j.profile) with
      | some t => .force 2 t
      | none => .go
    else .go

/-- A Bakery gains a job: the pass number is taken, and the stall interval starts with its first active Frame job
(R203, R240). -/
def gainJob (b : Nat) (frame : Bool) (s : State) : State :=
  let idle := !(bakeryActive s b)
  s.onBakery b fun k => { k with passes := k.passes + 1, lastMove := if frame && idle then s.epoch else k.lastMove }

/-- A job is admitted (R213, R240, R299, R364, R392). -/
def admitJob (j : Job) (s : State) : State :=
  let frame := j.cls == 0
  let j := { j with
    resv := if frame then profileOf s j.bakery j.profile else [],
    deadline := match j.rawDeadline with | some d => some (resolveUs s d) | none => j.deadline,
    rawDeadline := none, admitted := true }
  match j.copy, j.bakery with
  | none, some b =>
    let k := s.bakery b
    let j := { j with pass := k.passes, ovens := k.ovens, phase := if j.ticketAt.isSome then .ticket else .running }
    let s := gainJob b frame s
    let s := onJob j.id (fun _ => j) s
    let s := { s with ovens := s.ovens.map fun e => if k.ovens.contains e.1 then
      (e.1, { e.2 with jobs := e.2.jobs ++ [j.id] }) else e }
    if k.ovens.isEmpty && j.phase == .running then completeJob j.id s else s
  | _, _ => onJob j.id (fun _ => { j with phase := .running, since := s.epoch }) s

/-- A job refused or cancelled completes at once (R213, R349, R121). -/
def forceJob (j : Job) (o d : Nat) (s : State) : State :=
  let s := if o = 2 then s.fadd (Fld.FAB_TGT_REFUSED_COUNT d) 1
    else if o = 3 then logFault 1 (faultFlags false false true false false) j.ctx 0xFFFF 0 0 s else s
  completeJob j.id (onJob j.id (fun j => { j with forced := some (o, d), deadline := none }) s)

/-- Whether a context's next descriptor may be taken: it is ENABLED, its completion ring has room, and no earlier job
of it waits (R352, R357, R359). -/
def mayFetch (s : State) (c : Nat) : Bool :=
  ctxState s c == 1 && !(cqFull s c) && !(s.ctx.jobs.any fun j => j.ctx == c && j.phase == .waiting)

/-- Whether one doorbell comes before another: it arrived in an earlier Crust cycle, or in the same one for a lower context
(R215, R357). -/
def before (t c t' c' : Nat) : Bool := decide (t < t') || (t == t' && decide (c < c'))

/-- Whether a descriptor of an earlier doorbell is still to be taken, and can be (R357). -/
def overtakes (s : State) (j : Job) : Bool :=
  s.ctx.fetchQ.any fun e => before e.t e.ctx j.arrived j.ctx && mayFetch s e.ctx

/-- The first waiting job that can proceed, in order of arrival; a context's jobs keep their order (R357). -/
def ableJob (s : State) : List Nat → List Job → Option (Job × Verdict)
  | _, [] => none
  | seen, j :: js =>
    if j.phase != .waiting then ableJob s seen js
    else if seen.contains j.ctx || overtakes s j then ableJob s seen js
    else match verdict s j with
      | .wait => ableJob s (j.ctx :: seen) js
      | v => some (j, v)

/-- A job leaves its ring: SQ_HEAD passes it, and admission has decided in this Crust cycle (R215, R240, R355). -/
def leaveRing (j : Job) (s : State) : State :=
  let s := if j.stream.isNone then s.fset (Fld.CTX_SQ_PTR_HEAD j.ctx) ((j.index + 1) % sqSize s j.ctx) else s
  { s with ctx := { s.ctx with admitAt := some s.mono } }

/-- The first waiting job that can proceed does (R215, R357). -/
def proceedOne (s : State) : Option State :=
  match ableJob s [] s.ctx.jobs with
  | none => none
  | some (j, .force o d) => some (forceJob j o d (leaveRing j s))
  | some (j, _) => some (admitJob j (leaveRing j s))

/-- Every waiting job that can proceed does, in order; `fuel` bounds them. -/
def proceedAll : Nat → State → State
  | 0, s => s
  | fuel + 1, s => match proceedOne s with
    | none => s
    | some s => proceedAll fuel s

/-- A job among those that wait: before the first whose doorbell came after its own (R215, R357). -/
def insertJob (j : Job) : List Job → List Job
  | [] => [j]
  | q :: qs => if q.phase == .waiting && before j.arrived j.ctx q.arrived q.ctx then j :: q :: qs else q :: insertJob j qs

/-- A job arrives at admission, in the order of the doorbells (R215, R357). -/
def submitJob (j : Job) (s : State) : State :=
  let j := { j with id := s.ctx.nextId, phase := .waiting }
  let s := { s with ctx := { s.ctx with jobs := insertJob j s.ctx.jobs, nextId := s.ctx.nextId + 1 } }
  proceedAll (s.ctx.jobs.length) s

def execWaitingJobProceeds (s : State) : Host.Outcome State Fault Refusal :=
  ok (fun s => (proceedOne s).getD s) s

/-! ## Descriptors (R301, R356, R357, R363) -/

/-- A job with nothing filled in. -/
def Job.blank (ctx index : Nat) : Job :=
  { id := 0, ctx, index, stream := none, copy := none, cls := 1, profile := 0, rebase := 0, deadline := none,
    rawDeadline := none, userTag := 0, resultAddr := 0, mbx := 0, mbxEn := false, views := [], bakery := none,
    phase := .waiting, resv := [], ovens := [], lost := none, refused := none, poisoned := false, unordered := false,
    homes := 0, abandoned := false, missed := false, forced := none, admitted := false, arrived := 0, cancel := false, pass := 0, ticketAt := none, ticket := [], tDone := 0,
    mbxWritten := false, mbxPoison := false, mbxSeq := 0, unit := 0, started := false, since := 0, promoted := false,
    issued := 0 }

/-- The body of a copy descriptor (R301). -/
def parseCopy (d : List Byte) : CopyDesc :=
  let conv := leAt 0x38 1 d
  { src := leAt 0x10 5 d, dst := leAt 0x18 5 d, xlen := clampNat 1 16777216 (leAt 0x20 4 d),
    ycnt := clampNat 1 65535 (leAt 0x24 2 d), zcnt := clampNat 1 65535 (leAt 0x26 2 d), sy := leSAt 0x28 4 d,
    sz := leSAt 0x2C 4 d, dy := leSAt 0x30 4 d, dz := leSAt 0x34 4 d,
    conv := if conv.testBit 7 then some (conv % 8, conv / 16 % 8) else none, slicer := leAt 0x39 1 d % 8 }

/-- A descriptor (R363). -/
def parseDescriptor (s : State) (c index : Nat) (d : List Byte) : Job :=
  let copy := decide (1 ≤ leAt 0 1 d)
  let cls := min 2 (leAt 1 1 d)
  { Job.blank c index with
    copy := if copy then some (parseCopy d) else none
    cls
    profile := leAt 2 1 d % 16
    rebase := leAt 3 1 d
    rawDeadline := if cls = 0 then some (leAt 4 4 d) else none
    userTag := leAt 8 8 d
    resultAddr := if copy then 0 else leAt 0x10 5 d / 64 * 64
    mbx := if copy then 0 else leAt 0x18 1 d
    mbxEn := !copy && (leAt 0x19 1 d).testBit 0
    bakery := s.ctxBakery c }

/-- The next descriptor to reach admission, in doorbell order (R357). -/
def nextFetch (s : State) : Option Submitted := s.ctx.fetchQ.find? fun e => mayFetch s e.ctx

/-- The outcome of a failed descriptor read (R356, R366). -/
def ringOutcome (r : AccRes) : Option (Nat × Nat) :=
  match r.lost, r.refused with
  | some h, _ => some (5, h)
  | none, some d => some (3, d)
  | none, none => if r.poison then some (6, 0) else none

/-- A descriptor has been read: the job goes to admission, and stays in its ring until admission takes it; or the context is
FAULTED and the ring index gets its record (R240, R356, R357; DEDUCED, log entry 11). -/
def takeDescriptor (x : Submitted) (r : AccRes) (s : State) : State :=
  let c := x.ctx
  let index := x.index
  let s := { s with ctx := { s.ctx with fetchQ := s.ctx.fetchQ.filter fun e => !(e.ctx == c && e.index == index) } }
  match ringOutcome r with
  | none => submitJob { parseDescriptor s c index r.data with arrived := x.t, cancel := x.cancel } s
  | some o =>
    let s := s.fset (Fld.CTX_SQ_PTR_HEAD c) ((index + 1) % sqSize s c)
    let s := ringFault c 0 (sqBase s c + 64 * index) s
    let j := { Job.blank c index with id := s.ctx.nextId, forced := some o }
    completeJob j.id { s with ctx := { s.ctx with jobs := s.ctx.jobs ++ [j], nextId := s.ctx.nextId + 1 } }

/-- DESCRIPTOR_FETCHED: the read of the next descriptor returns (R351, R356, R357). -/
def descriptorFetched (c : Nat) (err : List MemErr) (e : ExtReply) (s : State) : State :=
  match nextFetch s with
  | some x =>
    if x.ctx = c then
      let (r, s) := readBytes (Who.ring s c) (sqBase s c + 64 * x.index) 64 err e s
      takeDescriptor x r s
    else s
  | none => s

def execDescriptorFetched (c : Fin 1024) (err : List MemErr) (e : ExtReply) (s : State) :
    Host.Outcome State Fault Refusal := ok (descriptorFetched c.val err e) s

/-! ## Context control and doorbells (R352–R355, R360, R367) -/

/-- ENABLE: only a DISABLED context takes it (R352). -/
def actCtxEnable (c : Nat) (s : State) : State :=
  if ctxState s c = 0 then
    let s := (s.setReg (Reg.CTX_SQ_PTR c) 0).setReg (Reg.CTX_CQ_PTR c) 0
    let s := (s.fset (Fld.CTX_STATUS_ARMED c) 0).fset (Fld.CTX_STATUS_STATE c) 1
    { s with ctx := { s.ctx with laps := spSet 0 c 0 s.ctx.laps } }
  else s

/-- DISABLE: DRAINING while jobs are in flight, else DISABLED; nothing more is fetched (R352). -/
def actCtxDisable (c : Nat) (s : State) : State :=
  if ctxState s c = 1 ∨ ctxState s c = 3 then
    { s.fset (Fld.CTX_STATUS_STATE c) (if (ctxJobs s c).isEmpty then 0 else 2) with
      ctx := { s.ctx with fetchQ := s.ctx.fetchQ.filter fun e => e.ctx != c } }
  else s

def execCtxEnable (f : HostFn) (c : Fin 1024) (s : State) : Host.Outcome State Fault Refusal :=
  ok (hostWrite f (Reg.CTX_CTRL c.val) (actCtxEnable c.val)) s

def execCtxDisable (f : HostFn) (c : Fin 1024) (s : State) : Host.Outcome State Fault Refusal :=
  ok (hostWrite f (Reg.CTX_CTRL c.val) (actCtxDisable c.val)) s

/-- The function that owns a context (R379): `none` for no function. -/
def ctxOwner (s : State) (c : Nat) : Option HostFn :=
  if s.fget (Fld.CTX_OWNER_NOFUNC c) = 1 then none
  else
    let fn := s.fget (Fld.CTX_OWNER_FUNC c)
    if fn = 32 then some ⟨match s.primaryPort with | .a => .b | .b => .a, 0⟩
    else some ⟨s.primaryPort, ⟨fn % 32, Nat.mod_lt _ (by decide)⟩⟩

/-- A write to a doorbell page at an offset: its owner's alone, and of an ENABLED context (R354); CRUST_NOC holds the
doorbells (R155). -/
def doorbell (f : HostFn) (c off : Nat) (act : State → State) (s : State) : State :=
  if !(s.barsDecode f) then s
  else
    let m := s.masterOf f
    let a := c * 0x1000 + off
    if ctxOwner s c != some f then denyAccess 59 m (faultFlags true false false true false) a s
    else if !(s.on 112) then logFault 3 (faultFlags true false false true false) m 59 112 a s
    else if ctxState s c = 1 then act s
    else s

/-- The indexes from one up to another, modulo a size. -/
def ringSpan (size a b : Nat) : List Nat :=
  (List.range ((b + size - a) % size)).map fun k => (a + k) % size

/-- A submitted descriptor behind those of earlier doorbells, and of doorbells of its own Crust cycle behind those of lower
contexts (R215, R357). -/
def enqueueFetch : List Submitted → Submitted → List Submitted
  | [], e => [e]
  | q :: qs, e => if before e.t e.ctx q.t q.ctx then e :: q :: qs else q :: enqueueFetch qs e

/-- Whether a context's Bakery is quiesced: what it submits is cancelled (R121). -/
def ctxQuiesced (s : State) (c : Nat) : Bool := match s.ctxBakery c with | some b => (s.bakery b).quiesced | none => false

/-- The SQ_TAIL doorbell (R353, R355). -/
def actSqTail (c v : Nat) (s : State) : State :=
  let t := min (v % 4096) (sqSize s c - 1)
  let new := (ringSpan (sqSize s c) (s.fget (Fld.CTX_SQ_PTR_TAIL c)) t).map fun i => (⟨c, i, s.mono, ctxQuiesced s c⟩ : Submitted)
  { s.fset (Fld.CTX_SQ_PTR_TAIL c) t with ctx := { s.ctx with fetchQ := new.foldl enqueueFetch s.ctx.fetchQ } }

def execSqTailDoorbell (f : HostFn) (c : Fin 1024) (v : Word) (s : State) : Host.Outcome State Fault Refusal :=
  ok (doorbell f c.val 0 (actSqTail c.val v.toNat)) s

/-- CQ_HEAD stored: a value outside the unread range is stored as CQ_TAIL (R353, R360). -/
def actCqHead (c v : Nat) (s : State) : State :=
  let n := cqSize s c
  let v := min (v % 4096) (n - 1)
  let h := s.fget (Fld.CTX_CQ_PTR_HEAD c)
  let t := s.fget (Fld.CTX_CQ_PTR_TAIL c)
  s.fset (Fld.CTX_CQ_PTR_HEAD c) (if (v + n - h) % n ≤ (t + n - h) % n then v else t)

/-- The vector of a context: its function and its entry (R367, R368). -/
def ctxVector (s : State) (c : Nat) : Option (HostFn × Nat) :=
  match ctxOwner s c with
  | none => none
  | some f =>
    if s.masterOf f = 0x420 then some (f, c)
    else some (f, (List.range c).countP fun k => ctxOwner s k == some f)

/-- One message on a context's vector (R367). -/
def messageOn (c : Nat) (s : State) : State :=
  match ctxVector s c with
  | none => s
  | some (f, v) => messageDue f v s

/-- One message on a context's vector, and ARMED cleared (R367). -/
def sendCtx (c : Nat) (s : State) : State := messageOn c (s.fset (Fld.CTX_STATUS_ARMED c) 0)

/-- The ARM bit of a CQ_HEAD doorbell (R367). -/
def actCqArm (c v : Nat) (s : State) : State :=
  let s := (actCqHead c v s).fset (Fld.CTX_STATUS_ARMED c) 1
  if s.fget (Fld.CTX_CQ_PTR_TAIL c) ≠ s.fget (Fld.CTX_CQ_PTR_HEAD c) then sendCtx c s else s

def execCqHeadUpdate (f : HostFn) (c : Fin 1024) (v : BitVec 12) (s : State) : Host.Outcome State Fault Refusal :=
  ok (doorbell f c.val 4 (actCqHead c.val v.toNat)) s

def execCqArm (f : HostFn) (c : Fin 1024) (v : BitVec 12) (s : State) : Host.Outcome State Fault Refusal :=
  ok (doorbell f c.val 4 (actCqArm c.val v.toNat)) s

/-! ## Records (R356, R359, R361, R365, R367) -/

/-- The 32 bytes of a record (R365). -/
def recordBytes (j : Job) (phase : Nat) : List Byte :=
  let (o, d) := jobOutcome j
  let flags := phase + (if j.mbxWritten then 2 else 0) + (if j.mbxPoison then 4 else 0) + (if j.stream.isSome then 8 else 0)
  leBytes 2 j.index ++ leBytes 1 o ++ leBytes 1 flags ++ leBytes 4 d ++ leBytes 8 j.userTag ++ leBytes 8 j.tDone ++
    leBytes 4 (if j.mbxWritten then j.mbxSeq else 0) ++ leBytes 1 j.mbx ++ leBytes 1 (j.stream.getD 0) ++ leBytes 2 0

/-- What the record of a channel's job tells it: DONE, OUTCOME and DETAIL (R389). -/
def recordNews (j : Job) (s : State) : State :=
  match j.stream with
  | none => s
  | some k =>
    let (o, d) := jobOutcome j
    raiseStr k 3 (onChan k (fun c => { c with outcome := o, detail := d }) s)

/-- A job is done with: it leaves the jobs in flight, and a context DRAINING with no job left is DISABLED (R214, R352). -/
def releaseJob (j : Job) (s : State) : State :=
  let s := dropJob j.id s
  if ctxState s j.ctx = 2 && (ctxJobs s j.ctx).isEmpty then s.fset (Fld.CTX_STATUS_STATE j.ctx) 0 else s

/-- A record's slot is used: CQ_TAIL, the lap, CTX_RECORDS, and with ARMED the message that falls due, ARMED cleared (R359,
R361, R367). -/
def recordWritten (j : Job) (s : State) : State :=
  let c := j.ctx
  let t := (s.fget (Fld.CTX_CQ_PTR_TAIL c) + 1) % cqSize s c
  let s := (s.fset (Fld.CTX_CQ_PTR_TAIL c) t).fadd (Fld.CTX_RECORDS_COUNT c) 1
  let s := if t = 0 then { s with ctx := { s.ctx with laps := spSet 0 c (spGet 0 s.ctx.laps c + 1) s.ctx.laps } } else s
  let s := if s.fget (Fld.CTX_STATUS_ARMED c) = 1 then
    { s.fset (Fld.CTX_STATUS_ARMED c) 0 with ctx := { s.ctx with msgDue := s.ctx.msgDue ++ [c] } } else s
  releaseJob j (recordNews j s)

/-- The job whose record or mailbox write a context makes next: the first to have completed (R359, R362). -/
def dueJob (s : State) (c : Nat) : Option Job :=
  s.ctx.jobs.find? fun j => j.ctx == c && (j.phase == .mbxDue || j.phase == .recordDue)

/-- COMPLETION_RECORD_WRITE: it waits while the ring is full; one that cannot be written is lost (R356, R359). It waits too
where admission has decided in this Crust cycle already, since the releases of a cycle come first (R215; DESIGN CHOICE, log
entry 6). -/
def writeRecord (c : Nat) (e : ExtReply) (s : State) : State :=
  match dueJob s c with
  | none => s
  | some j =>
    if j.phase != .recordDue || cqFull s c || s.ctx.admitAt == some s.mono then s
    else
      let a := cqBase s c + 32 * s.fget (Fld.CTX_CQ_PTR_TAIL c)
      let (r, s) := writeBytes (Who.forJob j) a (recordBytes j ((spGet 0 s.ctx.laps c + 1) % 2)) false [] e s
      if r.refused.isSome || r.lost.isSome then releaseJob j (ringFault c 1 a s)
      else recordWritten j s

def execCompletionRecordWrite (c : Fin 1024) (e : ExtReply) (s : State) : Host.Outcome State Fault Refusal :=
  ok (writeRecord c.val e) s

/-- MSIX_MESSAGE: the message of a context whose record write, made with ARMED set, is acknowledged (R362, R367). -/
def msixMessage (c : Nat) (s : State) : State :=
  if s.ctx.msgDue.contains c then messageOn c { s with ctx := { s.ctx with msgDue := s.ctx.msgDue.erase c } } else s

def execMsixMessage (c : Fin 1024) (s : State) : Host.Outcome State Fault Refusal := ok (msixMessage c.val) s

/-! ## Result mailboxes (R370–R374) -/

/-- The content of a mailbox replaced in one step (R371). -/
def putMailbox (m : Nat) (d : List Byte) (poison : Bool) (s : State) : State :=
  let s := (List.range 16).foldl (fun s k => s.setReg (Reg.MBX_DATA m k) (BitVec.ofNat 32 (leAt (4 * k) 4 d))) s
  let s := if s.fget (Fld.MBX_STAT_READY m) = 1 then s.fsat (Fld.MBX_STAT_OVERWRITTEN m) else s
  let s := (s.fset (Fld.MBX_STAT_READY m) 1).fset (Fld.MBX_STAT_POISON m) (if poison then 1 else 0)
  mailboxNews m (s.fadd (Fld.MBX_SEQ_SEQ m) 1)

/-- A mailbox's update by a context, or 1,024 for an acknowledgement, in this Crust cycle (R373). -/
def noteMbx (m who : Nat) (s : State) : State :=
  { s with ctx := { s.ctx with mbxAt := spSet (0, 0) m (s.mono, who) s.ctx.mbxAt } }

/-- Whether an update of a mailbox by a context would come out of the order of its Crust cycle: an acknowledgement or a higher
context's update has been made in it (R373). -/
def mbxLate (s : State) (m c : Nat) : Bool :=
  let x := spGet (0, 0) s.ctx.mbxAt m
  x.1 == s.mono && decide (c < x.2)

/-- What a job's mailbox access has done to its outcome reaches its channel (R399, R400). -/
def retell (id : Nat) (s : State) : State :=
  match s.job? id with
  | some j => tellChannel j s
  | none => s

/-- MAILBOX_WRITE: the result is read and the mailbox written, both with the job's context (R371). A write that would come
out of the order of its Crust cycle waits (R373; DESIGN CHOICE, log entry 6). -/
def writeMailbox (c : Nat) (err : List MemErr) (e : ExtReply) (s : State) : State :=
  match dueJob s c with
  | none => s
  | some j =>
    if j.phase != .mbxDue || mbxLate s j.mbx c then s
    else
      let (r, s) := readBytes (Who.forJob j) j.resultAddr 64 err e s
      let s := onJob j.id (fun j => { j with phase := .recordDue }) (noteAccess j.id r s)
      retell j.id (if r.refused.isSome then s
      else if !(s.permits 70 c true (64 * j.mbx) 64) then
        noteAccess j.id (refusedRes 0 70) (denyAccess 70 c (faultFlags true false true false false) (64 * j.mbx) s)
      else if !(s.on 112) then
        noteAccess j.id (refusedRes 0 70) (logFault 3 (faultFlags true false true false false) c 70 112 (64 * j.mbx) s)
      else
        let s := noteMbx j.mbx c (putMailbox j.mbx r.data r.poison s)
        onJob j.id (fun j => { j with mbxWritten := true, mbxPoison := r.poison, mbxSeq := s.fget (Fld.MBX_SEQ_SEQ j.mbx) }) s)

def execMailboxWrite (c : Fin 1024) (err : List MemErr) (e : ExtReply) (s : State) : Host.Outcome State Fault Refusal :=
  ok (writeMailbox c.val err e) s

/-- The action of MBX_ACK (R373). -/
def actMbxAck (m : Nat) (v : Word) (s : State) : State :=
  let s := noteMbx m 1024 s
  if v = s.reg (Reg.MBX_SEQ m) then s.fset (Fld.MBX_STAT_READY m) 0 else s

def execMbxAck (f : HostFn) (m : Fin 256) (seq : Word) (s : State) : Host.Outcome State Fault Refusal :=
  ok (hostWrite f (Reg.MBX_ACK m.val) (actMbxAck m.val seq)) s

/-! ## Readings (R381) -/

/-- CTX_STATUS. -/
def ctxStatusReg (s : State) (c : Nat) : Word :=
  withBits 28 16 (ctxJobs s c).length (withBits 2 2 (if cqFull s c then 1 else 0) (s.reg (Reg.CTX_STATUS c)))

end Sys2Proof.Machine
end

