-- ==== Sys2Proof/Machine/OvenOps.lean ====
section
/-! DEFINITION. Oven addresses, operand vectors, hazards, dispatch and passes (R220–R222, R229–R236, R240, R244–R248). -/
namespace Sys2Proof.Machine

/-- An Oven. -/
def State.oven (s : State) (n : Nat) : Oven := spGet Oven.empty s.ovens n

/-- The state with an Oven changed. -/
def onOven (n : Nat) (g : Oven → Oven) (s : State) : State :=
  { s with ovens := spSet Oven.empty n (g (s.oven n)) s.ovens }

/-- The state with a dispatched instruction changed. -/
def onDisp (n i : Nat) (g : DInstr → DInstr) (s : State) : State :=
  onOven n (fun o => { o with disp := o.disp.modify i g }) s

/-- The state with a dispatched instruction finished. -/
def finishDisp (n i : Nat) (s : State) : State := onOven n (fun o => { o with disp := o.disp.eraseIdx i }) s

/-! ## Locations and addresses (R231, R246, R247) -/

/-- A location byte: KIND, SUB, PORT. -/
def locKind (l : Nat) : Nat := l / 64 % 4
def locSub (l : Nat) : Nat := l / 8 % 8
def locPort (l : Nat) : Nat := l % 8

/-- The KIND of a MAC's source: anything but a Rack acts as Pantry (R246). -/
def macKind (l : Nat) : Nat := if locKind l = 1 then 1 else 0

/-- The KIND of a GLAZE's destination: an accumulator bank acts as none (R246). -/
def dstKind (l : Nat) : Nat := if locKind l = 2 then 3 else locKind l

/-- An offset or step with bits [4:0] ignored (R231). -/
def al32 (x : Int) : Int := x - x % 32

/-- A Pantry offset: offset + w × step + i × stride, modulo 2 MiB (R231, R247). -/
def pantryAt (off step stride : Int) (w i : Nat) : Nat :=
  ((al32 off + w * al32 step + i * al32 stride) % 2 ^ 21).toNat

/-- A row number: first + w × step, modulo 512 (R224, R247). -/
def rowAt (first step : Int) (w : Nat) : Nat := ((first + w * step) % 512).toNat

/-! ## Loops (R230, R248) -/

/-- The LOOPs whose bodies contain an instruction, by index. -/
def enclosing (p : List OInstr) (k : Nat) : List (Nat × OInstr) :=
  ((List.range p.length).zip p).filter fun e => e.2.op == .loop && decide (e.2.target ≤ k) && decide (k < e.1)

/-- A loop's counter. -/
def loopCount (o : Oven) (k : Nat) : Nat := (o.loops.lookup k).getD 0

/-- The iteration index of an instruction: the counter of the innermost loop that contains it. -/
def iterIndex (o : Oven) (k : Nat) : Nat :=
  match (enclosing o.instrs k).head? with
  | none => 0
  | some e => loopCount o e.1

/-- Whether every loop that encloses an instruction is in its final iteration. -/
def lastIteration (o : Oven) (k : Nat) : Bool :=
  (enclosing o.instrs k).all fun e => loopCount o e.1 + 1 == e.2.count

/-! ## Engines and dispatch (R220) -/

/-- The engine of an operation. -/
def engineOf : OvenOp → OvenEngine
  | .mac => .array
  | .loadw => .loader
  | .glaze => .glaze
  | .starter => .starter
  | _ => .mover

/-- An instruction as it is dispatched. -/
def dispatched (o : Oven) (k : Nat) (i : OInstr) : DInstr :=
  { uid := o.serial, idx := k, ins := i, iter := iterIndex o k, lastIter := lastIteration o k, started := false, w := 0, g0 := [],
    g1 := [], g2 := [], hold1 := none, hold2 := none, poolN := 0, pool := [], outw := 0, emit := [], waiting := 0 }

/-- Whether an engine's queue is full. -/
def queueFull (o : Oven) (e : OvenEngine) : Bool :=
  decide (4 ≤ o.disp.countP fun d => engineOf d.ins.op == e && !d.started)

/-- Dispatch in program order until a LOOP, an END, the end of the program or a full queue. -/
def dispatchLoop : Nat → Oven → Oven
  | 0, o => o
  | fuel + 1, o =>
    if o.ended then o
    else match o.instrs[o.pc]? with
      | none => { o with ended := true }
      | some i =>
        match i.op with
        | .end_ => o
        | .loop => o
        | op =>
          if queueFull o (engineOf op) then o
          else dispatchLoop fuel { o with disp := o.disp ++ [dispatched o o.pc i], serial := o.serial + 1, pc := o.pc + 1 }

/-- The Oven dispatches what it can. -/
def dispatch (n : Nat) (s : State) : State :=
  let o := s.oven n
  if o.job.isNone then s else onOven n (dispatchLoop (o.instrs.length + 1)) s

/-! ## Hazards (R221) -/

/-- What an instruction touches: every Pantry access as start and length, and whether one writes; rows read and written (S
rows from 512), tiles used and loaded, Racks popped and pushed (port × 8 + SUB). -/
structure Foot where
  pan : List (Nat × Nat)
  writes : Bool
  ar : List Nat
  aw : List Nat
  tr : List Nat
  tw : List Nat
  pop : List Nat
  push : List Nat
  deriving DecidableEq, Repr

/-- A footprint that touches nothing. -/
def Foot.none : Foot := ⟨[], false, [], [], [], [], [], []⟩

/-- `n` accesses of `len` bytes a step apart. -/
def spansOf (off step stride : Int) (i n len : Nat) : List (Nat × Nat) :=
  (List.range n).map fun w => (pantryAt off step stride w i, len)

/-- The bytes untouched after an offset, modulo 2 MiB, up to the next access; none where an access covers it. -/
def gapAfter (xs : List (Nat × Nat)) (e : Nat) : Nat :=
  xs.foldl (fun g x => min g (if (e + 2 ^ 21 - x.1) % 2 ^ 21 < x.2 then 0 else (x.1 + 2 ^ 21 - e) % 2 ^ 21)) (2 ^ 21)

/-- The smallest span, modulo 2 MiB, that contains every access: what is left of the circle without its largest gap (R221). -/
def smallestSpan (xs : List (Nat × Nat)) : Nat × Nat :=
  xs.foldl (fun r x =>
    let e := (x.1 + x.2) % 2 ^ 21
    let g := if 2 ^ 21 ≤ x.2 then 0 else gapAfter xs e
    if 2 ^ 21 - g < r.2 then ((e + g) % 2 ^ 21, 2 ^ 21 - g) else r) (0, 2 ^ 21)

/-- Whether two spans share a byte. -/
def spansMeet (a b : Nat × Nat) : Bool :=
  decide ((b.1 + 2 ^ 21 - a.1) % 2 ^ 21 < a.2) || decide ((a.1 + 2 ^ 21 - b.1) % 2 ^ 21 < b.2)

/-- Whether one of two instructions writes a Pantry range that the other reads or writes (R221). -/
def pantryClash (a b : Foot) : Bool :=
  (a.writes || b.writes) && !a.pan.isEmpty && !b.pan.isEmpty && spansMeet (smallestSpan a.pan) (smallestSpan b.pan)

/-- Whether two lists share a member. -/
def shares (a b : List Nat) : Bool := a.any b.contains

/-- Whether two instructions conflict (R221). -/
def conflict (a b : Foot) : Bool :=
  pantryClash a b || shares a.aw (b.ar ++ b.aw) || shares b.aw a.ar ||
    shares a.tw (b.tr ++ b.tw) || shares b.tw a.tr || shares a.pop b.pop || shares a.push b.push

/-- The rows of `n` accesses. -/
def rowsOf (first step : Int) (n : Nat) : List Nat := (List.range (min n 512)).map fun w => rowAt first step w

/-- What reading a source or aux touches: `width` bytes per vector from the Pantry, a Rack, or rows of a bank. -/
def readFoot (f : Foot) (l : Nat) (kind : Nat) (off step stride : Int) (i n width : Nat) : Foot :=
  match kind with
  | 0 => { f with pan := f.pan ++ spansOf off step stride i n width }
  | 1 => { f with pop := f.pop ++ [locPort l * 8 + locSub l] }
  | 2 => { f with ar := f.ar ++ (rowsOf off step n).map (· + 512 * (l % 2)) }
  | _ => f

/-- Bytes of a vector: codes or raw lane values (R229). -/
def vecBytes (raw : Bool) : Nat := if raw then 256 else 64

/-- AUXDEC's raw bits (R245). -/
def aux2Raw (i : OInstr) : Bool := i.auxdec.testBit 3
def aux3Raw (i : OInstr) : Bool := i.auxdec.testBit 7

/-- One natural width of an aux input (R236). -/
def auxStep (l : Nat) (raw : Bool) : Int := if locKind l = 2 then 1 else vecBytes raw

/-- The pooling size of a GLAZE; 1 without pooling (R235, R236). -/
def poolSize (i : OInstr) : Nat :=
  match i.stages.find? fun t => t.1 == 8 || t.1 == 9 with
  | some t => t.2.toNat
  | none => 1

/-- Output vectors of a GLAZE (R236). -/
def outVectors (i : OInstr) : Nat := (i.count + poolSize i - 1) / poolSize i

/-- The Starter that a STARTER instruction names (R257). -/
def starterOf (o : Oven) (i : OInstr) : Option StarterCfg := o.starters.find? fun c => c.num == i.num

/-- The S row of vector w of a Resident STARTER (R258). -/
def starterRow (c : StarterCfg) (i : OInstr) (iter w : Nat) : Nat :=
  c.rowFirst + ((i.daddr % 512 + w * i.dstep + iter * i.istride) % (c.rows : Int)).toNat

/-- The footprint of a dispatched instruction (R221, R261). -/
def footOf (o : Oven) (d : DInstr) : Foot :=
  let i := d.ins
  let f := Foot.none
  match i.op with
  | .loadw => { (readFoot f 0 0 i.saddr 0 i.istride d.iter 1 (if i.split then 8192 else 4096)) with
      tw := if i.split then [0, 1] else [i.tile] }
  | .mac =>
    { (readFoot f i.src (macKind i.src) i.saddr i.sstep i.istride d.iter i.count (if i.split then 128 else 64)) with
      aw := rowsOf i.daddr i.dstep i.count, tr := if i.split then [0, 1] else [i.tile] }
  | .glaze =>
    let n := if i.auxhold then 1 else i.count
    let f := readFoot f i.src (locKind i.src) i.saddr i.sstep i.istride d.iter i.count (vecBytes (i.dec / 128 == 1))
    let f := readFoot f i.aux2 (locKind i.aux2) i.aux2addr (auxStep i.aux2 (aux2Raw i)) i.istride d.iter n
      (vecBytes (aux2Raw i))
    let f := readFoot f i.aux3 (locKind i.aux3) i.aux3addr (auxStep i.aux3 (aux3Raw i)) i.istride d.iter n
      (vecBytes (aux3Raw i))
    match dstKind i.dst with
    | 0 => { f with writes := true, pan := f.pan ++ spansOf i.daddr i.dstep i.istride d.iter (outVectors i) (vecBytes (i.enc / 128 == 1)) }
    | 1 => { f with push := [locPort i.dst * 8 + locSub i.dst] }
    | _ => f
  | .fetch => { f with writes := true, pan := spansOf i.saddr i.sstep i.istride d.iter i.count i.len }
  | .flush => { f with pan := spansOf i.saddr i.sstep i.istride d.iter i.count i.len }
  | .starter =>
    let n := if i.auxhold then 1 else i.count
    let raw := i.dec / 128 == 1
    let f := readFoot f i.src (locKind i.src) i.saddr (auxStep i.src raw) i.istride d.iter i.count (vecBytes raw)
    let f := readFoot f i.aux2 (locKind i.aux2) i.aux2addr (auxStep i.aux2 (aux2Raw i)) i.istride d.iter n
      (vecBytes (aux2Raw i))
    match starterOf o i with
    | none => f
    | some c =>
      let f := if i.smode = 2 && locKind i.src = 3 && c.initMode ≠ 0 then
        { f with pan := f.pan ++ spansOf c.initAddr 256 0 0 (if c.initMode = 1 then 1 else i.count) 256 } else f
      if c.carried then { f with writes := true, pan := f.pan ++ spansOf i.daddr i.dstep i.istride d.iter i.count 64 }
      else { f with aw := (List.range (min i.count 512)).map fun w => 512 + starterRow c i d.iter w }
  | _ => f

/-- Whether the dispatched instruction at a position is clear of every earlier one (R221). -/
def clearOfHazards (o : Oven) (k : Nat) : Bool :=
  match o.disp[k]? with
  | none => false
  | some d => (o.disp.take k).all fun e => !(conflict (footOf o e) (footOf o d))

/-- Whether the instruction at a position may start or goes on: its engine has started what came before it, and its
hazards are clear (R220, R221). -/
def mayRun (o : Oven) (k : Nat) : Bool :=
  match o.disp[k]? with
  | none => false
  | some d =>
    d.started ||
      (clearOfHazards o k && !((o.disp.take k).any fun e => engineOf e.ins.op == engineOf d.ins.op &&
        (!e.started || engineOf d.ins.op != .mover)) &&
       (engineOf d.ins.op != .mover || decide ((o.disp.countP fun e => engineOf e.ins.op == .mover && e.started) < 4)))

/-- The instruction that an engine command advances: the first of its operation, if it may run. -/
def headOf (o : Oven) (p : DInstr → Bool) : Option (Nat × DInstr) :=
  match o.disp.findIdx? p with
  | none => none
  | some k => if mayRun o k then (o.disp[k]?).map fun d => (k, d) else none

/-! ## Operand vectors (R229, R234) -/

/-- The 64 lane values of codes decoded through a slot, with their saturations. -/
def codeLanes (o : Oven) (slot : Nat) (bs : List Byte) : List Int × Nat :=
  let ls := bs.map fun b => satLane (opLane (spGet 0 o.decs (slot * 256 + b.toNat)))
  (ls.map (·.1), (ls.map (·.2)).sum)

/-- Lane values stored four bytes each. -/
def rawLanes : List Byte → List Int
  | a :: b :: c :: d :: r => signedOf 32 (leVal [a, b, c, d]) :: rawLanes r
  | _ => []

/-- Codes or lane values, as lane values. -/
def bytesLanes (o : Oven) (raw : Bool) (slot : Nat) (bs : List Byte) : List Int × Nat :=
  if raw then (rawLanes bs, 0) else codeLanes o slot bs

/-- 64 zero lanes. -/
def zeroLanes : List Int := List.replicate 64 0

/-- A row of a bank (0: A, 1: S). -/
def bankRow (o : Oven) (bank row : Nat) : AccRow := spGet AccRow.zero (if bank = 0 then o.bankA else o.bankS) row

/-- A row of the A or S bank put. -/
def putA (row : Nat) (r : AccRow) (o : Oven) : Oven := { o with bankA := spSet AccRow.zero row r o.bankA }
def putS (row : Nat) (r : AccRow) (o : Oven) : Oven := { o with bankS := spSet AccRow.zero row r o.bankS }

/-- An accumulator row as lane values, with their saturations. -/
def rowLanes (r : AccRow) : List Int × Nat :=
  let ls := r.acc.map (accLane r.bs)
  (ls.map (·.1), (ls.map (·.2)).sum)

/-- Slots that a vector needs from a Rack: 2 of codes, 8 of raw lanes (R229); none from elsewhere. -/
def slotsNeeded (l : Nat) (raw : Bool) : Nat := if locKind l = 1 then (if raw then 8 else 2) else 0

/-- Slots popped from an Oven's input Rack until a number is reached or the Rack gives no more; POISON among them taints
the pass of a MAC or GLAZE (R190, R243). -/
def popTo (n l : Nat) (taints : Bool) : Nat → List RSlot → State → List RSlot × State
  | 0, got, s => (got, s)
  | need + 1, got, s =>
    match s.inRack n (locPort l) (locSub l) with
    | none => (got, s)
    | some (k, r) =>
      match popSlot k r s with
      | none => (got, s)
      | some (x, s) =>
        let s := if taints && x.poison then onOven n (fun o => { o with taint := true }) s else s
        popTo n l taints need (got ++ [x]) s

/-- Up to `need` slots in all. -/
def gather (n l : Nat) (taints : Bool) (need : Nat) (got : List RSlot) (s : State) : List RSlot × State :=
  popTo n l taints (need - got.length) got s

/-- The vector that a location holds, once its slots have been gathered. -/
def vecAt (s : State) (n l : Nat) (raw : Bool) (slot addr row : Nat) (slots : List RSlot) : List Int × Nat :=
  let o := s.oven n
  match locKind l with
  | 0 => bytesLanes o raw slot (s.pantryBytes n addr (vecBytes raw))
  | 1 => bytesLanes o raw slot (slots.flatMap (·.data))
  | 2 => rowLanes (bankRow o (l % 2) row)
  | _ => (zeroLanes, 0)

/-- 64 codes or lane values split into slots of 32 bytes. -/
def toSlots (bs : List Byte) (user : Nat) : Nat → List RSlot
  | 0 => []
  | k + 1 => ⟨bs.take 32, false, false, user⟩ :: toSlots (bs.drop 32) user k

/-- Slots pushed to an Oven's output Rack while credits last; a tainted pass marks them (R190, R230, R243). -/
def pushAll (n l : Nat) (deadline : Int) : List RSlot → State → List RSlot × State
  | [], s => ([], s)
  | x :: xs, s =>
    match s.outRack n (locPort l) (locSub l) with
    | none => (x :: xs, s)
    | some (k, r) =>
      match pushSlot k r { x with poison := (s.oven n).taint } deadline s with
      | none => (x :: xs, s)
      | some s => pushAll n l deadline xs s

/-- The job that an Oven's present pass serves. -/
def passJob (s : State) (n : Nat) : Option Job := (s.oven n).job.bind s.job?

/-- The deadline of the present pass's job; a job without one counts as due last. -/
def passDeadline (s : State) (n : Nat) : Int := ((passJob s n).bind (·.deadline)).getD (2 ^ 64)

/-- Accumulator and lane saturations counted (R227, R234). -/
def countAccSat (n k : Nat) (s : State) : State := s.fadd (Fld.OVN_ACCSAT_COUNT n) k
def countLaneSat (n k : Nat) (s : State) : State := s.fadd (Fld.OVN_LANESAT_COUNT n) k

/-! ## Passes (R240, R241) -/

/-- PASS_START: the job's pass starts once the previous pass has ended (R240). -/
def passStart (n : Nat) (s : State) : State :=
  let o := s.oven n
  match o.job, o.jobs with
  | none, id :: _ =>
    match s.job? id with
    | some j =>
      if j.phase == .running && s.on n && o.loaded then
        dispatch n (onOven n (fun o => { o with
          job := some id, pc := 0, ended := false, loops := [], disp := [], taint := false, stopped := false }) s)
      else s
    | none => s
  | _, _ => s

def execPassStart (n : Fin 48) (s : State) : Host.Outcome State Fault Refusal := ok (passStart n.val) s

/-- A job's pass in an Oven has ended; the job completes with its last one (R241). -/
def passEnded (id n : Nat) (taint : Bool) (s : State) : State :=
  let s := onJob id (fun j => { j with ovens := j.ovens.filter fun k => k != n, poisoned := j.poisoned || taint }) s
  match s.job? id with
  | some j => if j.ovens.isEmpty && j.phase == .running then completeJob id s else s
  | none => s

/-- PASS_END: END was reached and every dispatched instruction has finished (R240). -/
def passEnd (n : Nat) (s : State) : State :=
  let o := s.oven n
  match o.job with
  | none => s
  | some id =>
    if o.ended && o.disp.isEmpty then
      let s := onOven n (fun o => { o with job := none, jobs := o.jobs.filter fun k => k != id }) s
      passEnded id n o.taint (s.fadd (Fld.OVN_PASS_PASSES n) 1)
    else s

def execPassEnd (n : Fin 48) (s : State) : Host.Outcome State Fault Refusal := ok (passEnd n.val) s

/-- LOOP at the point of dispatch (R248). -/
def loopStep (o : Oven) : Oven :=
  match o.instrs[o.pc]? with
  | some i =>
    if o.ended || o.job.isNone || i.op != .loop then o
    else
      let c := loopCount o o.pc
      let rest := o.loops.filter fun e => e.1 != o.pc
      if c + 1 < i.count then { o with loops := (o.pc, c + 1) :: rest, pc := i.target }
      else { o with loops := rest, pc := o.pc + 1 }
  | none => o

def execLoop (n : Fin 48) (s : State) : Host.Outcome State Fault Refusal :=
  ok (fun s => dispatch n.val (onOven n.val loopStep s)) s

/-- END at the point of dispatch (R240). -/
def endStep (o : Oven) : Oven :=
  match o.instrs[o.pc]? with
  | some i => if o.job.isSome && i.op == .end_ then { o with ended := true } else o
  | none => if o.job.isSome then { o with ended := true } else o

def execOvenEnd (n : Fin 48) (s : State) : Host.Outcome State Fault Refusal := ok (onOven n.val endStep) s

/-! ## Readings (R250) -/

/-- What a dispatched instruction waits for before it starts: a slot or a credit of its Racks, memory while four of the mover's
instructions are in progress, or a hazard (R220, R221, R250). -/
def startWait (s : State) (n k : Nat) (i : OInstr) : Nat :=
  let o := s.oven n
  let dry (l : Nat) : Bool := locKind l == 1 &&
    (match s.inRack n (locPort l) (locSub l) with | some (_, r) => r.slots.isEmpty | none => true)
  let broke (l : Nat) : Bool := match s.outRack n (locPort l) (locSub l) with
    | some (_, r) => r.credits == 0 && !r.discarding
    | none => true
  if !(clearOfHazards o k) then 4
  else if (i.op == .mac || i.op == .glaze || i.op == .starter) && dry i.src then 1
  else if (i.op == .glaze || i.op == .starter) && (dry i.aux2 || (i.op == .glaze && dry i.aux3)) then 1
  else if i.op == .glaze && dstKind i.dst == 1 && broke i.dst then 2
  else if engineOf i.op == .mover && decide (4 ≤ o.disp.countP fun e => engineOf e.ins.op == .mover && e.started) then 3
  else 0

/-- What the oldest unstarted instruction waits for: OVN_STATUS.WAIT. Once every dispatched instruction has started, that is
the next to be dispatched, which may wait for a full queue (R250; DEDUCED, log entry 41). -/
def waitReason (s : State) (n : Nat) : Nat :=
  let o := s.oven n
  match o.disp.findIdx? fun d => !d.started with
  | none => match o.instrs[o.pc]? with
    | some i => if o.job.isSome && !o.ended && queueFull o (engineOf i.op) then 5 else 0
    | none => 0
  | some k => match o.disp[k]? with
    | some d => startWait s n k d.ins
    | none => 0

/-- What the array waits for while it has work dispatched, as an index of OVN_WAITUS (R250): a MAC waits for a hazard, or
for a slot of its Rack. It pushes nothing and reads no memory but its Pantry, so it waits for neither credit nor memory
(R219, R220). -/
def arrayWait (s : State) (n : Nat) : Option Nat :=
  let o := s.oven n
  match o.disp.findIdx? fun d => d.ins.op == .mac with
  | none => none
  | some k =>
    match o.disp[k]? with
    | none => none
    | some d =>
      if !d.started && !(clearOfHazards o k) then some 3
      else if locKind d.ins.src == 1 &&
          (match s.inRack n (locPort d.ins.src) (locSub d.ins.src) with | some (_, r) => r.slots.isEmpty | none => true) then some 0
      else none

/-- OVN_STATUS (R250). -/
def ovnStatus (s : State) (n : Nat) : Word :=
  let o := s.oven n
  let st := if !o.loaded then 0 else if o.job.isSome then 2 else if o.stopped then 3 else if o.jobs.isEmpty then 1 else 2
  BitVec.ofNat 32 (st + 4 * waitReason s n + (if o.taint && o.job.isSome then 32 else 0) + 65536 * (o.pc % 1024))

end Sys2Proof.Machine
end

