-- ==== Sys2Proof/Machine/Mover.lean ====
section
/-! DEFINITION. The mover's FETCH and FLUSH, requests at shared targets, host-window reads (R204–R208, R247, R282–R298). -/
namespace Sys2Proof.Machine

/-! ## Addresses of FETCH and FLUSH (R247, R393) -/

/-- The ring term of R247. -/
def ringTerm (o : Oven) (i : OInstr) (pass : Nat) : Int :=
  if i.ringed then (pass % (max 1 o.ringLen) * i.rstride * 4096 : Nat) else 0

/-- The device address of byte `w` of a FETCH or FLUSH, rows in order (R247). -/
def moverAddr (o : Oven) (pass : Nat) (d : DInstr) : Nat :=
  let i := d.ins
  ((i.maddr + (d.w / i.len : Nat) * i.dstep + d.iter * i.daddr + ringTerm o i pass + (d.w % i.len : Nat)) % 2 ^ 40).toNat

/-- The Pantry offset of byte `w` (R247). -/
def moverPantry (d : DInstr) : Nat :=
  (pantryAt d.ins.saddr d.ins.sstep d.ins.istride (d.w / d.ins.len) d.iter + d.w % d.ins.len) % 2 ^ 21

/-- The translation of a Stream Channel's views (R393): the first view that holds the address. -/
def viewAddr (j : Job) (a : Nat) : Nat :=
  match j.views.find? fun v => decide (v.1 ≤ a ∧ a < v.1 + v.2.1) with
  | some v => (v.2.2 + (a - v.1)) % 2 ^ 40
  | none => a

/-! ## Where an access waits -/

/-- How a job's access goes on: to a shared target, to the host, to a remote Star, or to its answer at once. -/
inductive Route where
  | target (t : Nat)
  | host (port : PPort) (k fn addr : Nat)
  | remote (home addr : Nat)
  | now
  deriving DecidableEq, Repr

/-- The way of an access of `n` bytes by a master: refused accesses are answered at once (R204, R578). -/
def routeOf (s : State) (w : Who) (write : Bool) (addr n : Nat) : Route :=
  match destOf s addr with
  | .dram a => if s.permits 0 w.m write a n && s.on (133 + channelOf a) then .target (channelOf a) else .now
  | .pantry k off => if s.permits (2 + k) w.m write off n && s.on (48 + k) then .target (32 + k) else .now
  | .host k fn ha a =>
    if !write && s.permits 1 w.m false a n && s.portUp (s.winPort fn) then .host (s.winPort fn) k fn ha else .now
  | .remote h a => .remote h a
  | _ => .now

/-- A request joins a target's queue. -/
def addReq (t cls g : Nat) (deadline : Int) (size : Nat) (op : ReqOp) (s : State) : State :=
  { s with fab := { s.fab with reqs := s.fab.reqs ++ [⟨t, classIn g cls, g, deadline, s.epoch, size, false, op⟩] } }

/-- Outstanding non-posted requests that a port issues: 768 with 10-bit Tag Requester Enable set on port A, else 256 (R440). -/
def hostLimit (s : State) (p : PPort) : Nat :=
  if p = .a ∧ bitsOf 12 12 (s.cfgWord (pfOf p) 0x98) = 1 then 768 else 256

/-- Whether a port has room for another outstanding request. -/
def hostRoom (s : State) (p : PPort) : Bool :=
  decide ((s.mem.hostReads.countP fun h => h.port == p && h.sent) < hostLimit s p)

/-- The request of a host-window read goes out, with its tag. -/
def sendHostRead (h : HostRead) (s : State) : State := s.out (.hostRead h.port h.fn h.addr h.len h.tag)

/-- A host-window read is translated and takes a tag; its request goes out as soon as its port has room (R295, R296, R440). -/
def issueHost (port : PPort) (k fn addr len : Nat) (op : ReqOp) (s : State) : State :=
  let h : HostRead := ⟨s.mem.nextTag, port, fn, k, addr, len, op, s.epoch, hostRoom s port⟩
  let s := s.fadd (Fld.MEM_HWIN_CTRL_INFLIGHT k) 1
  let s := { s with mem := { s.mem with nextTag := s.mem.nextTag + 1, hostReads := s.mem.hostReads ++ [h] } }
  if h.sent then sendHostRead h s else s

/-- A job notes a remote Star it has accessed (R344). -/
def noteHome (id h : Nat) (s : State) : State := onJob id (fun j => { j with homes := putBit h true j.homes }) s

/-! ## Blocks of FETCH and FLUSH -/

/-- A dispatched instruction by its serial number: its position. -/
def dispOf (s : State) (n uid : Nat) : Option (Nat × DInstr) :=
  let o := s.oven n
  match o.disp.findIdx? fun d => d.uid == uid with
  | some k => (o.disp[k]?).map fun d => (k, d)
  | none => none

/-- A block is done: a FETCH's bytes enter the Pantry, poison taints the pass, and the job learns what went wrong (R222,
R242, R243). -/
def blockDone (n uid pantry len : Nat) (fetch : Bool) (r : AccRes) (s : State) : State :=
  match dispOf s n uid with
  | none => s
  | some (k, d) =>
    let s := if fetch then s.putPantry n pantry r.data else s
    let s := if fetch && r.poison then onOven n (fun o => { o with taint := true }) s else s
    let s := match (s.oven n).job with
      | some id => onJob id (fun j => { j with poisoned := j.poisoned || (!fetch && r.poison) }) (noteAccess id r s)
      | none => s
    onDisp n k (fun _ => { d with w := d.w + len, waiting := 0 }) s

/-- The next block of a mover instruction is issued; one answered at once is followed by the next; `fuel` bounds them. -/
def moverRun (n uid : Nat) : Nat → State → State
  | 0, s => s
  | fuel + 1, s =>
    match dispOf s n uid, passJob s n with
    | some (k, d), some j =>
      let i := d.ins
      if d.waiting ≠ 0 then s
      else if i.len * i.count ≤ d.w then dispatch n (finishDisp n k s)
      else
        let fetch := i.op == .fetch
        let w := Who.forJob j
        let a := viewAddr j (moverAddr (s.oven n) j.pass d)
        let len := pieceLen a (i.len - d.w % i.len)
        let p := moverPantry d
        let g := groupOf j.bakery
        let due := j.deadline.getD (2 ^ 64)
        let data := if fetch then [] else s.pantryBytes n p len
        let taint := (s.oven n).taint
        let op : ReqOp := if fetch then .fetch n uid a len p else .flush n uid a data taint
        let wait (s : State) : State := onDisp n k (fun d => { d with started := true, waiting := 1 }) s
        match routeOf s w (!fetch) a len with
        | .target t => wait (addReq t j.cls g due len op s)
        | .host port hk fn ha => wait (issueHost port hk fn ha len op s)
        | .remote h ra =>
          let mop := if fetch then MerOp.rd else writeOp ra len
          wait (issueRemote h (blockMsg s mop j.cls j.ctx ra due data taint) g due op (noteHome j.id h s))
        | .now =>
          let s := onDisp n k (fun d => { d with started := true }) s
          let e : ExtReply := ⟨[], .ok⟩
          let (r, s) := if fetch then readPiece w a len [] e s else writePiece w a data taint [] e s
          moverRun n uid fuel (blockDone n uid p len fetch r s)
    | _, _ => s

/-- The bound of a mover instruction's blocks. -/
def moverFuel (d : DInstr) : Nat := d.ins.len * d.ins.count + 1

/-- FETCH or FLUSH: the mover starts its next instruction, if it is of that kind (R220, R247). -/
def moverStart (n : Nat) (op : OvenOp) (s : State) : State :=
  match headOf (s.oven n) fun d => engineOf d.ins.op == .mover && !d.started with
  | none => s
  | some (k, d) =>
    if d.ins.op = op then
      moverRun n d.uid (moverFuel d) (dispatch n (onDisp n k (fun d => { d with started := true }) s))
    else s

def execFetch (n : Fin 48) (s : State) : Host.Outcome State Fault Refusal := ok (moverStart n.val .fetch) s

def execFlush (n : Fin 48) (s : State) : Host.Outcome State Fault Refusal := ok (moverStart n.val .flush) s

/-- A block is done, and the instruction goes on. -/
def blockNext (n uid pantry len : Nat) (fetch : Bool) (r : AccRes) (s : State) : State :=
  let s := blockDone n uid pantry len fetch r s
  match dispOf s n uid with
  | some (_, d) => moverRun n uid (moverFuel d) s
  | none => s

/-! ## Remote requests at this Star (R330, R331) -/

/-- The group and the master of a guest access (R205, R329). -/
def guestOf (s : State) (m : MerMsg) : Option Guest :=
  s.mer.guests.find? fun g => g.src == m.srcHome && decide (g.first ≤ m.master ∧ m.master < g.first + g.count)

/-- The group of a proxy ID. -/
def proxyGroup (s : State) (proxy : Nat) : Nat :=
  match s.mer.guests.find? fun g => decide (g.proxy ≤ proxy ∧ proxy < g.proxy + g.count) with
  | some g => groupOf g.bakery
  | none => 16

/-- The answer to a remote request: STATUS, data, poison, sent to the Star that issued it (R320, R325). -/
def answerRemote (m : MerMsg) (g status : Nat) (data : List Byte) (poison : Bool) (s : State) : State :=
  let read := m.op == .rd
  let a : MerMsg := { m with
    op := if read then .rdc else .wra
    status := status
    poison := poison
    enables := 0
    data := if read then (data ++ List.replicate 64 0).take 64 else [] }
  match routeLink s m.srcHome m.addr with
  | some l => enqueueMsg l m.cls g ((m.deadline * 1000 : Nat) : Int) a s
  | none => s

/-- STATUS of a result: DENIED for a refusal, LOST for a lost Star (R320, R330). -/
def statusOf (r : AccRes) : Nat := if r.lost.isSome then 2 else if r.refused.isSome then 1 else 0

/-- The runs of enabled bytes of a masked write: offset and bytes. -/
def enabledRuns (en : Nat) : Nat → List Byte → List (Nat × List Byte) → List (Nat × List Byte)
  | _, [], acc => acc.reverse
  | k, b :: bs, acc =>
    if en.testBit k then
      match acc with
      | (o, r) :: rest => if o + r.length = k then enabledRuns en (k + 1) bs ((o, r ++ [b]) :: rest)
                          else enabledRuns en (k + 1) bs ((k, [b]) :: acc)
      | [] => enabledRuns en (k + 1) bs [(k, [b])]
    else enabledRuns en (k + 1) bs acc

/-- The errors that the blocks of a run report: its first block is block `first` of the access, and `used` blocks have been
accessed by the runs before it, which have reported theirs. -/
def runErrs (used first : Nat) (errs : List MemErr) : List MemErr :=
  List.replicate (used - first) .none ++ errs.drop (max used first)

/-- A masked write's runs performed one after another; those in one block are one access of it. -/
def writeRuns (w : Who) (base : Nat) (p : Bool) (errs : List MemErr) (e : ExtReply) :
    Nat → List (Nat × List Byte) → State → AccRes × State
  | _, [], s => (AccRes.good [], s)
  | used, (o, d) :: rs, s =>
    let (r, s) := writeBytes w (base + o) d p (runErrs used ((base % 64 + o) / 64) errs) e s
    let (r', s) := writeRuns w base p errs e ((base % 64 + o + d.length + 63) / 64) rs s
    (r.append r', s)

/-- A guest's accesses: its proxy ID, in its group and the class its message carries (R205, R329, R330). -/
def Who.guest (s : State) (m : MerMsg) (proxy : Nat) : Who :=
  ⟨proxy, true, false, m.cls, proxyGroup s proxy, ((m.deadline * 1000 : Nat) : Int), true⟩

/-- A guest's request is performed under its proxy ID and answered, and its units return to their pool (R321, R330). -/
def performGuest (l : Nat) (m : MerMsg) (proxy : Nat) (errs : List MemErr) (e : ExtReply) (s : State) : State :=
  let w := Who.guest s m proxy
  let base := m.addr / 64 * 64
  let g := proxyGroup s proxy
  returnUnits l m (match m.op with
  | .rd =>
    let (r, s) := readBytes w base 64 errs e s
    answerRemote m g (statusOf r) r.data r.poison s
  | .wrf =>
    let (r, s) := writeBytes w base m.data m.poison errs e s
    answerRemote m g (statusOf r) [] false s
  | _ =>
    let (r, s) := writeRuns w base m.poison errs e 0 (enabledRuns m.enables 0 m.data []) s
    answerRemote m g (statusOf r) [] false s)

/-! ## The window that this Star's Set copies (R340) -/

/-- The Star-local DRAM address of a permitted write that the Set holds: it lies in the window being copied (R340). -/
def heldAt (s : State) (w : Who) (addr n : Nat) : Option Nat :=
  match destOf s addr with
  | .dram a => if s.holds a && s.permits 0 w.m true a n && s.on (133 + channelOf a) then some a else none
  | _ => none

/-- The next 64 bytes of the window are asked for, in the system group as Prompt (R340). -/
def askCopy (off : Nat) (s : State) : State :=
  match s.mem.holding with
  | some (b, n) => if off < n then addReq (channelOf (b % 2 ^ 37 + off)) 1 16 0 64 (.setCopy off) s else s
  | none => s

/-- The master ID that the messages of a Set's copy carry: Zenith's, which makes no memory access (DESIGN CHOICE, log entry
16). -/
def setMaster : Nat := 0x418

/-- 64 bytes of the window have been read: they go to the accepting Star, and the next are asked for (R340). -/
def copyBlock (off : Nat) (errs : List MemErr) (s : State) : State :=
  match s.mem.holding, s.mer.set.bind (·.accepted) with
  | some (b, _), some (h, addr) =>
    let (r, s) := dramRead (Who.plain 0) (b % 2 ^ 37 + off) 64 (errOf errs) (dramService { Who.plain 0 with paid := true } (b % 2 ^ 37 + off) 64 false s)
    askCopy (off + 64) (issueRemote h (blockMsg s .wrf 1 setMaster (addr + off) 0 r.data r.poison) 16 0 (.setCopy off) s)
  | _, _ => s

/-! ## Serving a request (R206, R282–R288) -/

/-- What a served request does; a write that the Set holds waits, unacknowledged (R340). -/
def performOp (op : ReqOp) (errs : List MemErr) (e : ExtReply) (s : State) : State :=
  match op with
  | .fetch n uid a len p =>
    match passJob s n with
    | some j =>
      let (r, s) := readPiece { Who.forJob j with paid := true } a len errs e s
      blockNext n uid p len true r s
    | none => s
  | .flush n uid a d poison =>
    match passJob s n with
    | some j =>
      match heldAt s (Who.forJob j) a d.length with
      | some x => holdWrite x d poison op s
      | none =>
        let (r, s) := writePiece { Who.forJob j with paid := true } a d poison errs e s
        blockNext n uid 0 d.length false r s
    | none => s
  | .guest l m proxy =>
    match heldAt s (Who.guest s m proxy) (m.addr / 64 * 64) 64 with
    | some x => if m.op = .rd then performGuest l m proxy errs e s else holdWrite x m.data m.poison op s
    | none => performGuest l m proxy errs e s
  | .message l m from_ =>
    let s := sendMsg l m s
    match from_ with
    | some k => returnUnits k m s
    | none => s
  | .posted _ => s
  | .setCopy off => copyBlock off errs s
  | .rx _ _ k a d =>
    match heldAt s (Who.stream s k) a d.length with
    | some x => holdWrite x d false op s
    | none => (writePiece { Who.stream s k with paid := true } a d false errs e s).2

/-- What an answer from outside does for the request that waited for it. -/
def resolveOp (op : ReqOp) (r : AccRes) (s : State) : State :=
  match op with
  | .fetch n uid _ len p => blockNext n uid p len true { r with data := (r.data ++ List.replicate len 0).take len } s
  | .flush n uid _ d _ => blockNext n uid 0 d.length false r s
  | .guest _ m proxy => answerRemote m (proxyGroup s proxy) (statusOf r) r.data r.poison s
  | .message _ _ _ => s
  | .posted _ => s
  | .setCopy _ => { s with mer := { s.mer with set := s.mer.set.map fun t => { t with copied := t.copied + 64 } } }
  | .rx _ _ _ _ _ => s

/-- Who made an access that is outstanding. -/
def opWho (s : State) : ReqOp → Who
  | .fetch n _ _ _ _ => (match passJob s n with | some j => Who.forJob j | none => Who.plain 0)
  | .flush n _ _ _ _ => (match passJob s n with | some j => Who.forJob j | none => Who.plain 0)
  | .guest _ m p => Who.guest s m p
  | .message _ m _ => Who.plain m.master
  | .posted m => Who.plain m
  | .setCopy _ => Who.plain 0
  | .rx _ _ k _ _ => Who.stream s k

/-- The device address of an operation, its length, and whether it writes. -/
def opAccess (s : State) : ReqOp → Nat × Nat × Bool
  | .fetch _ _ a len _ => (a, len, false)
  | .flush _ _ a d _ => (a, d.length, true)
  | .guest _ m _ => (m.addr, if m.op = .wrm then 32 else 64, m.op != .rd)
  | .message _ m _ => (m.addr, 0, false)
  | .posted _ => (0, 0, false)
  | .setCopy off => (match s.mem.holding with | some (b, _) => b + off | none => 0, 64, false)
  | .rx _ _ _ a d => (a, d.length, true)

/-- The Star-local DRAM address of an operation. -/
def opDram (s : State) (op : ReqOp) : Option Nat :=
  match destOf s (opAccess s op).1 with
  | .dram a => some a
  | _ => none

/-- Units that a request is charged at its target (R204, R284, R320). -/
def unitsOf (s : State) (r : MemReq) : Nat :=
  if 32 ≤ r.target then (r.size + 31) / 32
  else if 16 ≤ r.target then r.size / 16
  else dramUnits s ((opDram s r.op).getD 0) (opAccess s r.op).2.1 (opAccess s r.op).2.2

/-- The master and the 64-byte block whose accesses keep their order at a channel or on a link (R288, R322). -/
def orderKey (s : State) (r : MemReq) : Option (Nat × Nat × Nat) :=
  if r.target < 16 then (opDram s r.op).map fun a => (s.home, (opWho s r.op).m, a / 64)
  else match r.op with
  | .message _ m _ => (match m.op with
    | .rd => some (m.srcHome, m.master, m.addr / 64)
    | .wrf => some (m.srcHome, m.master, m.addr / 64)
    | .wrm => some (m.srcHome, m.master, m.addr / 64)
    | _ => none)
  | _ => none

/-- Whether a request waits behind an earlier one of its master to its block (R288, R322). -/
def behind (s : State) (r : MemReq) (earlier : List MemReq) : Bool :=
  match orderKey s r with
  | none => false
  | some k => earlier.any fun q => q.target == r.target && orderKey s q == some k

/-- Whether an operation awaits read data. -/
def opReads : ReqOp → Bool
  | .fetch _ _ _ _ _ => true
  | .guest _ m _ => m.op == .rd
  | _ => false

/-- Reads of this Star that are out on a link: issued, and their RD sent (R321). -/
def readsOut (s : State) (l : Nat) : Nat :=
  (s.mem.remote.countP fun q => q.link == l && opReads q.op) -
    (s.fab.reqs.countP fun q => match q.op with | .message k m _ => k == l && m.op == .rd && m.srcHome == s.home | _ => false)

/-- Whether a request can be served now: a message only while its link can send it, and an RD of this Star only with room for
its RDC among the 4,096 units of the pool (R321). -/
def servable (s : State) (r : MemReq) : Bool :=
  match r.op with
  | .message l m _ =>
    canSend s l m && (m.op != .rd || m.srcHome != s.home || decide (5 * (readsOut s l + 1) ≤ 4096))
  | _ => true

/-- The requests of a target that can be chosen, by position. -/
def candsOf (s : State) (t : Nat) : List Cand :=
  ((List.range s.fab.reqs.length).zip s.fab.reqs).filterMap fun (i, r) =>
    if r.target = t && !(behind s r (s.fab.reqs.take i)) && servable s r then
      let u := unitsOf s r
      some ⟨i, r.cls, r.group, r.deadline, i, u, u * unitBytes t, r.promoted⟩
    else none

/-- A service opportunity of a DRAM channel, a link egress or a Pantry port (R206–R208, R284, R286). -/
def serveReq (t : Nat) (errs : List MemErr) (s : State) : State :=
  let ch := choose s t (candsOf s t)
  match ch.key? with
  | none => s
  | some i =>
    match s.fab.reqs[i]? with
    | none => s
    | some r =>
      let s := charge t ch s
      performOp r.op errs ⟨[], .ok⟩ { s with fab := { s.fab with reqs := s.fab.reqs.eraseIdx i } }

/-- BULK_PROMOTION at a target with queued requests: the oldest Bulk request that has waited for BULK_AGE (R208; DEDUCED, log entry 10). -/
def promoteReq (t : Nat) (s : State) : State :=
  match s.fab.reqs.findIdx? fun r => r.target == t && r.cls == 2 && !r.promoted && decide (r.t + bulkAge s ≤ s.epoch) with
  | none => s
  | some i => { (s.fadd (Fld.FAB_TGT_PROMOTED_COUNT t) 1) with
      fab := { s.fab with reqs := s.fab.reqs.modify i fun r => { r with promoted := true } } }

/-! ## Host-window reads (R296, R297, R448, R450) -/

/-- The oldest read of a port that waits for room goes out, if there is room now and the port is up (R440, R450). -/
def sendWaiting (p : PPort) (s : State) : State :=
  match s.mem.hostReads.find? fun h => h.port == p && !h.sent with
  | none => s
  | some h =>
    if !(hostRoom s p) || !(s.portUp p) then s
    else
      let sent (x : HostRead) : HostRead := if x.tag = h.tag then { x with sent := true, t := s.epoch } else x
      sendHostRead h { s with mem := { s.mem with hostReads := s.mem.hostReads.map sent } }

/-- A read is no longer in flight. -/
def dropHostRead (h : HostRead) (s : State) : State :=
  let s := s.fset (Fld.MEM_HWIN_CTRL_INFLIGHT h.hwin) (s.fget (Fld.MEM_HWIN_CTRL_INFLIGHT h.hwin) - 1)
  sendWaiting h.port { s with mem := { s.mem with hostReads := s.mem.hostReads.filter fun x => x.tag != h.tag } }

/-- The Star-local address of a host-window read, for its record. -/
def opLocal : ReqOp → Nat
  | .fetch _ _ a _ _ => a % 2 ^ 37
  | .flush _ _ a _ _ => a % 2 ^ 37
  | .guest _ m _ => m.addr % 2 ^ 37
  | _ => 0

/-- A host-window read ends with an answer, or with none (R297). -/
def hostReadEnds (h : HostRead) (e : ExtReply) (s : State) : State :=
  let w := opWho s h.op
  let s := dropHostRead h s
  if e.status = .ok then resolveOp h.op (AccRes.good ((e.data ++ List.replicate h.len 0).take h.len)) s
  else
    let s := logHostRead w h.port (hostFail e.status) (opLocal h.op) s
    resolveOp h.op (AccRes.read (List.replicate h.len 0) true) s

/-- HOST_READ_COMPLETION. -/
def hostReadCompletion (tag : Nat) (e : ExtReply) (s : State) : State :=
  match s.mem.hostReads.find? fun h => h.tag == tag && h.sent with
  | some h => hostReadEnds h e s
  | none => s

def execHostReadCompletion (tag : Nat) (e : ExtReply) (s : State) : Host.Outcome State Fault Refusal :=
  ok (hostReadCompletion tag e) s

/-- The completion timeout of a port in ns (R448). -/
def hostTimeout (s : State) (p : PPort) : Nat :=
  match bitsOf 3 0 (s.cfgWord (pfOf p) 0x98) with
  | 1 => 80000
  | 2 => 8000000
  | 6 => 160000000
  | _ => 40000000

/-- COMPLETION_TIMEOUT: a read that has waited for the port's timeout (R448). -/
def completionTimeout (tag : Nat) (s : State) : State :=
  match s.mem.hostReads.find? fun h => h.tag == tag && h.sent with
  | some h => if h.t + hostTimeout s h.port ≤ s.epoch then hostReadEnds h ⟨[], .timeout⟩ s else s
  | none => s

def execCompletionTimeout (tag : Nat) (s : State) : Host.Outcome State Fault Refusal := ok (completionTimeout tag) s

end Sys2Proof.Machine
end

