-- ==== Sys2Proof/Machine/SetOps.lean ====
section
/-! DEFINITION. The messages of a Set and the progress of this Star's own Set (R340), as the loss of a Star needs them. -/
namespace Sys2Proof.Machine

/-- CTL messages between Stars, numbered by this model (DESIGN CHOICE, log entry 17): route announcement, withdrawal, the messages of a
Set, their answers. -/
def ctlAnnounce : Nat := 1
def ctlWithdraw : Nat := 2
def ctlNotice : Nat := 3
def ctlOffer : Nat := 4
def ctlAnswer : Nat := 5
def ctlRelocate : Nat := 6
def ctlFinal : Nat := 7
def ctlAck : Nat := 8
def ctlDone : Nat := 9

/-- The state with every window changed. -/
def onWins (g : Window → Window) (s : State) : State :=
  { s with mem := { s.mem with wins := s.mem.wins.map fun e => (e.1, g e.2) } }

/-- The homes that this Star announces: every home it routes, itself included. -/
def announced (s : State) : List Nat := (List.range 8).filter fun h => s.routed h

/-- A CTL message to a Star, along the route to it. -/
def ctlTo (h : Nat) (m : MerMsg) (s : State) : State :=
  match routeLink s h 0 with
  | some l => sendCtl l m s
  | none => s

/-- A CTL message of a kind with its fields, to a Star. -/
def setMsg (h kind : Nat) (fields : List Nat) (s : State) : State :=
  ctlTo h { blankMsg s .ctl with ctlKind := kind, ctl := h :: fields } s

/-- A CTL message to every other routed Star. -/
def setAll (kind : Nat) (fields : List Nat) (s : State) : State :=
  ((announced s).filter fun h => h != s.home).foldl (fun s h => setMsg h kind fields s) s

/-- The state with the Set in progress changed. -/
def onSet (g : SetState → SetState) (s : State) : State := { s with mer := { s.mer with set := s.mer.set.map g } }

/-- The other routed Stars, in ascending home ID. -/
def others (s : State) : List Nat := (announced s).filter fun h => h != s.home

/-- The table of relocations is full: another would be the 65th (R340). -/
def relocsFull (s : State) (base : Nat) : Bool :=
  decide (64 ≤ s.mem.relocs.countP fun r => r.2.2.isSome && r.1 != base)

/-- A window's relocation, or its darkness, on this Star, in place of an earlier one of that window (R340). -/
def addReloc (base size : Nat) (newBase : Option Nat) (s : State) : State :=
  let s := { s with mem := { s.mem with
    relocs := s.mem.relocs.filter (fun r => r.1 != base) ++ [(base, size, newBase)] } }
  if newBase.isNone then onWins (fun w => if w.kind = 0 ∧ w.base = base then { w with setDark := true } else w) s else s

/-- The homes that a window needs: the members of a Striped one; of a Homed one its home, or the Star it has been relocated
to (R290, R337, R344). -/
def windowHomes (s : State) (w : Window) : List Nat :=
  if w.kind = 1 then bitsSet 8 w.members
  else if w.kind = 0 then
    match (s.mem.relocs.find? fun r => r.1 == w.base).bind fun r => r.2.2 with
    | some a => [a / 2 ^ 37 % 8]
    | none => [w.base / 2 ^ 37]
  else []

/-! ## Writes that a Set holds (R340) -/

/-- No window is copied any more, and nothing is held. -/
def stopHolding (s : State) : State := { s with mem := { s.mem with holding := none, held := [] } }

/-- A held write reaches the window here after all: no Star holds a copy of it. -/
def releaseOne (x : HeldWrite) (s : State) : State :=
  match x.op with
  | .posted m =>
    let w := Who.plain m
    dramWrite w x.addr x.data x.poison .none (dramService w x.addr x.data.length true s)
  | op => performOp op [] ⟨[], .ok⟩ s

/-- The held writes are performed here, in the order they arrived. -/
def releaseHeld (s : State) : State := s.mem.held.foldl (fun s x => releaseOne x s) (stopHolding s)

/-- A held write goes to the window's new home, whoever made it: a remote Star's message as that Star sent it (R326, R340). -/
def forwardHeld (base new : Nat) (x : HeldWrite) (s : State) : State :=
  let addr := new + (x.addr - base % 2 ^ 37)
  let h := addr / 2 ^ 37 % 8
  match x.op, routeLink s h addr with
  | .guest l m _, some k => enqueueFrom (some l) k 1 16 0 { m with addr } s
  | .guest l m _, none => returnUnits l m (answerRemote m 16 2 [] false s)
  | op, some _ => issueRemote h (blockMsg s (writeOp addr x.data.length) 1 (opWho s op).m addr 0 x.data x.poison) 16 0 op s
  | op, none => resolveOp op (lostRes 0 h) s

/-- The held writes go to the new home, in the order they arrived. -/
def forwardAll (base new : Nat) (s : State) : State :=
  s.mem.held.foldl (fun s x => forwardHeld base new x s) (stopHolding s)

/-! ## The progress of a Set (R340) -/

/-- A window that WINDOWS does not define. -/
def noWindow : Window := ⟨0, none, 0, 0, 0, 0, 0, 0, false, false⟩

/-- Every other Star is told where a window has gone, or that it is dark, and each is to acknowledge. -/
def tellWindow (win : Window) (newBase : Option Nat) (stage : SetStage) (s : State) : State :=
  setAll ctlRelocate (win.base :: win.size :: newBase.toList)
    (onSet (fun t => { t with
      stage, acks := others s, anyDark := false, accepted := newBase.bind fun _ => t.accepted }) s)

/-- The Set goes on to its next window. -/
def nextWindow (relocated dark : Nat) (s : State) : State :=
  onSet (fun t => { t with
    wins := t.wins.drop 1, asking := others s, accepted := none, copied := 0, stage := .offer
    relocated := t.relocated + relocated, dark := t.dark + dark }) s

/-- The Set goes on once no acknowledgement is awaited: the next offer goes out; a window that every Star has declined is
left dark; a relocation that every Star has acknowledged is installed here, unless it was the 65th on one of them; after
the last window SET_FINAL goes out. `fuel` bounds the steps. -/
def setProceed : Nat → State → State
  | 0, s => s
  | fuel + 1, s =>
    match s.mer.set with
    | none => s
    | some t =>
      if !t.acks.isEmpty then s
      else match t.wins with
      | [] => if t.stage = .final then s
              else setAll ctlFinal [s.home] (onSet (fun t => { t with stage := .final, acks := others s }) s)
      | w :: _ =>
        let win := spGet noWindow s.mem.wins w
        match t.stage with
        | .offer =>
          match t.asking with
          | h :: _ => setMsg h ctlOffer [s.home, win.base, win.size] s
          | [] => setProceed fuel (tellWindow win none .dark s)
        | .relocate =>
          match t.accepted with
          | none => s
          | some (_, addr) =>
            if t.anyDark || relocsFull s win.base then setProceed fuel (tellWindow win none .dark (releaseHeld s))
            else setProceed fuel (nextWindow 1 0 (forwardAll win.base addr (addReloc win.base win.size (some addr) s)))
        | .dark => setProceed fuel (nextWindow 0 1 (addReloc win.base win.size none s))
        | _ => s

/-- The bound of the steps of a Set. -/
def setFuel (s : State) : Nat := 3 * s.mem.wins.length + 2

/-- A Set that may go on does. -/
def setGoesOn (s : State) : State := setProceed (setFuel s) s

/-- A Star that is lost takes no further part in this Star's Set: its acceptance is void and the next Star is asked, and its
acknowledgement is no longer awaited (R340, R344). -/
def setLoses (h : Nat) (s : State) : State :=
  match s.mer.set with
  | none => s
  | some t =>
    let voids := match t.accepted with | some a => a.1 == h | none => false
    let asked := t.stage = .offer ∧ t.asking.head? = some h
    let awaited := t.acks.contains h
    let s := onSet (fun t => { t with asking := t.asking.filter (fun x => x != h), acks := t.acks.filter fun x => x != h }) s
    if voids then
      setGoesOn (onSet (fun t => { t with accepted := none, copied := 0, acks := [], stage := .offer }) (releaseHeld s))
    else if asked ∨ awaited then setGoesOn s
    else s

end Sys2Proof.Machine
end

