-- ==== Sys2Proof/Machine/MerLinks.lean ====
section
/-! DEFINITION. Meridian links: training, identity, the link layer, loss of links and of Stars (R312–R323, R341–R345). -/
namespace Sys2Proof.Machine

/-- Whether the link layer and the lanes of a link are powered, and their transmitters not idle under THERMTRIP_N or while
MODULE_PRES_N is high (R155, R172, R183; DEDUCED, log entry 20). -/
def linkOn (s : State) (l : Nat) : Bool :=
  s.on (149 + l) && s.on (153 + l) && !s.pwr.tripped && !s.pwr.pins.modulePresN

/-- A command of a link that acts in one state of it, while the link is powered. -/
def inState (l v : Nat) (g : State → State) (s : State) : State := if linkOn s l && linkState s l == v then g s else s

/-- MER_STATUS.REACH and TIME_ROOT follow the routes (R324, R333, R347). -/
def syncReach (s : State) : State :=
  let hs := (List.range 8).filter fun h => s.routed h
  (s.fset Fld.MER_STATUS_REACH ((hs.map fun h => 2 ^ h).sum)).fset Fld.MER_STATUS_TIME_ROOT (hs.headD s.home)

/-! ## Training (R315, R316) -/

/-- The state a link waits in for its peer: DETECT, or DISABLED while DISABLE is set or no LINK entry names it. -/
def idleState (s : State) (l : Nat) : Nat :=
  if (s.mlink l).decl && s.fget (Fld.MER_LINK_CTRL_DISABLE l) = 0 then 1 else 0

/-- LINK_DETECT: from DETECT, and from LEFT once MODULE_EJECT_N is high (R185, R315). -/
def linkDetect (l : Nat) (s : State) : State :=
  if linkOn s l && (linkState s l == 1 || (linkState s l == 7 && s.pwr.pins.moduleEjectN)) then
    setLinkState l 2 (onLink l (fun k => { k with gen2At := none, identOk := false }) s)
  else s

def execLinkDetect (l : Fin 4) (s : State) : Host.Outcome State Fault Refusal := ok (linkDetect l.val) s

/-- A link goes back to waiting for its peer: its generation, its identity and its part in Rise are gone, and a link that
was in service may try Meridian-2 again (R315, R316). A request or a message that came over it returns no credits on it. -/
def resetLink (l : Nat) (s : State) : State :=
  let s := if inService s l then s.fset (Fld.MER_LINK_STATUS_FALLBACK l) 0 else s
  let s := onLink l (fun k => { k with
    gen2At := none, identOk := false, rising := false, said := none, installed := false, leftBySet := false,
    tx := 0xFFF, acked := 0xFFF, rx := 0xFFF, req := 0, rsp := 0, ctl := 0, ctlQ := [], replay := [], retries := 0,
    winTx := 0, winReplays := 0, noisy := false }) s
  let leave (op : ReqOp) : ReqOp := match op with
    | .guest k m p => if k = l then .guest 4 m p else op
    | .message k m (some i) => if i = l then .message k m none else op
    | _ => op
  let s := { s with
    fab := { s.fab with reqs := s.fab.reqs.map fun q : MemReq => { q with op := leave q.op } }
    mem := { s.mem with held := s.mem.held.map fun x : HeldWrite => { x with op := leave x.op } } }
  s.fset (Fld.MER_LINK_STATUS_GEN l) 0

/-- A link returns to DETECT, or to DISABLED (R315). -/
def dropLink (l : Nat) (s : State) : State :=
  let s := resetLink l s
  setLinkState l (idleState s l) s

/-- A link enters IDENT at a generation, and this end sends its identity (R316, R317). -/
def enterIdent (l gen : Nat) (s : State) : State :=
  let s := (onLink l (fun k => { k with gen2At := none }) s).fset (Fld.MER_LINK_STATUS_GEN l) gen
  (setLinkState l 3 s).out (.merIdent l s.mer.constId s.home (s.reg Reg.DEVICE_ID) Config.unitIdentity)

/-- Meridian-2 training has failed: the link trains at Meridian-1 again (R316). -/
def fallBack (l : Nat) (s : State) : State :=
  (onLink l (fun k => { k with gen2At := none }) s).fset (Fld.MER_LINK_STATUS_FALLBACK l) 1

/-- MERIDIAN_TRAIN_DONE: lanes in an order that Untal cannot correct make training fail (R313). At the end of Meridian-1
training this end sends its MAX_GEN, and the lower one decides whether the link retrains; Meridian-2 training that took more
than 30 ms falls back (R316). -/
def trainDone (l peerGen : Nat) (lanes : List (Fin 8 × Bool)) (s : State) : State :=
  inState l 2 (fun s =>
    match laneOrder lanes with
    | none => dropLink l s
    | some reversed =>
      let s := s.fset (Fld.MER_LINK_STATUS_REVERSED l) (if reversed then 1 else 0)
      match (s.mlink l).gen2At with
      | some t => if t + 30000000 < s.epoch then fallBack l s else enterIdent l 2 s
      | none =>
        let own := s.fget (Fld.MER_LINK_STATUS_MAX_GEN l)
        let s := s.out (.merGen l own)
        if min own peerGen = 2 && s.fget (Fld.MER_LINK_STATUS_FALLBACK l) = 0 then
          onLink l (fun k => { k with gen2At := some s.epoch }) s
        else enterIdent l 1 s) s

def execMeridianTrainDone (l : Fin 4) (peerGen : Nat) (lanes : List (Fin 8 × Bool)) (s : State) :
    Host.Outcome State Fault Refusal := ok (trainDone l.val peerGen lanes) s

/-- GEN2_FALLBACK: Meridian-2 training has run for 30 ms, or has ended with too many symbol errors (R316). -/
def gen2Fallback (l : Nat) (errors : Bool) (s : State) : State :=
  inState l 2 (fun s =>
    match (s.mlink l).gen2At with
    | some t => if errors || decide (t + 30000000 ≤ s.epoch) then fallBack l s else s
    | none => s) s

def execGen2Fallback (l : Fin 4) (errors : Bool) (s : State) : Host.Outcome State Fault Refusal :=
  ok (gen2Fallback l.val errors) s

/-! ## Identity (R317) -/

/-- The other links over which a Star is reached directly. -/
def directLinks (s : State) (l home : Nat) : List Nat :=
  (List.range 4).filter fun k => k != l && (s.mlink k).installed && peerHomeOf s k == home &&
    (liveMask s home).testBit k

/-- Why an identity is refused, as DETAIL of the record (R535); none when it is accepted. -/
def refusal (s : State) (l constId home plink unit : Nat) : Option Nat :=
  let k := s.mlink l
  if constId ≠ s.mer.constId then some 1
  else if home = s.home then some 2
  else if (k.peerHome ≠ 255 ∧ k.peerHome ≠ home) ∨ (k.peerLink ≠ 255 ∧ k.peerLink ≠ plink) then some 3
  else if (directLinks s l home).any fun x => (s.mlink x).unit != unit then some 4
  else none

/-- The peer's identity is accepted or refused. -/
def linkIdent (l constId home plink unit : Nat) (s : State) : State :=
  inState l 3 (fun s =>
    let s := (s.fset (Fld.MER_LINK_STATUS_PEER_HOME l) home).fset (Fld.MER_LINK_STATUS_PEER_LINK l) plink
    match refusal s l constId home plink unit with
    | some d => logFault 12 16 0 l d 0 (setLinkState l 6 (onLink l (fun k => { k with refusedAt := s.epoch }) s))
    | none => onLink l (fun k => { k with identOk := true, unit := unit }) s) s

/-- LINK_IDENT; no rule judges the peer's DEVICE_ID (R317). -/
def execLinkIdent (l : Fin 4) (constId : Word) (home : Fin 8) (plink : Fin 4) (_ : Word) (unit : BitVec 64) (s : State) :
    Host.Outcome State Fault Refusal := ok (linkIdent l.val constId.toNat home.val plink.val unit.toNat) s

/-- REFUSED_RETRY: 100 ms after the refusal (R315). -/
def refusedRetry (l : Nat) (s : State) : State :=
  if linkState s l = 6 ∧ (s.mlink l).refusedAt + 100000000 ≤ s.epoch then setLinkState l (idleState s l) s else s

def execRefusedRetry (l : Fin 4) (s : State) : Host.Outcome State Fault Refusal := ok (refusedRetry l.val) s

/-- LINK_TRAINED: the accepted link is up, with full pools, and the event starts Rise (R179, R315, R321). -/
def linkTrained (l : Nat) (s : State) : State :=
  inState l 3 (fun s =>
    if (s.mlink l).identOk then
      let s := onLink l (fun k => { k with
        tx := 0xFFF, acked := 0xFFF, rx := 0xFFF, ackAt := s.epoch, req := 2048, rsp := 4096, ctl := 64, ctlQ := [],
        replay := [], retries := 0, winAt := s.mono, winTx := 0, winReplays := 0, noisy := false,
        rising := false, said := none, installed := false, leftBySet := false }) s
      raiseZen (6 + l) (setLinkState l 4 s)
    else s) s

def execLinkTrained (l : Fin 4) (s : State) : Host.Outcome State Fault Refusal := ok (linkTrained l.val) s

/-! ## Answers to requests, and forwarding (R326, R331) -/

/-- A remote request is answered: it leaves the list, and what waited for it goes on. -/
def answerReq (q : RemoteReq) (r : AccRes) (s : State) : State :=
  resolveOp q.op r { s with mem := { s.mem with remote := s.mem.remote.filter fun x => x != q } }

/-- Requests answered one after another. -/
def answerAll (r : RemoteReq → AccRes) : List RemoteReq → State → State
  | [], s => s
  | q :: qs, s => answerAll r qs (answerReq q (r q) s)

/-- The bytes that an operation waits for. -/
def opLen : ReqOp → Nat
  | .fetch _ _ _ len _ => len
  | .guest _ _ _ => 64
  | _ => 0

/-- The home a message goes to: that of its address for a request, of its issuer for a completion. -/
def destHome (m : MerMsg) : Nat :=
  match m.op with
  | .rdc => m.srcHome
  | .wra => m.srcHome
  | _ => m.addr / 2 ^ 37 % 8

/-- A message for another Star goes on, in the system group; one that cannot is answered LOST, or discarded (R326). The
units it held on the link it came on return when it has left (R321). -/
def forwardMsg (from_ : Option Nat) (m : MerMsg) (s : State) : State :=
  match routeLink s (destHome m) m.addr with
  | some k => enqueueFrom from_ k m.cls 16 ((m.deadline * 1000 : Nat) : Int) m s
  | none =>
    let s := match from_ with | some l => returnUnits l m s | none => s
    match m.op with
    | .rd => answerRemote m 16 2 [] false s
    | .wrf => answerRemote m 16 2 [] false s
    | .wrm => answerRemote m 16 2 [] false s
    | _ => s

/-! ## Racks and windows after a loss (R198, R294, R337, R344, R345) -/

/-- The jobs of a Bakery that run: STAR_LOST at their completion (R198, R241). -/
def loseJobs (b h : Nat) (s : State) : State :=
  onJobs (fun j =>
    if j.bakery == some b && j.copy.isNone && (j.phase == .running || j.phase == .ticket) then
      { j with lost := lowestOf j.lost (some h) }
    else j) s

/-- Connected cross-link Racks that a test names are disconnected: emptied, their pushes discarded, their Bakery's
running jobs lost (R198). -/
def disconnectRacks (p : Rack → Bool) (s : State) : State :=
  let hit (r : Rack) : Bool := rackRemote r && r.connected && p r
  let gone := (s.fab.racks.filter fun e => hit e.2).map (·.2)
  let cut (e : Nat × Rack) : Nat × Rack :=
    if hit e.2 then
      (e.1, { e.2 with connected := false, discarding := true, credits := 0, slots := [], landed := [], pre := 0 })
    else e
  let keep (q : MemReq) : Bool := match q.op with
    | .message l m _ => !(m.op == .slot && gone.any (fun r => r.link == l && r.remoteRack == m.addr))
    | _ => true
  let s := { s with fab := { s.fab with racks := s.fab.racks.map cut, reqs := s.fab.reqs.filter keep } }
  gone.foldl (fun s r => loseJobs r.bakery r.remoteHome s) s

/-- Windows that need a Star go dark (R294, R344). -/
def darken (h : Nat) (s : State) : State :=
  onWins (fun w => if (windowHomes s w).contains h then { w with dark := true } else w) s

/-- Windows dark through a loss return once every Star they need is routed (R337). -/
def relight (s : State) : State :=
  onWins (fun w => if (windowHomes s w).all (fun h => s.routed h) then { w with dark := false } else w) s

/-! ## Loss of a Star (R343, R344) -/

/-- A Star is lost: in-flight accesses complete, jobs that touched it are lost, its windows are dark, its Racks
disconnected; one STAR_LOST record (R343, R344, R535). -/
def starLost (h cause : Nat) (s : State) : State :=
  let s := merEvent (logFault 14 16 0 h cause 0 s)
  let s := onJobs (fun j =>
    if j.homes.testBit h && (j.phase == .running || j.phase == .ticket) then { j with lost := lowestOf j.lost (some h) }
    else j) s
  let s := disconnectRacks (fun r => r.remoteHome == h) (darken h s)
  let keep (q : MemReq) : Bool := match q.op with
    | .message _ m _ => m.op == .slot || destHome m != h || (m.srcHome != s.home && m.op != .rdc && m.op != .wra)
    | _ => true
  let s := { s with fab := { s.fab with reqs := s.fab.reqs.filter keep } }
  let s := answerAll (fun q => inFlightLost (opLen q.op) (some h))
    (s.mem.remote.filter fun q => q.home == h) s
  setLoses h s

/-- The bits of some homes, as announcements and withdrawals carry them. -/
def homeMask (hs : List Nat) : Nat := (hs.map fun h => 2 ^ h).sum

/-- A neighbour with which this Star exchanges routes: Rise has begun on its link (R336). -/
def exchanging (s : State) (l : Nat) : Bool := (s.mlink l).installed || (s.mlink l).rising

/-- Withdrawal of homes from the other neighbours (R343). -/
def sendWithdrawal (l : Nat) (hs : List Nat) (s : State) : State :=
  if hs.isEmpty then s
  else
    (List.range 4).foldl (fun s k =>
      if k != l && exchanging s k then
        sendCtl k { blankMsg s .ctl with ctlKind := ctlWithdraw, ctl := [homeMask hs] } s
      else s) s

/-- A link leaves the live masks of some homes; a home with an empty mask is lost, and withdrawn (R324, R343). -/
def unroute (l : Nat) (hs : List Nat) (cause : Nat) (s : State) : State :=
  let hit := hs.filter fun h => (liveMask s h).testBit l
  let s := hit.foldl (fun s h => s.fset (Fld.MER_ROUTE_LIVE h) (putBit l false (liveMask s h))) s
  let gone := hit.filter fun h => liveMask s h = 0
  sendWithdrawal l gone (syncReach (gone.foldl (fun s h => starLost h cause s) s))

/-! ## A Star that has left by a Set (R340, R341) -/

/-- Whether this Star still has a request out to another (R340). -/
def waitingOn (s : State) (h : Nat) : Bool := s.mem.remote.any fun q => q.home == h

/-- What this Star does with SET_FINAL once no request of its own is out to the leaving Star: Striped windows dark,
Racks disconnected, the Star out of the live masks, acknowledged (R340). -/
def finishFinal (h : Nat) (s : State) : State :=
  let links := (List.range 4).filter fun l => (s.mlink l).installed && peerHomeOf s l == h
  let back := routeLink s h 0
  let s := onWins (fun w => if w.kind = 1 ∧ w.members.testBit h then { w with dark := true } else w) s
  let s := disconnectRacks (fun r => r.remoteHome == h) s
  let s := match back with
    | some l => sendCtl l { blankMsg s .ctl with ctlKind := ctlDone, ctl := [h, s.home] } s
    | none => s
  let s := s.fset (Fld.MER_ROUTE_LIVE h) 0
  let s := links.foldl (fun s l => onLink l (fun k => { k with leftBySet := true }) s) s
  syncReach { s with mer := { s.mer with finals := s.mer.finals.filter fun x => x != h } }

/-- Every SET_FINAL whose wait is over takes effect. -/
def settleFinals (s : State) : State :=
  (s.mer.finals.filter fun h => !(waitingOn s h)).foldl (fun s h => finishFinal h s) s

/-! ## Loss of a link (R315, R345) -/

/-- What waits at the egress of a link that is lost: messages of other Stars and completions go another way, this Star's
own requests are in flight on it (R326, R345). -/
def rerouteEgress (l : Nat) (s : State) : State :=
  let mine (q : MemReq) : Bool := match q.op with | .message k _ _ => k == l | _ => false
  let ms := s.fab.reqs.filterMap fun q => match q.op with
    | .message k m i =>
      if k = l && (m.srcHome != s.home || m.op == .rdc || m.op == .wra) && m.op != .slot then some (i, m) else none
    | _ => none
  ms.foldl (fun s e => forwardMsg e.1 e.2 s) { s with fab := { s.fab with reqs := s.fab.reqs.filter fun q => !(mine q) } }

/-- What went over a link goes over it no more: it leaves every live mask, its Racks are disconnected, what waited for it
goes another way, and what was in flight on it ends (R324, R326, R345). -/
def detach (l : Nat) (s : State) : State :=
  let s := unroute l (List.range 8) 1 s
  let s := disconnectRacks (fun r => r.link == l) s
  let s := rerouteEgress l s
  settleFinals
    (answerAll (fun q => inFlightLost (opLen q.op) none) (s.mem.remote.filter fun q => q.link == l) s)

/-- A link in service is lost, for a cause of R535. -/
def loseLink (l cause : Nat) (s : State) : State :=
  let s := (logFault 13 16 0 l cause 0 s).fadd (Fld.MER_LINK_LOSTS_COUNT l) 1
  detach l (raiseZen (10 + l) (dropLink l s))

/-- The signal of a link is gone: a link in service is lost, unless the Star at its far end has left by a Set (R315,
R340); one that trains waits for its peer again (DEDUCED, log entry 20). -/
def signalLost (l cause : Nat) (s : State) : State :=
  if inService s l then (if (s.mlink l).leftBySet then detach l (dropLink l s) else loseLink l cause s)
  else if linkState s l = 2 ∨ linkState s l = 3 then dropLink l s
  else s

def execLinkLost (l : Fin 4) (s : State) : Host.Outcome State Fault Refusal := ok (signalLost l.val 1) s

/-- ACK_PROGRESS_TIMEOUT: 50 µs with flits outstanding and no ACK progress (R318). -/
def ackTimeout (l : Nat) (s : State) : State :=
  let k := s.mlink l
  if inService s l && decide (outstanding k ≠ 0) && decide (k.ackAt + 50000 ≤ s.epoch) then loseLink l 3 s else s

def execAckProgressTimeout (l : Fin 4) (s : State) : Host.Outcome State Fault Refusal := ok (ackTimeout l.val) s

/-- Whether a link has to lose itself: a flit has failed and then failed 8 replays, or more than one replay in 1,000 flits
went out in 10 ms (R317). -/
def exhausted (k : MLink) : Bool := decide (9 ≤ k.retries) || k.noisy

/-- REPLAY_EXHAUSTED: a link in service loses itself (R317). -/
def replayExhausted (l : Nat) (s : State) : State :=
  let s := onLink l (rollWin s.mono) s
  if inService s l && exhausted (s.mlink l) then loseLink l 2 s else s

def execReplayExhausted (l : Fin 4) (s : State) : Host.Outcome State Fault Refusal := ok (replayExhausted l.val) s

/-- A write of MER_LINK_CTRL: DISABLE holds the link DISABLED, and its release lets the link wait for its peer (R347). -/
def actLinkCtrl (l : Nat) (disable : Bool) (s : State) : State :=
  let s := s.fset (Fld.MER_LINK_CTRL_DISABLE l) (if disable then 1 else 0)
  if disable then
    if inService s l then loseLink l 4 s
    else if linkState s l = 0 then s
    else dropLink l s
  else if linkState s l = 0 then setLinkState l (idleState s l) s
  else s

def execLinkDisable (f : HostFn) (l : Fin 4) (s : State) : Host.Outcome State Fault Refusal :=
  ok (hostWrite f (Reg.MER_LINK_CTRL l.val) (actLinkCtrl l.val true)) s

/-! ## Flits (R319, R321, R323) -/

/-- Credits that a flit returns, to the pools and to this Star's producing Racks. -/
def takeCredits (l : Nat) (x : MerFlit) (s : State) : State :=
  let s := onLink l (fun k => { k with
    req := min 2048 (k.req + x.crReq), rsp := min 4096 (k.rsp + x.crRsp), ctl := min 64 (k.ctl + x.crCtl) }) s
  x.racks.foldl (fun s e =>
    match s.rack? e.1 with
    | some r => if r.connected && r.prod.isSome && r.cons.isNone && r.link == l then
        s.setRack e.1 { r with credits := min r.effDepth (r.credits + e.2) } else s
    | none => s) s

/-- Every unacknowledged flit goes out again, oldest first (R323). -/
def resend (l : Nat) (s : State) : State :=
  let fs := (s.mlink l).replay
  let s := onLink l (fun k => { rollWin s.mono k with retries := k.retries + 1, winReplays := (rollWin s.mono k).winReplays + 1 }) s
  fs.foldl (fun s f => sendFlit l f.2 s) (s.fadd (Fld.MER_LINK_REPLAY_COUNT l) fs.length)

/-- The ACK and NAK of a flit: the flits acknowledged are kept no longer, and the others are sent again (R323). -/
def takeAck (l : Nat) (x : MerFlit) (s : State) : State :=
  if !x.valid then s
  else
    let k := s.mlink l
    let n := (x.ack + 4096 - k.acked) % 4096
    let s := if n ≠ 0 ∧ n ≤ outstanding k then
      onLink l (fun k => { k with acked := x.ack, ackAt := s.epoch, replay := k.replay.drop n, retries := 0 }) s else s
    if x.nak then resend l s else s

/-- What a good flit brings: ACK, credits, and with them the control messages that waited. -/
def takeFlit (l : Nat) (x : MerFlit) (s : State) : State :=
  let s := takeCredits l x (takeAck l x s)
  flushCtl l (s.mlink l).ctlQ s

/-- An IDLE flit with an ACK, or a NAK, of the latest flit received in order. -/
def sendAck (l : Nat) (nak : Bool) (s : State) : State := sendFlit l (ackFlit nak (s.mlink l).rx) s

/-- A flit as its receiver reads it (R319, R323): one that fails is answered with NAK; the next in order is taken and
acknowledged; one received already is acknowledged again, and one after a failed flit is discarded. -/
def flitView (l : Nat) (x : MerFlit) (s : State) : State :=
  let s := if s.fget (Fld.MER_LINK_STATUS_GEN l) = 2 then s.fadd (Fld.MER_LINK_FECCOR_COUNT l) x.corrected else s
  let rx := (s.mlink l).rx
  if !x.good then sendAck l true (s.fadd (Fld.MER_LINK_BAD_COUNT l) 1)
  else if x.idle then takeFlit l x s
  else if x.fseq = (rx + 1) % 4096 then
    sendAck l false (takeFlit l x ((onLink l (fun k => { k with rx := x.fseq }) s).fadd (Fld.MER_LINK_RX_COUNT l) 1))
  else if (rx + 4096 - x.fseq) % 4096 < 256 then sendAck l false s
  else s

/-- FLIT_RECEIVED: a skip flit carries nothing (R314). -/
def flitReceived (l : Nat) (x : RxFlit) (s : State) : State :=
  if !(inService s l) || x.skip then s else flitView l x.view s

def execFlitReceived (l : Fin 4) (x : RxFlit) (s : State) : Host.Outcome State Fault Refusal :=
  ok (flitReceived l.val x) s

end Sys2Proof.Machine
end

