-- ==== Sys2Proof/Machine/MerMsgs.lean ====
section
/-! DEFINITION. Meridian messages: requests of other Stars, completions, slots (R196, R320–R322, R326–R331). -/
namespace Sys2Proof.Machine

/-- A message arrives on a link in service. The units of a completion return at once; those of a request stay taken until
it has been performed, passed on or refused (R319, R321). -/
def arriveMsg (l : Nat) (m : MerMsg) (g : State → State) (s : State) : State :=
  if !(inService s l) then s
  else g (match m.op with
    | .rdc => returnUnits l m s
    | .wra => returnUnits l m s
    | _ => s)

/-- A request of a master that the guest map does not list: dropped, answered DENIED, counted and logged (R330). -/
def denyGuest (l : Nat) (m : MerMsg) (s : State) : State :=
  let s := s.fadd Fld.MER_DENY_COUNT 1
  let s := logFault 1 (faultFlags (m.op != .rd) true false false false) m.master (0x100 + l) m.srcHome (m.addr % 2 ^ 37) s
  answerRemote m 16 1 [] false (returnUnits l m s)

/-- The deadline of a message in ns (R320). -/
def msgDeadline (s : State) (m : MerMsg) : Int := resolveUs s m.deadline

/-- A request admitted by the guest map goes to its target, checked under its proxy ID; one that leaves this Star again has
left the link's pool (R321, R329, R330). -/
def admitGuest (l : Nat) (m : MerMsg) (g : Guest) (s : State) : State :=
  let proxy := g.proxy + (m.master - g.first)
  let base := m.addr / 64 * 64
  let grp := groupOf g.bakery
  let op : ReqOp := .guest l m proxy
  match routeOf s (Who.guest s m proxy) (m.op != .rd) base 64 with
  | .target t => addReq t m.cls grp (msgDeadline s m) 64 op s
  | .host port k fn ha => issueHost port k fn ha 64 op (returnUnits l m s)
  | .remote h a =>
    issueRemote h { m with srcHome := s.home, master := proxy, addr := a } grp (msgDeadline s m) op (returnUnits l m s)
  | .now => performGuest l m proxy [] ⟨[], .ok⟩ s

/-- Whether a message is part of a Set's copy into a POOL range that this Star has given (R340; DESIGN CHOICE, log entry 16). -/
def fillsPool (s : State) (m : MerMsg) : Bool :=
  m.op == .wrf && m.master == setMaster &&
    s.mer.pools.any fun p => p.used.any fun u =>
      decide (p.base + u.1 ≤ m.addr % 2 ^ 37 ∧ m.addr % 2 ^ 37 < p.base + u.1 + u.2)

/-- A block of a window that moves here: it enters the POOL range, in the system group as Prompt, and is acknowledged (R340). -/
def fillPool (l : Nat) (m : MerMsg) (s : State) : State :=
  let a := m.addr % 2 ^ 37 / 64 * 64
  let w := Who.plain setMaster
  answerRemote m 16 0 [] false (returnUnits l m (dramWrite w a m.data m.poison .none (dramService w a 64 true s)))

/-- A request arrives: forwarded, denied, or admitted (R326, R330). -/
def requestMsg (l : Nat) (m : MerMsg) (s : State) : State :=
  arriveMsg l m (fun s =>
    if destHome m ≠ s.home then forwardMsg (some l) m s
    else if fillsPool s m then fillPool l m s
    else match guestOf s m with
      | none => denyGuest l m s
      | some g => admitGuest l m g s) s

def execMsgRd (l : Fin 4) (m : MerMsg) (s : State) : Host.Outcome State Fault Refusal :=
  ok (requestMsg l.val { m with op := .rd }) s

def execMsgWrf (l : Fin 4) (m : MerMsg) (s : State) : Host.Outcome State Fault Refusal :=
  ok (requestMsg l.val { m with op := .wrf }) s

def execMsgWrm (l : Fin 4) (m : MerMsg) (s : State) : Host.Outcome State Fault Refusal :=
  ok (requestMsg l.val { m with op := .wrm }) s

/-! ## Completions (R331) -/

/-- The answer that a completion carries. -/
def completionReply (m : MerMsg) : ExtReply :=
  ⟨m.data, match m.status with | 0 => if m.poison then .poisoned else .ok | 1 => .denied | _ => .lost⟩

/-- The offset in its block of the bytes that an operation reads. -/
def opOffset : ReqOp → Nat
  | .fetch _ _ a _ _ => a % 64
  | _ => 0

/-- The result of a completion for the operation that waited. -/
def completionResult (q : RemoteReq) (m : MerMsg) : AccRes :=
  let e := completionReply m
  remoteResult q.home m.addr (opLen q.op) { e with data := e.data.drop (opOffset q.op) }

/-- A completion arrives: forwarded toward its issuer, or the end of the request whose tag it returns (R326, R331). -/
def completionMsg (l : Nat) (m : MerMsg) (s : State) : State :=
  arriveMsg l m (fun s =>
    if m.srcHome % 8 ≠ s.home then forwardMsg none m s
    else match s.mem.remote.find? fun q => q.tag == m.tag with
      | none => s
      | some q => answerReq q (completionResult q m) s) s

def execMsgRdc (l : Fin 4) (m : MerMsg) (s : State) : Host.Outcome State Fault Refusal :=
  ok (fun s => settleFinals (completionMsg l.val { m with op := .rdc } s)) s

def execMsgWra (l : Fin 4) (m : MerMsg) (s : State) : Host.Outcome State Fault Refusal :=
  ok (fun s => settleFinals (completionMsg l.val { m with op := .wra, data := [] } s)) s

/-! ## Slots (R193, R196) -/

/-- MSG_SLOT: the slot joins the consumer's Rack, or waits while the Rack cannot move (R195); one for a Rack that is not
connected here is discarded (R198). -/
def slotArrives (l : Nat) (m : MerMsg) (s : State) : State :=
  arriveMsg l m (fun s =>
    match s.rack? m.addr with
    | none => s
    | some r =>
      if r.connected && r.cons.isSome && r.prod.isNone && r.link == l &&
          decide (r.slots.length + r.landed.length < r.effDepth + r.pre) then
        let x : RSlot := ⟨padTo 32 m.data, m.frameEnd, m.poison, m.user % 0x4000⟩
        if rackPowered s r then slotMoved r.bakery (s.setRack m.addr { r with slots := r.slots ++ [x] })
        else s.setRack m.addr { r with landed := r.landed ++ [x] }
      else s) s

def execMsgSlot (l : Fin 4) (m : MerMsg) (s : State) : Host.Outcome State Fault Refusal :=
  ok (slotArrives l.val { m with op := .slot }) s

end Sys2Proof.Machine
end

