-- ==== Sys2Proof/Machine/Tick.lean ====
section
/-! DEFINITION. What happens as time passes: the machine's clocks, and the counters that count microseconds
(R58, R149, R250, R549; DESIGN CHOICE, log entry 2). -/
namespace Sys2Proof.Machine

/-- Whether Epoch counts: the boot ROM has started since the latest reset, and Crust is defined (R161, R549). -/
def counting (s : State) : Bool := s.pwr.romRunning && !s.pwr.undef

/-- A microsecond in which an Oven's array waits counts for what it waits for (R250). -/
def countWait (s : State) (n : Nat) : State :=
  match arrayWait s n with
  | some k => if s.on n then s.fadd ⟨Reg.OVN_WAITUS n k, 31, 0⟩ 1 else s
  | none => s

/-- A tick boundary of Pace passes, every 100 µs of Epoch: it starts a tick unless transactions of an earlier one still run
(R58). -/
def paceBoundary (s : State) : State :=
  let k := s.epoch / 100000
  if s.on 158 && s.epoch / 1000 % 100 == 0 && k != s.pace.tickAt then
    { s with pace := { s.pace with tickAt := k, bounds := s.pace.bounds + 1, due := s.pace.txq.isEmpty } }
  else s

/-- An Epoch microsecond boundary passes: the Hearth's capacities follow its commanded voltage from here on (R216). -/
def microsecond (s : State) : State :=
  { paceBoundary ((s.ovens.map (·.1)).foldl countWait (latchMv s)) with usCount := s.usCount + 1 }

/-- 1 ns passes. It ends a cycle of Crust: the triggers that arrived in the cycle at a busy channel are judged (R388; DESIGN
CHOICE, log entry 2). -/
def idle (s : State) : State :=
  let s := judgeTriggers s
  let s := { s with mono := s.mono + 1 }
  if !(counting s) then s
  else
    let s := { s with epoch := (s.epoch + 1) % 2 ^ 64 }
    if s.epoch % 1000 = 0 then microsecond s else s

end Sys2Proof.Machine
end

