-- ==== Sys2Proof/Machine/MerSet.lean ====
section
/-! DEFINITION. Rise, one Epoch, and planned Sets (R332, R333, R336–R342, R347). -/
namespace Sys2Proof.Machine

/-! ## One Epoch (R332, R333) -/

/-- An Epoch moved by an offset. -/
def moveTime (d : Int) (t : Nat) : Nat := ((t : Int) + d).toNat

/-- A generator's schedule moved (R332). -/
def shiftGen (d : Int) (g : Gen) : Gen :=
  { g with
    startAt := g.startAt.map (moveTime d)
    start := moveTime d g.start
    next := moveTime d g.next
    armed := g.armed.map fun a => (a.1, a.2 + d) }

/-- Epoch is stepped: every Epoch-timed schedule moves with it, and MER_EPOCH_STEP records the step, saturating. The
moments from which this model measures intervals move too; deadlines that jobs carry do not (R332). -/
def stepEpoch (d : Int) (s : State) : State :=
  let t := moveTime d
  let s := s.setReg Reg.MER_EPOCH_STEP (BitVec.ofNat 32 (unsignedOf 32 (clampInt (-2147483648) 2147483647 d)))
  { s with
    epoch := t s.epoch
    str := { s.str with
      chans := s.str.chans.map fun e => (e.1, { e.2 with jobs := e.2.jobs.map fun j => { j with done := t j.done } })
      gens := s.str.gens.map fun e => (e.1, shiftGen d e.2)
      groups := s.str.groups.map fun e => (e.1, { e.2 with waiting := e.2.waiting.map t }) }
    fab := { s.fab with
      reqs := s.fab.reqs.map fun q => { q with t := t q.t }
      baks := s.fab.baks.map fun e => (e.1, { e.2 with lastMove := t e.2.lastMove }) }
    ctx := { s.ctx with jobs := s.ctx.jobs.map fun j => { j with since := t j.since } }
    mem := { s.mem with hostReads := s.mem.hostReads.map fun h => { h with t := t h.t } }
    vid := { s.vid with steady := [] }
    mer := { s.mer with links := s.mer.links.map fun e =>
      (e.1, { e.2 with gen2At := e.2.gen2At.map t, refusedAt := t e.2.refusedAt, ackAt := t e.2.ackAt }) } }

/-- Other Stars that this one routes. -/
def othersRouted (s : State) : Bool := (List.range 8).any fun h => h != s.home && liveMask s h ≠ 0

/-- Whether this Star steps at Rise with a neighbour that announces `homes` (R332). -/
def stepsAt (s : State) (mine : Bool) (peer homes : Nat) : Bool :=
  let theirs := putBit peer false homes ≠ 0
  if mine == theirs then decide (peer < s.home) else theirs

/-- Epoch moved by less than a microsecond. A boundary passed on the way is counted once, forward or back (R149, R333). -/
def nudgeEpoch (d : Int) (s : State) : State :=
  let was := s.epoch
  let s := { s with epoch := moveTime d s.epoch }
  if was / 1000 < s.epoch / 1000 then microsecond s
  else if s.epoch / 1000 < was / 1000 then { s with usCount := s.usCount - 1 }
  else s

/-- Whether a millisecond has passed since the last measurement (R333). -/
def slewDue (s : State) : Bool := match s.mer.slewAt with | some t => decide (t + 1000000 ≤ s.mono) | none => true

/-- EPOCH_SLEW: once per millisecond, a Star that is not the time root moves its Epoch toward its neighbour's by at most
200 ppm of that millisecond (R333). -/
def slewEpoch (offset : Int) (s : State) : State :=
  if s.fget Fld.MER_STATUS_TIME_ROOT = s.home || !(othersRouted s) || !(slewDue s) then s
  else nudgeEpoch (clampInt (-200) 200 offset) { s with mer := { s.mer with slewAt := some s.mono } }

def execEpochSlew (offset : Int) (s : State) : Host.Outcome State Fault Refusal := ok (slewEpoch offset) s

/-! ## Rise (R324, R332, R336) -/

/-- An announcement to one neighbour, with this Star's Epoch (R332, R336). -/
def announce (l : Nat) (hs : List Nat) (s : State) : State :=
  sendCtl l { blankMsg s .ctl with ctlKind := ctlAnnounce, ctl := [homeMask hs, s.epoch] } s

/-- A CTL message with its fields has arrived, and its units return (R321). -/
def tookCtl (l : Nat) (fields : List Nat) (s : State) : State := returnUnits l { blankMsg s .ctl with ctl := fields } s

/-- A link joins the live masks of the homes that its peer announced and that declare it; homes routed anew are announced
to the other neighbours (R324, R336). -/
def installRoutes (l : Nat) (homes : Nat) (s : State) : State :=
  let hs := (List.range 8).filter fun h => h != s.home && homes.testBit h && (s.fget (Fld.MER_ROUTE_DECLARED h)).testBit l
  let fresh := hs.filter fun h => liveMask s h = 0
  let s := hs.foldl (fun s h => s.fset (Fld.MER_ROUTE_LIVE h) (putBit l true (liveMask s h))) s
  let s := relight (syncReach (onLink l (fun k => { k with installed := true }) s))
  if fresh.isEmpty then s
  else (List.range 4).foldl (fun s k => if k != l && exchanging s k then announce k fresh s else s) s

/-- Steps 2 and 3 of Rise, once both ends have announced (R332, R336). -/
def joinPeer (l : Nat) (s : State) : State :=
  let k := s.mlink l
  match k.said with
  | none => s
  | some (homes, d) =>
    if !k.rising || k.installed then s
    else
      let steps := stepsAt s (othersRouted s) (peerHomeOf s l) homes
      let s := installRoutes l homes s
      if steps then stepEpoch d s else s

/-- The action of MER_RISE: Rise starts on a TRAINED link (R336). -/
def actRise (l : Nat) (s : State) : State :=
  if linkState s l = 4 && !(s.mlink l).rising then
    joinPeer l (announce l (announced s) (onLink l (fun k => { k with rising := true }) s))
  else s

def execRise (f : HostFn) (l : Fin 4) (seq : BitVec 16) (s : State) : Host.Outcome State Fault Refusal :=
  ok (hostWrite f Reg.MER_RISE fun s =>
    actRise l.val ((s.fset Fld.MER_RISE_LINK l.val).fset Fld.MER_RISE_SEQ seq.toNat)) s

/-- MSG_ROUTE_ANNOUNCE: the peer's routes and its Epoch less this Star's; on a link that Rise has installed, the homes it
announces are installed at once (R324, R336). -/
def routeAnnounced (l homes : Nat) (offset : Int) (s : State) : State :=
  if !(inService s l) then s
  else
    let s := tookCtl l [homes, 0] s
    if (s.mlink l).installed then installRoutes l homes s
    else
      let was := match (s.mlink l).said with | some (m, _) => m | none => 0
      joinPeer l (onLink l (fun k => { k with said := some (was ||| homes, offset) }) s)

def execMsgRouteAnnounce (l : Fin 4) (homes : BitVec 8) (offset : Int) (s : State) :
    Host.Outcome State Fault Refusal := ok (routeAnnounced l.val homes.toNat offset) s

/-- MSG_WITHDRAWAL: a neighbour no longer routes some homes (R343). -/
def routeWithdrawn (l homes : Nat) (s : State) : State :=
  if !(inService s l) then s
  else
    let s := tookCtl l [homes] s
    let s := onLink l (fun k => { k with said := k.said.map fun e => (e.1 - (e.1 &&& homes), e.2) }) s
    settleFinals (unroute l (bitsSet 8 homes) 2 s)

def execMsgWithdrawal (l : Fin 4) (homes : BitVec 8) (s : State) : Host.Outcome State Fault Refusal :=
  ok (routeWithdrawn l.val homes.toNat) s

/-- Writes of Zenith that waited for something are done (R180, R347). -/
def endWaits (w : WriteWait) (s : State) : State :=
  (List.range 8).foldl (fun s i =>
    match s.zen.insts.getD i none with
    | some z => if z.write = w then writeDone i s else s
    | none => s) s

/-- A cross-link Rack connected: the smaller of the two depths, credits to that depth, preloaded slots (R196, R198, R336). -/
def connectRack (peerDepth : Nat) (r : Rack) : Rack :=
  rackRefill { r with effDepth := min r.depth peerDepth, connected := true, everConnected := true, discarding := false }

/-- RISE_COMPLETE: the Racks of the link are connected, with the depths that the peer declares, the link is ACTIVE, and
the write of MER_RISE is done (R336, R339). -/
def riseComplete (l : Nat) (depths : List (Nat × Nat)) (s : State) : State :=
  let k := s.mlink l
  if linkState s l = 4 && k.rising && k.installed then
    let join (e : Nat × Rack) : Nat × Rack :=
      if rackRemote e.2 && e.2.link == l then (e.1, connectRack ((depths.lookup e.1).getD e.2.depth) e.2) else e
    let s := { s with fab := { s.fab with racks := s.fab.racks.map join } }
    let s := setLinkState l 5 (onLink l (fun k => { k with rising := false }) s)
    let s := if s.fget Fld.MER_STATUS_SET_STATE = 2 then
      { s.fset Fld.MER_STATUS_SET_STATE 0 with mer := { s.mer with set := none } } else s
    endWaits (.rise l) s
  else s

def execRiseComplete (l : Fin 4) (depths : List (Nat × Nat)) (s : State) : Host.Outcome State Fault Refusal :=
  ok (riseComplete l.val depths) s

/-! ## Messages of a Set -/

/-- A CTL message of a Set arrives: for another Star it goes on (R326), for this one it is acted on. -/
def setArrives (l dest kind : Nat) (fields : List Nat) (g : State → State) (s : State) : State :=
  if !(inService s l) then s
  else
    let s := tookCtl l (dest :: fields) s
    if dest ≠ s.home then setMsg dest kind fields s else g s

/-! ## The leaving Star (R339, R340) -/

/-- The windows that a Set places: Homed, their home this Star, in ascending WIN order. -/
def setWindows (s : State) : List Nat :=
  (s.mem.wins.filter fun e => e.2.kind == 0 && e.2.base / 2 ^ 37 == s.home).map (·.1)

/-- The action of MER_SET with GO (R339): ignored while a Set runs or after one has completed. -/
def actSetGo (seq : Nat) (s : State) : State :=
  if s.fget Fld.MER_STATUS_SET_STATE ≠ 0 then s
  else
    let s := setAll ctlNotice [s.home] (s.fset Fld.MER_STATUS_SET_STATE 1)
    let t : SetState :=
      { seq, wins := setWindows s, asking := others s, accepted := none, copied := 0, acks := [], anyDark := false
        relocated := 0, dark := 0, stage := .offer }
    setGoesOn { s with mer := { s.mer with set := some t } }

def execSetGo (f : HostFn) (seq : BitVec 16) (s : State) : Host.Outcome State Fault Refusal :=
  ok (hostWrite f Reg.MER_SET (actSetGo seq.toNat)) s

/-- A Star has accepted the window: it is copied there, and its writes are held (R340). -/
def offerAccepted (h addr : Nat) (s : State) : State :=
  match s.mer.set with
  | some t =>
    match t.wins with
    | w :: _ =>
      if t.stage = .offer ∧ t.asking.head? = some h then
        let win := spGet noWindow s.mem.wins w
        let s := onSet (fun t => { t with accepted := some (h, addr), copied := 0, stage := .copy }) s
        askCopy 0 { s with mem := { s.mem with holding := some (win.base, win.size) } }
      else s
    | [] => s
  | none => s

/-- A Star has declined the window. -/
def offerDeclined (h : Nat) (s : State) : State :=
  match s.mer.set with
  | some t =>
    if t.stage = .offer ∧ t.asking.head? = some h then
      setGoesOn (onSet (fun t => { t with asking := t.asking.drop 1 }) s)
    else s
  | none => s

/-- A Star has acknowledged a relocation, which it has left dark where it was its 65th, or SET_FINAL (R340). -/
def setAcked (h : Nat) (dark : Bool) (s : State) : State :=
  match s.mer.set with
  | some t =>
    if t.acks.contains h then
      setGoesOn (onSet (fun t => { t with acks := t.acks.filter (fun x => x != h), anyDark := t.anyDark || dark }) s)
    else s
  | none => s

/-- SET_WINDOW_COPIED: the whole window has reached the accepting Star, and every Star is told to relocate it; the held
writes follow once they have (R340). -/
def windowCopied (s : State) : State :=
  match s.mer.set with
  | some t =>
    match t.wins, t.accepted with
    | w :: _, some (_, addr) =>
      let win := spGet noWindow s.mem.wins w
      if t.stage = .copy ∧ win.size ≤ t.copied then setGoesOn (tellWindow win (some addr) .relocate s) else s
    | _, _ => s
  | none => s

def execSetWindowCopied (s : State) : Host.Outcome State Fault Refusal := ok windowCopied s

/-- What is left of the requests and messages of a Star whose Set is complete: no link takes them any more (R41, R341). -/
def leaveLinks (s : State) : State :=
  let links (q : MemReq) : Bool := match q.op with | .message _ _ _ => true | _ => false
  let s := { s with fab := { s.fab with reqs := s.fab.reqs.filter fun q => !(links q) } }
  answerAll (fun q => inFlightLost (opLen q.op) (some q.home)) s.mem.remote s

/-- SET_COMPLETE: every Star has acknowledged SET_FINAL; MER_SET_DONE is written, and the links enter LEFT (R315, R340,
R347). -/
def setComplete (s : State) : State :=
  match s.mer.set with
  | none => s
  | some t =>
    if t.stage ≠ .final || !t.acks.isEmpty then s
    else
      let s := disconnectRacks (fun _ => true) s
      let s := (List.range 8).foldl (fun s h => s.fset (Fld.MER_ROUTE_LIVE h) 0) s
      let s := (List.range 4).foldl (fun s l => if linkState s l = 0 then s else setLinkState l 7 (resetLink l s)) s
      let s := leaveLinks s
      let s := ((s.fset Fld.MER_SET_DONE_RELOCATED t.relocated).fset Fld.MER_SET_DONE_DARK t.dark).fset Fld.MER_SET_DONE_SEQ t.seq
      let s := merEvent (syncReach (s.fset Fld.MER_STATUS_SET_STATE 2))
      endWaits .set { s with mer := { s.mer with set := none } }

def execSetComplete (s : State) : Host.Outcome State Fault Refusal := ok setComplete s

/-! ## The other Stars (R340) -/

/-- MSG_SET_NOTICE: a Star is about to leave; nothing changes here yet. -/
def execMsgSetNotice (l : Fin 4) (dest leaver : Fin 8) (s : State) : Host.Outcome State Fault Refusal :=
  ok (setArrives l.val dest.val ctlNotice [leaver.val] fun s => s) s

/-- The lowest free 4 KiB-aligned offset of a pool with room for a size; `fuel` steps over the ranges taken. -/
def poolFit (p : MPool) (size : Nat) : Nat → Nat → Option Nat
  | 0, _ => none
  | fuel + 1, off =>
    if p.size < off + size then none
    else match p.used.find? fun u => decide (u.1 < off + size ∧ off < u.1 + u.2) with
      | none => some off
      | some u => poolFit p size fuel ((u.1 + u.2 + 4095) / 4096 * 4096)

/-- The first pool with room, by position, and the offset. -/
def poolFor (size : Nat) : Nat → List MPool → Option (Nat × Nat)
  | _, [] => none
  | k, p :: ps => match poolFit p size (p.used.length + 1) 0 with
    | some off => some (k, off)
    | none => poolFor size (k + 1) ps

/-- An offer: a pool range is taken and its device address answered, or the window is declined (R340). -/
def offerArrives (leaver size : Nat) (s : State) : State :=
  match poolFor size 0 s.mer.pools with
  | none => setMsg leaver ctlAnswer [s.home] s
  | some (k, off) =>
    let addr := s.home * 2 ^ 37 + (match s.mer.pools[k]? with | some p => p.base | none => 0) + off
    let s := { s with mer := { s.mer with pools := s.mer.pools.modify k fun p => { p with used := p.used ++ [(off, size)] } } }
    setMsg leaver ctlAnswer [s.home, addr] s

/-- MSG_SET_OFFER: an offer, or an answer of the other Stars to the leaving one. -/
def setOffer (l dest : Nat) (x : SetOffer) (s : State) : State :=
  match x with
  | .offer leaver base size => setArrives l dest ctlOffer [leaver, base, size] (offerArrives leaver size) s
  | .accept h addr => setArrives l dest ctlAnswer [h, addr] (offerAccepted h addr) s
  | .decline h => setArrives l dest ctlAnswer [h] (offerDeclined h) s
  | .relocated h dark => setArrives l dest ctlAck [h, if dark then 1 else 0] (setAcked h dark) s
  | .done h => setArrives l dest ctlDone [h] (setAcked h false) s

def execMsgSetOffer (l : Fin 4) (dest : Fin 8) (x : SetOffer) (s : State) : Host.Outcome State Fault Refusal :=
  ok (setOffer l.val dest.val x) s

/-- A relocation is installed, and acknowledged; the 65th is dark here, and the leaving Star learns so (R340). -/
def relocate (base size : Nat) (newBase : Option Nat) (s : State) : State :=
  let full := newBase.isSome && relocsFull s base
  setMsg (base / 2 ^ 37 % 8) ctlAck [s.home, if full then 1 else 0] (addReloc base size (if full then none else newBase) s)

/-- MSG_RELOCATION (R340). -/
def execMsgRelocation (l : Fin 4) (dest : Fin 8) (base size : Nat) (newBase : Option Nat) (s : State) :
    Host.Outcome State Fault Refusal :=
  ok (setArrives l.val dest.val ctlRelocate (base :: size :: newBase.toList) (relocate base size newBase)) s

/-- MSG_SET_FINAL: acted on once this Star has no request out to the leaving Star (R340). -/
def execMsgSetFinal (l : Fin 4) (dest leaver : Fin 8) (s : State) : Host.Outcome State Fault Refusal :=
  ok (setArrives l.val dest.val ctlFinal [leaver.val] fun s =>
    settleFinals { s with mer := { s.mer with finals := leaver.val :: s.mer.finals.filter fun h => h != leaver.val } }) s

end Sys2Proof.Machine
end

