-- ==== Sys2Proof/Machine/NwAudio.lean ====
section
/-! DEFINITION. Nightwatch's arithmetic: decimation, features, the keyword network, levels and embeddings (R471–R484). -/
namespace Sys2Proof.Machine

/-! ## Decimation (R471, R472) -/

/-- The integrators after one PDM bit: each adds the one before it. -/
def integrate (x : Int) : List Int → List Int
  | [] => []
  | i :: is => (i + x) :: integrate (i + x) is

/-- The combs, each the difference from its last input, and the output. -/
def comb (x : Int) : List Int → List Int × Int
  | [] => ([], x)
  | c :: cs => let (r, y) := comb (x - c) cs; (x :: r, y)

/-- R bits through the CIC: its output with 24 fraction bits joins the path's latest 31. -/
def cicChunk (bits : List Bool) (p : NwPath) : NwPath :=
  let r := bits.length
  let ints := bits.foldl (fun is b => integrate (if b then 1 else -1) is) p.ints
  let (combs, y) := comb (ints.getLastD 0) p.combs
  let k := Nat.log2 (r ^ 5 - 1) + 1
  { p with ints := ints, combs := combs, cic := (scaleRne y (24 - (k : Int)) :: p.cic).take 31 }

/-- The FIR output of a path with 23 fraction bits. -/
def firOut (coef : List Int) (xs : List Int) : Int :=
  let s := ((coef.zip xs).map fun (c, x) => c * x).sum
  let y := max (-(2 ^ 24)) (min (2 ^ 24 - 2) (rne s 22))
  max (-(2 ^ 23)) (min (2 ^ 23 - 1) (rne y 1))

/-- Two CIC outputs through the half-band and FIR filters: one output sample, from `2 R` bits. -/
def decimate (coef : List Int) (r : Nat) (bits : List Bool) (p : NwPath) : NwPath × Int :=
  let p := cicChunk (slice r r bits) (cicChunk (slice 0 r bits) p)
  let p := { p with fir := (Config.halfBand p.cic :: p.fir).take 64 }
  (p, firOut coef p.fir)

/-- The three 48 kHz samples of one 16 kHz period, in order. -/
def decimate48 (coef : List Int) (r : Nat) (bits : List Bool) (p : NwPath) : NwPath × List Int :=
  let (p, a) := decimate coef r (slice 0 (2 * r) bits) p
  let (p, b) := decimate coef r (slice (2 * r) (2 * r) bits) p
  let (p, c) := decimate coef r (slice (4 * r) (2 * r) bits) p
  (p, [a, b, c])

/-- A sample rounded to 15 fraction bits and saturated to 16 bits (R492). -/
def sample16 (x : Int) : Int := max (-32768) (min 32767 (rne x 8))

/-! ## Logarithms of ratios (R477, R483, R484) -/

/-- max(0, 255 + rne(8 log₂(n / d))), at most 255. -/
def featureCode (e : Nat × Nat) : Nat :=
  ((List.range 256).filter fun c => decide (0 < c ∧ e.2 ^ 16 ≤ e.1 ^ 16 * 2 ^ (2 * (255 - c) + 1))).getLastD 0

/-- ⌊10 log₁₀(n / d)⌋, from −200 dB to 200 dB. -/
def dbOver (n d : Nat) : Int :=
  let up := (List.range 201).filter fun k => decide (10 ^ k * d ^ 10 ≤ n ^ 10)
  let down := (List.range 201).filter fun k => decide (d ^ 10 ≤ n ^ 10 * 10 ^ k)
  match up.getLast?, down.head? with
  | some k, _ => k
  | none, some k => -(k : Int)
  | none, none => -200

/-- The energy of a block: the sum of its squares. -/
def energy (xs : List Int) : Nat := (xs.map fun x => x.natAbs ^ 2).sum

/-- Twice the energy of a full-scale sine over 64 samples, in the unit of the alarm input. -/
def fullScale : Nat := 64 * (840 * 2 ^ 23) ^ 2

/-- The level of a block in dBFS. -/
def blockDb (e : Nat) : Int := dbOver (2 * e) fullScale

/-! ## The network (R478) -/

/-- Saturation to INT8. -/
def satInt8 (v : Int) : Int := max (-128) (min 127 v)

/-- A weight. -/
def nwWeight (w : List Byte) (i : Nat) : Int := (w.getD i 0).toInt

/-- Output `j` of a layer over its latest input vectors, newest first. The weights of an output lie together, newest vector
first, and its bias follows them (DEDUCED, log entry 27). -/
def layerDot (w : List Byte) (y : NwLayer) (xs : List (List Int)) (j : Nat) : Int :=
  let (n, off) := if y.op = 2 then (y.k, y.woff + j * (y.k + 4))
    else
      let n := y.inN * (if y.op = 1 then y.k else 1)
      (n, y.woff + j * (n + 4))
  let x (i : Nat) : Int := if y.op = 2 then (xs.getD i []).getD j 0 else (xs.getD (i / max 1 y.inN) []).getD (i % max 1 y.inN) 0
  signedOf 32 (unsignedOf 32 (leSAt (off + n) 4 w + ((List.range n).map fun i => nwWeight w (off + i) * x i).sum))

/-- The accumulator as an output: shifted, through the layer's Curve, saturated. -/
def layerAct (curves : List (Nat × Curve)) (y : NwLayer) (acc : Int) : Int :=
  let v := scaleRne acc (-y.shift)
  if y.curve < 8 then
    satInt8 (rne (evalCurve (spGet Curve.zero curves y.curve) (satLane (v * 2 ^ 24)).1).1 24)
  else satInt8 v

/-- The outputs of a layer. -/
def layerOuts (g : NwCfg) (y : NwLayer) (xs : List (List Int)) (aux : List Int) : List Int :=
  if y.op = 3 then (List.range y.outN).map fun j => satInt8 ((xs.headD []).getD j 0 + aux.getD j 0)
  else (List.range y.outN).map fun j => layerAct g.curves y (layerDot g.weights y xs j)

/-- The layers run in index order over the features of a frame; a layer with STRIDE runs only in its frames. -/
def runLayers (g : NwCfg) (feat : List Int) (frame : Nat) (n : NwState) : NwState :=
  (List.range g.layers.length).foldl (fun n i =>
    match g.layers[i]? with
    | none => n
    | some y =>
      if frame % y.stride ≠ 0 then n
      else
        let get (l : Nat) : List Int := if l = 0xFF then feat else spGet [] n.layerOut l
        let x := (List.range y.inN).map fun j => (get y.src).getD j 0
        let xs := (x :: spGet [] n.layerIn i).take y.k
        { n with layerIn := spPut i xs n.layerIn, layerOut := spPut i (layerOuts g y xs (get y.aux)) n.layerOut }) n

/-! ## Embeddings (R480, R482) -/

def dot (a b : List Int) : Int := ((a.zip b).map fun (x, y) => x * y).sum

/-- The cosine of two vectors, times 32,767, towards zero; the unit vector of zeros is free (DEDUCED, log entry 27). -/
def cosine (a b : List Int) : Int :=
  let fix (v : List Int) : List Int := if dot v v = 0 then (List.range 64).map Config.zeroUnit else v
  let a := fix a
  let b := fix b
  let d := dot a b
  let m := Nat.sqrt (32767 ^ 2 * d.natAbs ^ 2 / max 1 ((dot a a).natAbs * (dot b b).natAbs))
  if d < 0 then -(m : Int) else m

/-- A vector at unit length, times `scale`, each component rounded to nearest. -/
def unitVec (scale : Nat) (v : List Int) : List Int :=
  if dot v v = 0 then (List.range 64).map Config.zeroUnit
  else v.map fun x =>
    let m := (Nat.sqrt (4 * scale ^ 2 * x.natAbs ^ 2 / (dot v v).natAbs) + 1) / 2
    if x < 0 then -(m : Int) else m

/-- The sum of vectors. -/
def sumVec (vs : List (List Int)) : List Int := (List.range 64).map fun j => (vs.map fun v => v.getD j 0).sum

end Sys2Proof.Machine
end

