-- ==== Sys2Proof/Machine/Nightwatch.lean ====
section
/-! DEFINITION. Nightwatch: modes, samples, detectors, wakes, pre-roll and retention (R469–R500). -/
namespace Sys2Proof.Machine

/-- Nightwatch with a change. -/
def onNw (g : NwState → NwState) (s : State) : State := { s with nw := g s.nw }

/-- The outcome of an event inside Nightwatch: it needs VDD_NW alone, whatever Crust's state (R161). -/
def okNw (f : State → State) (s : State) : Host.Outcome State Fault Refusal :=
  .next (if s.pwr.sup.vddNw then f s else s)

/-- Whether the crossing to Crust is open (R17). -/
def nwOpen (s : State) : Bool := s.on 111 && s.pwr.sup.crust && !s.pwr.undef

/-- Vector 27 is signalled, if the crossing is open (R17, R500). -/
def nwSignal (s : State) : State := if nwOpen s then signalMisc 27 s else s

/-- NW_EVT_SEQ advances (R500). -/
def nwEvt (s : State) : State := nwSignal (s.fadd Fld.NW_EVT_SEQ_SEQ 1)

/-- An event of the pattern tables (R485). -/
def raiseNw (e : Nat) (s : State) : State :=
  onNw (fun n => { n with tables := n.tables.map fun (t, i) => (t, i.arrive e) }) s

/-! ## Registers that mirror Nightwatch (R500) -/

/-- The dead channels as a mask. -/
def NwState.deadMask (n : NwState) : Nat :=
  (List.range 8).foldl (fun m c => if (n.chans.getD c NwChan.reset).dead then m + 2 ^ c else m) 0

/-- The enabled channels as a mask. -/
def NwState.enabled (n : NwState) : Nat := match n.cfg with | some g => g.chEn | none => 0

/-- Frames that the pre-roll buffer holds, and a frame's bytes (R492). -/
def NwCfg.recorded (g : NwCfg) : Nat := (List.range 8).countP fun c => g.preMask.testBit c
def NwCfg.frames (g : NwCfg) : Nat := 262144 / g.recorded

/-- The pre-roll offset of a sample. -/
def preOffset (g : NwCfg) (s0 s : Nat) : Nat := (s - s0) % g.frames * (2 * g.recorded)

/-- The registers of the NW block that mirror its state. -/
def nwView (s : State) (off : Nat) : Option Word :=
  let n := s.nw
  let b (c : Bool) (i : Nat) : Nat := if c then 2 ^ i else 0
  let o := off - 0x580000
  if o = 0 then some (BitVec.ofNat 32 (n.mode + b n.window 2 + b n.scrub 3 + b n.settling 4 + b n.retValid 5 +
    b n.enrol.isSome 6 + b (n.busy || n.due.isSome) 7 + n.deadMask * 256 + n.queue.length * 2 ^ 16))
  else if o = 8 then some (BitVec.ofNat 32 n.scount)
  else if o = 0xc then some (BitVec.ofNat 32 (n.scount / 2 ^ 32))
  else if o = 0x20 then some (BitVec.ofNat 32 (match n.cfg with | some g => g.crc | none => 0))
  else if o = 0x24 then some (BitVec.ofNat 32 (n.ret.model.getD 0))
  else if o = 0x94 then some (BitVec.ofNat 32 (match n.cfg with
    | some g => if g.recorded = 0 then 0 else preOffset g n.s0 n.scount
    | none => 0))
  else if 0xc0 ≤ o ∧ o < 0xe0 then
    let u := (o - 0xc0) / 4
    some (BitVec.ofNat 32 ((List.range 16).foldl (fun m k =>
      if (n.ret.templates.lookup (u * 16 + k)).isSome then m + 2 ^ k else m) 0))
  else if 0xe0 ≤ o ∧ o < 0x100 then
    let c := (o - 0xe0) / 4
    let en := n.enabled.testBit c
    some (BitVec.ofNat 32 (b en 0 + b (n.chans.getD c NwChan.reset).dead 1 + b (en && n.settling) 2))
  else none

/-! ## Modes (R469, R470, R498) -/

/-- An enrolment ends with a result: NW_ENROL_RESULT carries the command's SEQ, and NW_EVT_SEQ advances (R482). -/
def enrolResult (status utter seq : Nat) (s : State) : State :=
  nwEvt (((onNw (fun n => { n with enrol := none }) s).fset Fld.NW_ENROL_RESULT_STATUS status).fset
    Fld.NW_ENROL_RESULT_UTTER utter |>.fset Fld.NW_ENROL_RESULT_SEQ seq)

/-- The mode changes: the MODE event; an enrolment is aborted (R482, R485). -/
def setMode (m : Nat) (s : State) : State :=
  if s.nw.mode = m then s
  else
    let s := raiseNw 9 (onNw (fun n => { n with mode := m }) s)
    match s.nw.enrol with
    | some x => enrolResult 4 x.embs.length x.seq s
    | none => s

/-- PDM_CLK of the present mode. -/
def NwState.wantClk (n : NwState) : Nat :=
  match n.mode, n.cfg with
  | 1, some _ => 768000
  | 2, some g => if g.fullClk then 2400000 else 3072000
  | _, _ => 0

/-- PDM_CLK changes at a sample boundary, and the microphones settle (R470); the paths start afresh (DEDUCED, log entry 27). -/
def execPdmClockChange (s : State) : Host.Outcome State Fault Refusal :=
  okNw (fun s =>
    match s.nw.cfg with
    | some g =>
      if s.nw.wantClk = s.nw.clk then s
      else (onNw (fun n => { n with
        clk := n.wantClk, settling := true, settleLeft := g.settleMs * 16, settledAt := n.scount
        chans := n.chans.map fun c => { c with p16 := .reset, p48 := .reset, quiet := 0, lively := 0 } }) s).fadd
        Fld.NW_SETTLES_COUNT 1
    | none => s) s

/-- The settle period ends (R470). -/
def execSettleEnd (s : State) : Host.Outcome State Fault Refusal :=
  okNw (fun s => if s.nw.settling && s.nw.settleLeft == 0 then onNw (fun n => { n with settling := false }) s else s) s

/-- Domains NW_KWS, NW_ALARM and NW_PREROLL follow the configuration (R469, R495). -/
def nwDomains (s : State) : State :=
  let set (d : Nat) (b : Bool) (s : State) : State :=
    { s with pwr := { s.pwr with dom := spSet DomState.off d (if b then .on else .off) s.pwr.dom } }
  match s.nw.cfg with
  | some g => set 160 (!g.layers.isEmpty) (set 161 (g.alarmMask ≠ 0) (set 162 (g.preMask ≠ 0) s))
  | none => set 160 false (set 161 false (set 162 false s))

/-- The registers of halted and running tables (R500). -/
def nwTableRegs (s : State) : State :=
  (List.range 4).foldl (fun s t =>
    match s.nw.tables.lookup t with
    | some i => s.fset (Fld.NW_TABLE_ROW t) i.state
    | none => s) s

/-- Detectors, network history and pattern tables at their reset states (R498). -/
def freshDetectors (g : Option NwCfg) (n : NwState) : NwState :=
  { n with
    cfg := g, kwsIn := [], alarmIn := [], frame := 0, layerIn := [], layerOut := [], runs := [], embs := [], levels := []
    tonal := 0, nonTonal := 0, toneOn := false, impactHold := 0, shatter := 0, shatterDone := false
    tables := match g with
      | some g => g.tables.map fun (t, x) => (t, x.begin)
      | none => [] }

/-- Templates belong to the MODEL_ID of the section applied; another one clears them (R495; DEDUCED, log entry 27 for RET_VALID). -/
def bindModel (g : NwCfg) (s : State) : State :=
  if s.nw.ret.model = some g.modelId || !s.pwr.sup.vret then s
  else onNw (fun n => { n with ret := ⟨[], some g.modelId, true⟩, retValid := true }) s

/-- The loader applies a NIGHTWATCH section (R498). -/
def applyNw (g : NwCfg) (s : State) : State :=
  if !s.pwr.sup.vddNw then s
  else if (s.nw.cfg.map (·.crc)) = some g.crc then s
  else
    let keepS0 := match s.nw.cfg with | some h => h.preMask == g.preMask | none => false
    let s := onNw (fun n => freshDetectors (some g) { n with s0 := if keepS0 then n.s0 else n.scount }) s
    nwTableRegs (setMode 2 (bindModel g (nwDomains s)))

/-- Nightwatch becomes UNCONFIGURED; PDM_CLK stops (R469). -/
def unconfigure (s : State) : State :=
  nwDomains (setMode 0 (onNw (fun n => { freshDetectors none n with clk := 0, settling := false, settleLeft := 0 }) s))

/-- The CRC of retention memory is checked (R495). -/
def checkRetention (s : State) : State :=
  if s.nw.ret.good && s.pwr.sup.vret then onNw (fun n => { n with retValid := true }) s
  else onNw (fun n => { n with ret := ⟨[], none, false⟩, retValid := false, retLost := true }) s

/-- The window closes: WINDOW_CLOSED, and the scrub begins (R489). -/
def closeWindow (s : State) : State :=
  nwEvt (raiseNw 7 (onNw (fun n => { n with
    window := false, scrub := true, rec_ := n.rec_.map fun r => { r with expired := true } }) s))

/-- A Nightwatch reset: UNCONFIGURED, its registers at reset, any window closed, the buffer scrubbed, retention memory kept
and checked (R168, R495, R498, R500). -/
def nwReset (s : State) : State :=
  let s := s.resetRegs 0x580000 0x600000
  let s := onNw (fun n => { NwState.reset with scrub := true, pre := n.pre, ret := n.ret }) s
  checkRetention (nwDomains { s with pwr := { s.pwr with pins := { s.pwr.pins with wakeN := true } } })

/-- A write of MODE (R469). -/
def actNwMode (m : Nat) (s : State) : State :=
  if s.nw.mode = 0 then s else setMode m s

/-- A write of NW_CTRL. -/
def actNwCtrl (v : Word) (s : State) : State :=
  let s := if v.getLsbD 8 then nwReset s else s
  match bitsOf 1 0 v with
  | 1 => actNwMode 1 s
  | 2 => actNwMode 2 s
  | _ => s

def execNwModeListen (f : HostFn) (s : State) : Host.Outcome State Fault Refusal :=
  ok (hostWrite f Reg.NW_CTRL (actNwCtrl 1)) s

def execNwModeFull (f : HostFn) (s : State) : Host.Outcome State Fault Refusal :=
  ok (hostWrite f Reg.NW_CTRL (actNwCtrl 2)) s

def execNwReset (f : HostFn) (s : State) : Host.Outcome State Fault Refusal :=
  ok (hostWrite f Reg.NW_CTRL (actNwCtrl 0x100)) s

/-- The crossing is isolated while Crust is unpowered: FULL becomes LISTEN (R17, R469). -/
def execCrossingIsolation (s : State) : Host.Outcome State Fault Refusal :=
  okNw (fun s => if !(nwOpen s) && s.nw.mode == 2 then setMode 1 s else s) s

/-! ## Samples (R473–R476, R492) -/

/-- Ratios of the 16 kHz and 48 kHz paths at a clock (R472). -/
def cicRatio16 (clk : Nat) : Nat := clk / 32000
def cicRatio48 (clk : Nat) : Nat := clk / 96000

/-- One channel over one sample period: its paths, its dead-microphone counts, its 16 kHz sample, and its three 48 kHz ones
(R471, R475). A path that is not used yields zeros. -/
def channelStep (g : NwCfg) (full settling : Bool) (clk : Nat) (bits : List Bool) (ch : NwChan) : NwChan × List Int :=
  let (p, x) := decimate (if full then g.firF16 else g.firL16) (cicRatio16 clk) bits ch.p16
  let (q, ys) := if full && g.rate48 then decimate48 g.firF48 (cicRatio48 clk) bits ch.p48 else (ch.p48, [0, 0, 0])
  let moved := bits.any (· != bits.headD false)
  let mute := settling || ch.dead
  ({ ch with
      p16 := p, p48 := q, sample := if mute then 0 else x
      quiet := if settling || moved then 0 else ch.quiet + 1
      lively := if settling || !moved then 0 else ch.lively + 1 }, if mute then [0, 0, 0] else ys)

/-- The mean of the live channels of a mask in 1/840 of a sample's unit; zero without any (R477). -/
def liveMean (en mask : Nat) (chans : List NwChan) : Int :=
  let xs := (List.range 8).filterMap fun c =>
    let ch := chans.getD c NwChan.reset
    if en.testBit c && mask.testBit c && !ch.dead then some ch.sample else none
  840 / (max 1 xs.length : Int) * xs.sum

/-- The slots of an I2S frame (R476). -/
def i2sFrame (g : NwCfg) (v : Nat → Int) : List Int :=
  (List.range (max 2 g.slots)).map fun i =>
    let m := g.slotMap.getD i 0x80
    if i < g.slots ∧ m < 128 ∧ g.chEn.testBit (m % 8) then v (m % 8) else 0

/-- One frame written to the pre-roll buffer (R492). -/
def writePre (g : NwCfg) (n : NwState) : NwState :=
  let bytes := (List.range 8).flatMap fun c =>
    if g.preMask.testBit c then leBytes 2 (unsignedOf 16 (sample16 (n.chans.getD c NwChan.reset).sample)) else []
  { n with pre := spWriteAll 0 (preOffset g n.s0 n.scount) bytes n.pre }

/-- One sample of a running Nightwatch: `bits` are the PDM bits of each channel in this period. -/
def sampleStep (g : NwCfg) (bits : List (List Bool)) (s : State) : State :=
  let n := s.nw
  let full := n.mode == 2 && n.clk ≠ 768000
  let rs := (List.range 8).map fun c =>
    let ch := n.chans.getD c NwChan.reset
    if g.chEn.testBit c then
      channelStep g full n.settling n.clk ((bits.getD c []).take (2 * cicRatio16 n.clk)) ch
    else (ch, [0, 0, 0])
  let chans := rs.map (·.1)
  let n := { n with
    chans := chans
    kwsIn := (liveMean g.chEn g.kwsMask chans :: n.kwsIn).take 400
    alarmIn := (liveMean g.chEn g.alarmMask chans :: n.alarmIn).take 64
    settledAt := if n.settling then n.scount else n.settledAt
    settleLeft := n.settleLeft - 1 }
  let n := if s.on 162 && !n.scrub then writePre g n else n
  let frames : List (List Int) :=
    if !full then []
    else if g.rate48 then (List.range 3).map fun k => i2sFrame g fun c => ((rs.getD c (NwChan.reset, [])).2).getD k 0
    else [i2sFrame g fun c => (chans.getD c NwChan.reset).sample]
  frames.foldl (fun s x => s.out (.i2s x)) { s with nw := n }

/-- A 16 kHz sample (R471–R476, R492): SCOUNT runs in every mode. -/
def execSampleBoundary (bits : List (List Bool)) (s : State) : Host.Outcome State Fault Refusal :=
  okNw (fun s =>
    let s := match s.nw.cfg with
      | some g => if s.nw.clk ≠ 0 then sampleStep g bits s else s
      | none => s
    onNw (fun n => { n with scount := (n.scount + 1) % 2 ^ 64 }) s) s

/-- SCOUNT and Epoch are captured every 1,000 samples while Crust is up (R474). -/
def execTsyncCapture (s : State) : Host.Outcome State Fault Refusal :=
  okNw (fun s =>
    if nwOpen s && s.nw.scount % 1000 == 0 then
      (s.setPair Reg.NW_TSYNC_SC_LO Reg.NW_TSYNC_SC_HI s.nw.scount).setPair Reg.NW_TSYNC_EP_LO Reg.NW_TSYNC_EP_HI s.epoch
    else s) s

/-- A channel's dead state changes: its event, and NW_EVT_SEQ (R475). -/
def setDead (c : Nat) (b : Bool) (s : State) : State :=
  nwEvt (raiseNw (if b then 5 else 6) (onNw (fun n => { n with
    chans := n.chans.modify c fun x => { x with dead := b, quiet := 0, lively := 0 } }) s))

def execChannelDead (c : Fin 8) (s : State) : Host.Outcome State Fault Refusal :=
  okNw (fun s =>
    match s.nw.cfg with
    | some g =>
      let ch := s.nw.chans.getD c.val NwChan.reset
      if g.chEn.testBit c.val && !ch.dead && decide (g.deadMs * 16 ≤ ch.quiet) then
        (setDead c.val true s).fadd (Fld.NW_CH_DEADS_COUNT c.val) 1
      else s
    | none => s) s

def execChannelAlive (c : Fin 8) (s : State) : Host.Outcome State Fault Refusal :=
  okNw (fun s =>
    match s.nw.cfg with
    | some g =>
      let ch := s.nw.chans.getD c.val NwChan.reset
      if ch.dead && decide (g.aliveMs * 16 ≤ ch.lively) then setDead c.val false s else s
    | none => s) s

/-! ## Keywords and users (R477–R480, R482) -/

/-- A keyword's run with this frame's score (R479). -/
def nextRun (k : NwKeyword) (score frame sample : Nat) (r : NwRun) : NwRun :=
  let spent := r.spent && decide (k.thresh ≤ score + k.hyst)
  if k.thresh ≤ score then
    { (if r.run = 0 then { r with frame := frame, sample := sample } else r) with run := r.run + 1, spent := spent }
  else { r with run := 0, spent := spent }

/-- The run of a keyword with nothing seen. -/
def NwRun.none : NwRun := ⟨0, 0, 0, false⟩

/-- The keyword detected in a frame: of those whose run holds, the highest score, ties to the lower number (R479). -/
def detected (g : NwCfg) (scores : List Int) (runs : List (Nat × NwRun)) : Option Nat :=
  ((List.range (min 16 g.keywords.length)).filter fun k =>
    let r := spGet NwRun.none runs k
    match g.keywords[k]? with
    | some w => decide (w.hold ≤ r.run) && !r.spent
    | none => false).foldl (fun b k => match b with
      | some j => if scores.getD j 0 < scores.getD k 0 then some k else b
      | none => some k) none

/-- The user of an embedding: the enrolled template of the highest similarity, if it reaches USER_THRESH (R480). -/
def recognise (g : NwCfg) (ret : NwRet) (k : Nat) (emb : List Int) : Nat × Int :=
  let sims := (List.range 8).filterMap fun u => (ret.templates.lookup (u * 16 + k)).map fun t => (u, cosine emb t)
  match sims with
  | [] => (0xFF, 0)
  | x :: xs =>
    let (u, m) := xs.foldl (fun (a : Nat × Int) b => if a.2 < b.2 then b else a) x
    (if (g.userThresh : Int) ≤ m then u else 0xFE, m)

/-- A third utterance ends an enrolment (R482). -/
def enrolDone (g : NwCfg) (x : NwEnrol) (s : State) : State :=
  let us := x.embs.map (unitVec (2 ^ 30))
  let t := (unitVec (2 ^ 15) (sumVec us)).map fun v => max (-32768) (min 32767 v)
  if x.embs.all fun e => decide ((g.enrolMin : Int) ≤ cosine e (sumVec us)) then
    enrolResult 0 3 x.seq (onNw (fun n => { n with
      ret := { n.ret with templates := spPut (x.user * 16 + x.kw) t n.ret.templates } }) s)
  else enrolResult 2 3 x.seq s

/-- A detection of keyword `k` (R479, R480, R482). -/
def detect (g : NwCfg) (k : Nat) (scores : List Int) (s : State) : State :=
  let s := s.fadd (Fld.NW_KW_COUNT_COUNT k) 1
  let r := spGet NwRun.none s.nw.runs k
  let len := match g.keywords[k]? with | some w => w.len | none => 0
  let count := s.nw.frame + 1 - (r.frame - len)
  let emb := sumVec (s.nw.embs.take count)
  let s := onNw (fun n => { n with runs := spPut k { r with spent := true } n.runs }) s
  match s.nw.enrol with
  | some x =>
    if x.kw = k ∧ s.nw.scount < x.until_ then
      let x := { x with embs := x.embs ++ [emb] }
      if x.embs.length < 3 then onNw (fun n => { n with enrol := some x }) s else enrolDone g x s
    else s
  | none =>
    let (u, m) := recognise g s.nw.ret k emb
    raiseNw 0 (onNw (fun n => { n with
      kw := k, score := (scores.getD k 0).toNat, user := u, sim := m, kwStart := r.sample - len * 160 }) s)

/-- A detection of another keyword than the one enrolled is an ordinary one (R482). -/
def detectOther (g : NwCfg) (k : Nat) (scores : List Int) (s : State) : State :=
  match s.nw.enrol with
  | some x =>
    if x.kw = k then detect g k scores s
    else
      let t := detect g k scores (onNw (fun n => { n with enrol := none }) s)
      onNw (fun n => { n with enrol := some x }) t
  | none => detect g k scores s

/-- A feature frame (R477–R479). -/
def featureFrame (g : NwCfg) (s : State) : State :=
  let n := s.nw
  let feat := (List.range g.bandCount).map fun b =>
    let (lo, ctr, hi) := g.bands.getD b (0, 0, 0)
    (featureCode (Config.bandEnergy n.kwsIn lo ctr hi) : Int) - 128
  let n := runLayers g feat n.frame { n with frameAt := n.scount }
  let scores := (List.range 17).map fun j => (spGet [] n.layerOut g.scoreLayer).getD j 0 + 128
  let runs := (List.range (min 16 g.keywords.length)).foldl (fun rs k =>
    match g.keywords[k]? with
    | some w => spPut k (nextRun w (scores.getD k 0).toNat n.frame n.scount (spGet NwRun.none rs k)) rs
    | none => rs) n.runs
  let n := { n with runs := runs, embs := (spGet [] n.layerOut g.embLayer :: n.embs).take 256 }
  let s := { s with nw := n }
  let s := match detected g scores runs with
    | some k => detectOther g k scores s
    | none => s
  onNw (fun n => { n with frame := n.frame + 1 }) s

def execFeatureFrame (s : State) : Host.Outcome State Fault Refusal :=
  okNw (fun s =>
    match s.nw.cfg with
    | some g =>
      if s.on 160 && s.nw.scount % 160 == 0 && s.nw.scount ≠ s.nw.frameAt then featureFrame g s else s
    | none => s) s

/-- A write of NW_ENROL (R482). -/
def actNwEnrol (v : Word) (s : State) : State :=
  let op := bitsOf 13 12 v
  if op ≠ 1 ∧ op ≠ 2 then s
  else if s.nw.enrol.isSome || s.nw.mode ≠ 2 then s.fsat Fld.NW_ENROL_DROPS_COUNT
  else if !s.nw.retValid then enrolResult 3 0 (bitsOf 31 16 v) s
  else
    let u := bitsOf 2 0 v
    let k := bitsOf 11 8 v
    if op = 1 then onNw (fun n => { n with enrol := some ⟨u, k, bitsOf 31 16 v, n.scount + 480000, []⟩ }) s
    else enrolResult 0 0 (bitsOf 31 16 v) (onNw (fun n => { n with
      ret := { n.ret with templates := spDel (u * 16 + k) n.ret.templates } }) s)

/-- The word of NW_ENROL. -/
def enrolWord (user : Fin 8) (kw : Fin 16) (op : Nat) (seq : BitVec 16) : Word :=
  BitVec.ofNat 32 (user.val + 256 * kw.val + 4096 * op + 65536 * seq.toNat)

def execNwEnrol (f : HostFn) (user : Fin 8) (kw : Fin 16) (seq : BitVec 16) (s : State) :
    Host.Outcome State Fault Refusal :=
  ok (hostWrite f Reg.NW_ENROL (actNwEnrol (enrolWord user kw 1 seq))) s

def execNwEnrolDelete (f : HostFn) (user : Fin 8) (kw : Fin 16) (seq : BitVec 16) (s : State) :
    Host.Outcome State Fault Refusal :=
  ok (hostWrite f Reg.NW_ENROL (actNwEnrol (enrolWord user kw 2 seq))) s

def execEnrolTimeout (s : State) : Host.Outcome State Fault Refusal :=
  okNw (fun s =>
    match s.nw.enrol with
    | some x => if x.until_ ≤ s.nw.scount then enrolResult 1 x.embs.length x.seq s else s
    | none => s) s

/-! ## Alarm detectors (R483, R484) -/

/-- The eight bins in Hz (R483). -/
def toneBins (g : NwCfg) : List Nat := (List.range 8).map fun i => g.toneFlo + (g.toneFhi - g.toneFlo) * i / 7

/-- The tone detector over a block (R483). -/
def toneBlock (g : NwCfg) (e : Nat) (s : State) : State :=
  let bins := (toneBins g).map fun f => (f, Config.binEnergy s.nw.alarmIn f)
  let (hz, m) := bins.foldl (fun (a : Nat × Nat) b => if a.2 < b.2 then b else a) (bins.headD (0, 0))
  let t := decide (g.toneFloor ≤ blockDb e) && decide (-(g.toneSnr : Int) ≤ dbOver m (max 1 e))
  let s := onNw (fun n => { n with
    toneHz := hz, tonal := if t then n.tonal + 1 else 0, nonTonal := if t then 0 else n.nonTonal + 1 }) s
  if !s.nw.toneOn && decide (g.toneOn ≤ 4 * s.nw.tonal) then
    raiseNw 1 ((onNw (fun n => { n with toneOn := true }) s).fadd Fld.NW_TONES_COUNT 1)
  else if s.nw.toneOn && decide (g.toneOff ≤ 4 * s.nw.nonTonal) then
    raiseNw 2 (onNw (fun n => { n with toneOn := false }) s)
  else s

/-- IMPACT (R484). -/
def impactBlock (g : NwCfg) (e : Nat) (s : State) : State :=
  let past := s.nw.levels
  let rises := !past.isEmpty && decide ((g.impactDb : Int) ≤ dbOver (e * past.length) (max 1 past.sum)) &&
    decide (g.impactFloor ≤ blockDb e)
  if rises && s.nw.impactHold == 0 then
    raiseNw 3 ((onNw (fun n => { n with impactHold := 25 }) s).fadd Fld.NW_IMPACTS_COUNT 1)
  else onNw (fun n => { n with impactHold := n.impactHold - 1 }) s

/-- SHATTER (R484). -/
def shatterBlock (g : NwCfg) (s : State) : State :=
  let (hi, lo) := Config.splitEnergy s.nw.alarmIn g.hbHz
  if (g.hbDb : Int) ≤ dbOver hi (max 1 lo) ∧ lo < hi then
    let s := onNw (fun n => { n with shatter := n.shatter + 1 }) s
    if !s.nw.shatterDone && decide (g.hbMs ≤ 4 * s.nw.shatter) then
      raiseNw 4 ((onNw (fun n => { n with shatterDone := true }) s).fadd Fld.NW_SHATTERS_COUNT 1)
    else s
  else onNw (fun n => { n with shatter := 0, shatterDone := false }) s

def execAlarmBlock (s : State) : Host.Outcome State Fault Refusal :=
  okNw (fun s =>
    match s.nw.cfg with
    | some g =>
      if s.on 161 && s.nw.scount % 64 == 0 && s.nw.scount ≠ s.nw.blockAt then
        let e := energy s.nw.alarmIn
        let s := onNw (fun n => { n with blockAt := n.scount, level := blockDb e }) s
        let s := shatterBlock g (impactBlock g e (toneBlock g e s))
        onNw (fun n => { n with levels := (e :: n.levels).take 64 }) s
      else s
    | none => s) s

/-! ## Pattern tables' inputs and outputs (R485, R486) -/

/-- The inputs of the pattern tables. -/
def nwInput (s : State) (i : Nat) : Word :=
  let n := s.nw
  match i with
  | 0 => BitVec.ofNat 32 n.kw
  | 1 => BitVec.ofNat 32 n.score
  | 2 => BitVec.ofNat 32 n.user
  | 3 => BitVec.ofInt 32 n.sim
  | 4 => BitVec.ofNat 32 n.toneHz
  | 5 => BitVec.ofInt 32 n.level
  | 6 => BitVec.ofNat 32 n.deadMask
  | 7 => BitVec.ofNat 32 n.mode
  | 8 => BitVec.ofNat 32 n.scount
  | 9 => n.signal
  | 10 => if n.window then 1 else 0
  | _ => 0

/-- A trigger that is dropped, replaced or ignored (R487). -/
def dropTrig (s : State) : State :=
  (onNw (fun n => { n with drops := min 65535 (n.drops + 1) }) s).fsat Fld.NW_WAKE_STAT_DROPS

/-- A wake trigger: its delivery falls due at once, or WAKE_POLICY handles it (R487). -/
def wakeTrigger (x : NwTrig) (s : State) : State :=
  let n := s.nw
  if !n.busy && n.due.isNone then onNw (fun n => { n with due := some x }) s
  else
    let (policy, depth) := match n.cfg with | some g => (g.policy, g.depth) | none => (1, 1)
    match policy with
    | 0 => if n.queue.length < depth then onNw (fun n => { n with queue := n.queue ++ [x] }) s else dropTrig s
    | 1 => onNw (fun n => { n with queue := [x] }) (if n.queue.isEmpty then s else dropTrig s)
    | _ => dropTrig s

/-- What an EMIT of a pattern table does (R486). -/
def nwEmit (t dst : Nat) (arg : Word) (s : State) : State :=
  let n := s.nw
  if dst = 0 then
    let cause := bitsOf 7 0 arg
    let k := decide (cause = 1)
    wakeTrigger
      { cause := cause, detail := bitsOf 15 8 arg, table := t, kw := if k then n.kw else 0xFF
        user := if k then n.user else 0xFF, score := if k then n.score else 0, sim := if k then n.sim else 0
        tStart := if k then n.kwStart else n.scount, tDet := n.scount
        settling := k && (n.settling || (decide (0 < n.settledAt) && decide (n.kwStart ≤ n.settledAt))) } s
  else nwEvt (((s.fset Fld.NW_EVT_CODE_CODE (bitsOf 15 0 arg)).fset Fld.NW_EVT_CODE_KEYWORD n.kw).fset
    Fld.NW_EVT_CODE_USER n.user)

/-- A write of NW_SIGNAL: input 9 and the HOST event (R485). -/
def actNwSignal (v : Word) (s : State) : State := raiseNw 8 (onNw (fun n => { n with signal := v }) s)

def execNwSignal (f : HostFn) (val : Word) (s : State) : Host.Outcome State Fault Refusal :=
  ok (hostWrite f Reg.NW_SIGNAL (actNwSignal val)) s

/-! ## Wakes (R29, R487–R491) -/

/-- The window opens, or its timer restarts (R488). -/
def openWindow (s : State) : State :=
  let w := match s.nw.cfg with | some g => g.windowS | none => 1
  onNw (fun n => { n with
    window := true, openDue := false, winEnd := n.scount + w * 16000
    rec_ := n.rec_.map fun r => { r with tClose := n.scount + w * 16000 } }) s

/-- The record of a delivery (R488, R491). -/
def wakeRecord (s : State) (x : NwTrig) : NwRec :=
  let n := s.nw
  let kept : Option NwCfg := n.cfg.filter fun g => g.recorded ≠ 0
  let mask := match n.cfg with | some g => g.preMask | none => 0
  let oldest := match kept with | some g => max n.s0 (n.scount - g.frames) | none => n.scount
  let off (t : Nat) : Nat := match kept with | some g => preOffset g n.s0 t | none => 0
  { trig := x, short := n.scrub, deadMask := n.deadMask, retLost := n.retLost, expired := false, tOldest := oldest
    bufStart := if oldest ≤ x.tStart ∧ x.tStart < n.scount then off x.tStart else 0xFFFFFFFF
    bufOldest := off oldest, chMask := mask, mode := n.mode, drops := n.drops, tClose := 0 }

/-- A wake is delivered: the record, the window, PWRREQ_N, WAKE_N, and WAKE to Zenith, in this order (R488). -/
def nwDeliver (x : NwTrig) (s : State) : State :=
  let s := onNw (fun n => { n with due := none, busy := true, rec_ := some (wakeRecord s x), drops := 0, retLost := false }) s
  let s := if s.nw.scrub then onNw (fun n => { n with openDue := true }) s else openWindow s
  let s := { s with pwr := { s.pwr with pins := { s.pwr.pins with pwrreqN := false, wakeN := false } } }
  if nwOpen s then raiseZen 1 s else s

def execWakeDelivery (s : State) : Host.Outcome State Fault Refusal :=
  okNw (fun s => match s.nw.due with
    | some x => nwDeliver x s
    | none => s) s

/-- The 64 bytes of a record (R491). -/
def wakeBytes (r : NwRec) : List Byte :=
  let x := r.trig
  let b (c : Bool) (i : Nat) : Nat := if c then 2 ^ i else 0
  let dead := r.deadMask &&& r.chMask
  leBytes 1 x.cause ++ leBytes 1 x.detail ++ leBytes 1 x.kw ++ leBytes 1 x.user ++ leBytes 1 x.score ++
    leBytes 1 (b r.short 0 + b x.settling 1 + b (dead ≠ 0) 2 + b r.retLost 3 + b r.expired 4) ++
    leBytes 2 (unsignedOf 16 x.sim) ++ leBytes 8 x.tStart ++ leBytes 8 x.tDet ++ leBytes 8 r.tOldest ++
    leBytes 4 r.bufStart ++ leBytes 4 r.bufOldest ++ leBytes 1 r.chMask ++ leBytes 1 r.deadMask ++ leBytes 1 x.table ++
    leBytes 1 r.mode ++ leBytes 2 r.drops ++ leBytes 2 0 ++ leBytes 8 r.tClose ++ leBytes 8 0

/-- A write of NW_POST (R490). -/
def actNwPost (s : State) : State :=
  match s.nw.rec_ with
  | none => s
  | some r =>
    let bs := wakeBytes r
    let s := (List.range 16).foldl (fun s k => s.setReg (Reg.NW_WAKE_DATA k) (BitVec.ofNat 32 (leAt (4 * k) 4 bs))) s
    let s := onNw (fun n => { n with rec_ := none }) (s.fadd Fld.NW_WAKE_SEQ_SEQ 1)
    nwSignal (s.fset Fld.NW_WAKE_STAT_READY 1)

def execNwPost (f : HostFn) (s : State) : Host.Outcome State Fault Refusal :=
  ok (hostWrite f Reg.NW_POST actNwPost) s

/-- A write of NW_WAKE_ACK (R487, R490): a record that is not posted yet is not acknowledged. -/
def actNwWakeAck (v : Word) (s : State) : State :=
  if v ≠ s.reg Reg.NW_WAKE_SEQ ∨ s.fget Fld.NW_WAKE_STAT_READY = 0 then s
  else
    let s := s.fset Fld.NW_WAKE_STAT_READY 0
    let s := { s with pwr := { s.pwr with pins := { s.pwr.pins with wakeN := true } } }
    onNw (fun n => { n with busy := false, due := n.queue.head?, queue := n.queue.drop 1 }) s

def execNwWakeAck (f : HostFn) (seq : Word) (s : State) : Host.Outcome State Fault Refusal :=
  ok (hostWrite f Reg.NW_WAKE_ACK (actNwWakeAck seq)) s

def execWindowTimeout (s : State) : Host.Outcome State Fault Refusal :=
  okNw (fun s => if s.nw.window && decide (s.nw.winEnd ≤ s.nw.scount) then closeWindow s else s) s

/-- A write of NW_CLOSE (R489). -/
def actNwClose (v : Word) (s : State) : State :=
  if s.nw.window && v == s.reg Reg.NW_WAKE_SEQ then closeWindow s else s

def execNwClose (f : HostFn) (seq : Word) (s : State) : Host.Outcome State Fault Refusal :=
  ok (hostWrite f Reg.NW_CLOSE (actNwClose seq)) s

/-- The scrub ends: the buffer holds zeros, recording restarts at offset 0, and a window that waited opens (R488, R493). -/
def execScrubDone (s : State) : Host.Outcome State Fault Refusal :=
  okNw (fun s =>
    if s.nw.scrub then
      let s := onNw (fun n => { n with scrub := false, pre := [], s0 := n.scount }) s
      if s.nw.openDue then openWindow s else s
    else s) s

/-- At commit, WAKE is raised to Zenith for a delivered record that is still unposted (R176, R488). -/
def wakeAtCommit (s : State) : State := if s.nw.rec_.isSome && nwOpen s then raiseZen 1 s else s

/-- NW_HANDOVER: Nightwatch takes over the microphones (R174, R469). -/
def nwHandover (s : State) : State := if s.pwr.sup.vddNw then actNwMode 1 s else s

/-- STANDBY: PWRREQ_N is released, unless a wake event has arrived (R174, R175). -/
def nwStandby (s : State) : State :=
  if s.nw.busy || s.nw.due.isSome then s
  else { s with pwr := { s.pwr with pins := { s.pwr.pins with pwrreqN := true } } }

/-! ## Supplies (R155, R163, R489, R495) -/

/-- VDD_NW comes into range (R163, R469, R495). -/
def execVddNwRise (s : State) : Host.Outcome State Fault Refusal :=
  .next (if s.pwr.sup.vddNw then s else
    let s := { s with pwr := { s.pwr with
      sup := { s.pwr.sup with vddNw := true }, dom := spSet DomState.off 159 .on s.pwr.dom
      pins := { s.pwr.pins with pwrreqN := false } } }
    nwReset s)

/-- VDD_NW is lost: any window closes and Nightwatch stops; what retention memory holds stays under VRET (R489). -/
def execVddNwLoss (s : State) : Host.Outcome State Fault Refusal :=
  .next (if !s.pwr.sup.vddNw then s else
    let s := nwDomains (onNw (fun n => { NwState.reset with ret := n.ret }) (s.resetRegs 0x580000 0x600000))
    { s with pwr := { s.pwr with
      sup := { s.pwr.sup with vddNw := false }, dom := spSet DomState.off 159 .off s.pwr.dom
      pins := { s.pwr.pins with wakeN := true } } })

/-- VRET is removed: NW_RETAIN is OFF and the templates are lost (R495). -/
def execVretLoss (s : State) : Host.Outcome State Fault Refusal :=
  .next (
    let s := onNw (fun n => { n with ret := ⟨[], none, false⟩, retValid := false }) s
    { s with pwr := { s.pwr with sup := { s.pwr.sup with vret := false }, dom := spSet DomState.off 163 .off s.pwr.dom } })

/-- VRET returns: NW_RETAIN is ON; its contents are not valid until the next check (R155, R495). -/
def execVretReturn (s : State) : Host.Outcome State Fault Refusal :=
  .next { s with pwr := { s.pwr with sup := { s.pwr.sup with vret := true }, dom := spSet DomState.off 163 .on s.pwr.dom } }

end Sys2Proof.Machine
end

