-- ==== Sys2Proof/Machine/Channels.lean ====
section
/-! DEFINITION. Memory channels: training, initialisation, refresh rate, power-down (R156, R165, R285, R286). -/
namespace Sys2Proof.Machine

/-- The DRAM of channels that a test names holds nothing: bytes and markings unlisted. -/
def dropDram (p : Nat → Bool) (s : State) : State :=
  { s with mem := { s.mem with
      dram := s.mem.dram.filter fun e => !(p (channelOf e.1))
      poison := s.mem.poison.filter fun e => !(p (channelOf (e.1 * 64)))
      codeCache := s.mem.codeCache.filter fun e => !(p e.1) } }

/-- A channel turns ON from OFF: its training begins (R165). -/
def beginTraining (c : Nat) (s : State) : State :=
  let s := s.setReg (Reg.MEM_CH c) 0
  { s with mem := { s.mem with
      training := c :: s.mem.training.filter fun k => k != c, initing := s.mem.initing.filter (fun k => k != c), told := false
      lastUse := spSet 0 c s.mono s.mem.lastUse } }

/-- A channel turns OFF: deep sleep, contents lost, nothing read of MR4 (R156, R286). -/
def channelOff (c : Nat) (s : State) : State :=
  let s := dropDram (fun k => k == c) (s.setReg (Reg.MEM_CH c) 0)
  { s with mem := { s.mem with
      training := s.mem.training.filter (fun k => k != c), initing := s.mem.initing.filter (fun k => k != c),
      pdown := s.mem.pdown.filter fun k => k != c } }

/-- TRAINED of a channel: Zenith's input 3 changes (R179, R310). -/
def setTrained (c : Nat) (s : State) : State := (s.fset (Fld.MEM_CH_TRAINED c) 1)

/-- CHANNEL_TRAINED: with inline ECC the channel is initialised next (R285). -/
def channelTrained (c : Nat) (s : State) : State :=
  if s.on (133 + c) && s.mem.training.contains c then
    let s := { s with mem := { s.mem with training := s.mem.training.filter fun k => k != c } }
    if s.inlineEcc then { s with mem := { s.mem with initing := c :: s.mem.initing } } else setTrained c s
  else s

def execChannelTrained (c : Fin 16) (s : State) : Host.Outcome State Fault Refusal := ok (channelTrained c.val) s

/-- Whether every enabled channel is trained; enabled are the channels that PWR_REQ asks to be ON (DEDUCED, log entry 24). -/
def allTrained (s : State) : Bool :=
  (List.range 16).all fun c => s.fget (Fld.PWR_REQ_REQ (133 + c)) ≠ 1 || s.fget (Fld.MEM_CH_TRAINED c) = 1

/-- MEM_TRAINED: the channels' initialisation with zeros completes, and the event is raised once every enabled channel is
trained (R179, R285). -/
def memTrained (s : State) : State :=
  let done := s.mem.initing.filter fun c => s.on (133 + c)
  let s := dropDram (fun k => done.contains k) s
  let s := { s with mem := { s.mem with initing := s.mem.initing.filter fun c => !(done.contains c) } }
  let s := done.foldl (fun s c => setTrained c s) s
  if !s.mem.told && allTrained s then raiseZen 15 { s with mem := { s.mem with told := true } } else s

def execMemTrained (s : State) : Host.Outcome State Fault Refusal := ok memTrained s

/-- MR4_POLL: the refresh rate that the memory die requests (R286). -/
def mr4Poll (c rate : Nat) (s : State) : State :=
  if s.on (133 + c) && !(s.mem.training.contains c) then s.fset (Fld.MEM_CH_REFRATE c) rate else s

def execMr4Poll (c : Fin 16) (rate : BitVec 4) (s : State) : Host.Outcome State Fault Refusal :=
  ok (mr4Poll c.val rate.toNat) s

/-- Whether a channel has been idle for PD_IDLE: no request waits, and none has been served since; 0 means never (R286, R289). -/
def idleLong (s : State) (c : Nat) : Bool :=
  let n := s.fget Fld.MEM_CFG_PD_IDLE
  decide (n ≠ 0) && decide (spGet 0 s.mem.lastUse c + 100 * n ≤ s.mono) && !(s.fab.reqs.any fun q => q.target == c)

/-- POWER_DOWN_ENTRY: a channel idle for PD_IDLE (R286); its next request takes it out. -/
def powerDownEntry (c : Nat) (s : State) : State :=
  if s.on (133 + c) && !(s.mem.pdown.contains c) && idleLong s c then
    { s with mem := { s.mem with pdown := c :: s.mem.pdown } }
  else s

def execPowerDownEntry (c : Fin 16) (s : State) : Host.Outcome State Fault Refusal := ok (powerDownEntry c.val) s

/-- MEM_CH (R310). -/
def memCh (s : State) (c : Nat) : Word :=
  withBits 1 0 (match s.dom (133 + c) with | .off => 0 | .on => 1 | .ret => 2) (s.reg (Reg.MEM_CH c))

/-- MEM_WIN (R310). -/
def memWin (s : State) (k : Nat) : Word :=
  match s.mem.wins.lookup k with
  | none => 0
  | some w =>
    let to? := (s.mem.relocs.find? fun r => r.1 == w.base).bind fun r => r.2.2
    let moved := w.kind == 0 && to?.isSome
    BitVec.ofNat 32 (w.kind + 4 + (if w.dark || w.setDark then 8 else 0) + (if moved then 16 else 0))

end Sys2Proof.Machine
end

