-- ==== Sys2Proof/Machine/Orbit.lean ====
section
/-! DEFINITION. Orbit, the fan drive (R501–R533). -/
namespace Sys2Proof.Machine

/-! ## Constants of a channel (R507–R509, R516, R520) -/

/-- PWM period in counts of 5 ns (R507). -/
def pwmCounts (khz : Nat) : Nat := (divNearestEven 200000 khz).toNat

/-- D_lo and D_hi in per-mille (R508). -/
def bandLo (khz blank twin : Nat) : Nat := (1000 * (blank + twin) + 5 * pwmCounts khz - 1) / (5 * pwmCounts khz)
def bandHi (khz blank dead : Nat) : Nat := 1000 * (5 * pwmCounts khz - (blank + 2 * dead)) / (5 * pwmCounts khz)

/-- S_max: the largest RPM of the curve (R516). -/
def OrbCfg.sMax (g : OrbCfg) : Nat := (g.curve.map (·.2)).foldl max 0

/-- Whether a channel is busy, and whether it is in RUN (R514). -/
def OrbChan.busy (ch : OrbChan) : Bool := decide (2 ≤ ch.st ∧ ch.st ≤ 6)
def OrbChan.running (ch : OrbChan) : Bool := decide (ch.st = 7 ∨ ch.st = 8)

/-- Whether every gate is off between pulses and drives: IDLE, OBSERVE, FAULT_WAIT. -/
def OrbChan.coasting (ch : OrbChan) : Bool := decide (ch.st = 1 ∨ ch.st = 2 ∨ ch.st = 9)

/-- The measured speed in rpm for the mean of some intervals in ns (R520). -/
def rpmOf (poles : Nat) (ivals : List Nat) : Nat :=
  min 32767 (divNearestEven ((10000000000 * ivals.length : Nat) : Int) (max 1 (poles * ivals.sum))).toNat

/-- `num` / `den` of the mean of the latest intervals (t_avg of R512), rounded to the ns. -/
def partOfAvg (ivals : List Nat) (num den : Nat) : Nat :=
  (divNearestEven ((num * ivals.sum : Nat) : Int) (max 1 (den * ivals.length))).toNat

/-- The commanded speed of the ramp `el` ns after its start, times the ramp's length in ns (R519). -/
def rampSpeed (g : OrbStart) (el : Nat) : Nat :=
  let n := g.rampMs * 1000000
  g.rpm0 * n + (g.rpm1 - g.rpm0) * min el n

/-- The commanded speed in rpm, and the length of a forced step at it in ns (R519, R520). -/
def rampRpm (g : OrbStart) (el : Nat) : Nat := (divNearestEven (rampSpeed g el : Int) (max 1 (g.rampMs * 1000000))).toNat
def rampStep (poles : Nat) (g : OrbStart) (el : Nat) : Nat :=
  (divNearestEven ((10000000000 * (g.rampMs * 1000000) : Nat) : Int) (max 1 (poles * rampSpeed g el))).toNat

/-- A rotation as a signed speed. -/
def signedRpm (rev : Bool) (n : Nat) : Int := if rev then -(n : Int) else n

/-! ## Gate outputs (R501–R506, R528) -/

/-- The phases of a step: driven high and driven low (R505). -/
def stepPhases (k : Nat) : Nat × Nat := ([(0, 1), (0, 2), (1, 2), (1, 0), (2, 0), (2, 1)][k]?).getD (0, 1)

/-- The step after one in a direction (R505). -/
def nextStep (rev : Bool) (k : Nat) : Nat := if rev then (k + 5) % 6 else (k + 1) % 6

/-- The code that the threshold DAC of a channel holds: POS_CODE during initial position detection, OC_CODE at all other times
(R504). -/
def OrbChan.dac (ch : OrbChan) : Nat := if ch.st = 4 then ch.cfg.posCode else ch.cfg.ocCode

/-- Whether the current comparator is asserted at `isns` µV: above the threshold of code × 300 mV / 63 (R504; DEDUCED, log entry
26 for a level that equals it). -/
def OrbChan.asserted (isns : Nat) (ch : OrbChan) : Bool := decide (ch.dac * 300000 < 63 * isns)

/-- Whether a trip still holds the switch off: until the end of its PWM period (R528). -/
def ocHeld (t : Nat) (ch : OrbChan) : Bool :=
  ch.ocFrom.isSome && ch.ocLast / (5 * pwmCounts ch.cfg.khz) == t / (5 * pwmCounts ch.cfg.khz)

/-- The gate outputs of a channel in the order GAH, GAL, GBH, GBL, GCH, GCL; none: high-impedance (R502). The modulated high
switch shows as on; test pulses and the intervals of a softened edge do not show (DEDUCED, log entry 26). -/
def orbGates (s : State) (c : Nat) : Option (List Bool) :=
  if s.orb.tripped then some [false, false, false, false, false, false]
  else if !(s.on 157) then none
  else match s.orb.chans.lookup c with
    | none => none
    | some ch =>
      let held := ocHeld s.mono ch
      let pin (p : Nat) : Nat := if ch.cfg.dir && 1 ≤ p then 3 - p else p
      let (hi, lo) := stepPhases ch.step
      let driven : Bool := decide (5 ≤ ch.st ∧ ch.st ≤ 8)
      some ((List.range 3).flatMap fun p =>
        if ch.st = 3 then [false, !held] else [driven && pin hi == p && !held, driven && pin lo == p])

/-- The on-times in counts of the 16 intervals of a softened commutation at a duty (R506, R507). -/
def softEdge (g : OrbCfg) (duty : Nat) : List (Nat × Nat) :=
  if g.span = 0 then []
  else
    let at_ (m : Nat) : Nat := (divNearestEven ((duty * m * pwmCounts g.khz : Nat) : Int) 255000).toNat
    g.shape.map fun x => (at_ x, at_ (255 - x))

/-! ## Reports and registers (R520, R521, R524, R533) -/

/-- Whether a channel is at full speed (R524). -/
def OrbChan.atFull (ch : OrbChan) : Bool :=
  ch.running && (ch.st == 8 || (!ch.manual && !ch.stopped && ch.target == 10000 * (ch.cfg.sMax : Int) &&
    decide (95 * ch.cfg.sMax ≤ 100 * ch.speed.natAbs)))

/-- ORB_EVT_SEQ advances, on vector 26. -/
def orbEvent (s : State) : State := advanceSeq Fld.ORB_EVT_SEQ_SEQ 26 s

/-- The registers of a channel follow it. -/
def orbRegs (c : Nat) (ch : OrbChan) (s : State) : State :=
  let b (x : Bool) : Nat := if x then 1 else 0
  let s := ((s.fset (Fld.ORB_STATE_STATE c) ch.st).fset (Fld.ORB_STATE_FAULT c) ch.fault).fset (Fld.ORB_STATE_IN_FAULT c)
    (b ch.inFault)
  let s := ((s.fset (Fld.ORB_STATE_FULL c) (b ch.full)).fset (Fld.ORB_STATE_BUSY c) (b ch.busy)).fset
    (Fld.ORB_STATE_QUEUED c) ch.queue.length
  let s := (s.fset (Fld.ORB_STATE_MANUAL c) (b ch.manual)).fset (Fld.ORB_SPEED_RPM c) (unsignedOf 16 ch.speed)
  let s := (s.fset (Fld.ORB_SPEED_VALID c) ch.valid).fset (Fld.ORB_TARGET_RPM c)
    (unsignedOf 16 (divNearestEven ch.target 10000))
  s.fset (Fld.ORB_DUTY_DEMAND c) (divNearestEven ch.demand 65536).toNat

/-- A channel takes a new state: full speed is judged, its registers follow, and each change of full speed or VALID and each
end of a fault is an event (R533). -/
def setOrb (c : Nat) (ch : OrbChan) (s : State) : State :=
  match s.orb.chans.lookup c with
  | none => s
  | some old =>
    let ch := { ch with full := ch.atFull }
    let s := { s with orb := { s.orb with chans := s.orb.chans.map fun e => if e.1 = c then (c, ch) else e } }
    let s := orbRegs c ch s
    let s := if ch.full != old.full then orbEvent s else s
    let s := if ch.valid != old.valid then orbEvent s else s
    if old.inFault && !ch.inFault then orbEvent s else s

/-- The report becomes 0 with STOPPED (R521). -/
def OrbChan.stopReport (ch : OrbChan) : OrbChan := { ch with speed := 0, valid := 0, cnt := 0, ivals := [] }

/-- Every gate turns off, at `t`; nothing is measured yet of the coasting fan. -/
def OrbChan.off (t : Nat) (ch : OrbChan) : OrbChan :=
  { ch.stopReport with offAt := t, duty := 0, soft := [], commDue := none, crossed := false, ocFrom := none }

/-- The channel enters IDLE with every gate off; a measurement of a coasting fan is kept. -/
def OrbChan.idle (t : Nat) (ch : OrbChan) : OrbChan :=
  { (if ch.coasting then ch else ch.off t) with st := 1, since := t }

/-- A phase of the start sequence begins at `t`. -/
def OrbChan.enter (st t : Nat) (ch : OrbChan) : OrbChan := { ch with st := st, since := t }

/-- A start sequence begins with OBSERVE (R514). -/
def orbStart (c t : Nat) (ch : OrbChan) (s : State) : State :=
  let ch := if ch.coasting then ch else ch.off t
  setOrb c { ch.enter 2 t with brakes := 0, tries := 0 } (s.fadd (Fld.ORB_STARTS_COUNT c) 1)

/-- The channel enters BRAKE: one more pass through it (R514, R516). -/
def OrbChan.brake (t : Nat) (ch : OrbChan) : OrbChan := { (ch.off t).enter 3 t with brakes := ch.brakes + 1 }

/-- A channel enters a fault (R527, R528). -/
def orbFault (c t code : Nat) (ch : OrbChan) (s : State) : State :=
  let ch := if ch.coasting then ch else ch.off t
  orbEvent (setOrb c { ch.enter 9 t with fault := code, inFault := true, losses := [] } (s.fadd (Fld.ORB_FAULTS_COUNT c) 1))

/-- The demanded duty is applied within the band (R509). -/
def OrbChan.apply (ch : OrbChan) : OrbChan :=
  let lo : Int := ch.cfg.dLo * 65536
  let hi : Int := ch.cfg.dHi * 65536
  if ch.st = 8 then
    (if ch.demand < hi - ch.cfg.hyst * 65536 then { ch with st := 7, duty := ch.cfg.dHi - ch.cfg.hyst } else ch)
  else if hi < ch.demand then { ch with st := 8, duty := 1000 }
  else if ch.demand < lo then { ch with duty := ch.cfg.dLo }
  else { ch with duty := (divNearestEven ch.demand 65536).toNat }

/-- The channel enters RUN at `t` with a measured speed and a demand; its target starts from that speed (R516, R519, R522;
DEDUCED, log entry 26). The next commutation follows the latest crossing or transition (R512). -/
def OrbChan.run (t : Nat) (demand : Int) (ch : OrbChan) : OrbChan :=
  let v := signedRpm ch.rev (rpmOf ch.cfg.poles ch.ivals)
  OrbChan.apply { ch with
    st := 7, since := t, demand := max 0 (min demand 65536000), lastErr := 0, target := 10000 * v, speed := v, valid := 2
    crossed := true, commDue := some (ch.lastX + partOfAvg ch.ivals (30 - ch.cfg.advance) 60), brakes := 0, tries := 0 }

/-! ## Targets (R522, R526) -/

/-- The curve at a temperature in 1/10,000 of 0.25 °C, in 1/10,000 rpm (R522). -/
def curveAt (t : Nat) : List (Nat × Nat) → Nat
  | [] => 0
  | [(_, r)] => 10000 * r
  | (t0, r0) :: (t1, r1) :: rest =>
    if t1 * 40000 ≤ t then curveAt t ((t1, r1) :: rest)
    else if t ≤ t0 * 40000 then 10000 * r0
    else (10000 * (r0 : Int) + divNearestEven (((r1 : Int) - r0) * 10000 * (t - t0 * 40000 : Nat))
      ((t1 - t0) * 40000)).toNat

/-- The speed a channel's mode asks for, in 1/10,000 rpm (R522, R526). -/
def OrbChan.goal (ch : OrbChan) : Int :=
  if ch.stopped then 0 else if ch.manual then 10000 * ch.want else curveAt ch.tUse ch.cfg.curve

/-- A new target acts: 0 stops the drive or ends the sequence, and one that becomes nonzero in IDLE starts the channel
(R514, R522); a SHORT is held (R527). -/
def orbSettle (c t : Nat) (ch : OrbChan) (s : State) : State :=
  if ch.target = 0 then
    (if ch.st = 1 ∨ (ch.st = 9 ∧ ch.fault = 4 ∧ ch.inFault) then setOrb c ch s else setOrb c (ch.idle t) s)
  else if ch.st = 1 then orbStart c t ch s
  else setOrb c ch s

/-- A command takes effect (R526). -/
def orbEffect (c : Nat) (cmd : OrbCmd) (ch : OrbChan) (s : State) : State :=
  let t := s.mono
  match cmd with
  | .clear =>
    if ch.inFault then
      let ch := { ch with inFault := false, retries := 0 }
      orbSettle c t (if ch.st = 9 then ch.enter 1 t else ch) s
    else s
  | _ =>
    let ch := { ch with retries := 0 }
    let ch : OrbChan := match cmd with
      | .manual r => { ch with manual := true, want := r, stopped := false }
      | .auto => { ch with manual := false, stopped := false }
      | _ => { ch with stopped := true }
    let g : Int := ch.goal
    if ch.running && !ch.stopped then
      (if g ≠ 0 ∧ (decide (g < 0) != ch.rev) = true then
        setOrb c { ch.brake t with target := g, brakes := 1, tries := 0 } (s.fadd (Fld.ORB_STARTS_COUNT c) 1)
      else setOrb c ch s)
    else orbSettle c t { ch with target := g } s

/-- A command that is dropped, replaced or ignored (R525). -/
def orbDrop (c : Nat) (s : State) : State := s.fsat (Fld.ORB_DROPS_COUNT c)

/-- A command arrives: at once while the channel is not busy, else by its POLICY (R525). -/
def orbCommand (c : Nat) (cmd : OrbCmd) (s : State) : State :=
  match s.orb.chans.lookup c with
  | none => s
  | some ch =>
    if s.orb.tripped then s
    else if !ch.busy && ch.queue.isEmpty then orbEffect c cmd ch s
    else match ch.cfg.policy with
      | 0 => if ch.queue.length < ch.cfg.depth then setOrb c { ch with queue := ch.queue ++ [cmd] } s else orbDrop c s
      | 1 => setOrb c { ch with queue := [cmd] } (if ch.queue.isEmpty then s else orbDrop c s)
      | _ => orbDrop c s

/-- A write of ORB_CMD (R525, R533). -/
def actOrbCmd (c : Nat) (v : Word) (s : State) : State :=
  match bitsOf 2 0 v with
  | 1 => orbCommand c .auto s
  | 2 => orbCommand c (.manual (signedOf 16 (bitsOf 31 16 v))) s
  | 3 => orbCommand c .stop s
  | 4 => orbCommand c .clear s
  | _ => s

def execOrbAuto (f : HostFn) (c : Fin 4) (s : State) : Host.Outcome State Fault Refusal :=
  ok (hostWrite f (Reg.ORB_CMD c.val) (actOrbCmd c.val 1)) s

def execOrbManual (f : HostFn) (c : Fin 4) (rpm : BitVec 16) (s : State) : Host.Outcome State Fault Refusal :=
  ok (hostWrite f (Reg.ORB_CMD c.val) (actOrbCmd c.val (rpm ++ (2 : BitVec 16)))) s

def execOrbStop (f : HostFn) (c : Fin 4) (s : State) : Host.Outcome State Fault Refusal :=
  ok (hostWrite f (Reg.ORB_CMD c.val) (actOrbCmd c.val 3)) s

def execOrbClear (f : HostFn) (c : Fin 4) (s : State) : Host.Outcome State Fault Refusal :=
  ok (hostWrite f (Reg.ORB_CMD c.val) (actOrbCmd c.val 4)) s

/-- The outcome of an event of a channel: nothing happens on a channel that is not configured, while ORBIT is not ON, and
after THERMTRIP_N (R502, R503). -/
def okOrb (c : Nat) (g : OrbChan → State → State) (s : State) : Host.Outcome State Fault Refusal :=
  ok (fun s => match s.orb.chans.lookup c with
    | some ch => if s.on 157 && !s.orb.tripped then g ch s else s
    | none => s) s

/-- The oldest queued command, or the pending one, takes effect once the channel is not busy (R525). -/
def execOrbPendingCommand (c : Fin 4) (s : State) : Host.Outcome State Fault Refusal :=
  okOrb c.val (fun ch s => match ch.queue with
    | q :: qs => if ch.busy then s else
        let ch := { ch with queue := qs }
        orbEffect c.val q ch (setOrb c.val ch s)
    | [] => s) s

/-! ## Observation (R515, R516, R520, R521) -/

/-- The six patterns in forward order, as A + 2 B + 4 C: the change from pattern k to the next is the crossing of step k. -/
def obsSeq : List Nat := [5, 1, 3, 2, 6, 4]

/-- The step whose crossing a change of the pattern is, and whether it is a forward one; none: out of sequence. -/
def obsStep (b a : Nat) : Option (Nat × Bool) :=
  (List.range 6).findSome? fun k =>
    let p := obsSeq.getD k 0
    let q := obsSeq.getD ((k + 1) % 6) 0
    if b = p ∧ a = q then some (k, true) else if b = q ∧ a = p then some (k, false) else none

/-- The pattern of the phases from that of the pins: DIR exchanges B and C (R505). -/
def phasePattern (dir : Bool) (p : BitVec 3) : Nat :=
  let b (i : Nat) (n : Nat) : Nat := if p.getLsbD i then n else 0
  if dir then b 0 1 + b 1 4 + b 2 2 else p.toNat

/-- A transition of the comparators while every gate is off (R515, R520). -/
def obsTransition (b a t : Nat) (ch : OrbChan) : OrbChan :=
  match obsStep b a with
  | none => { ch with cnt := 0, ivals := [] }
  | some (k, fwd) =>
    if ch.cnt ≠ 0 ∧ fwd = ch.obsFwd ∧ b = ch.obsAfter then
      let iv := ((t - ch.lastX) :: ch.ivals).take 5
      let ch := { ch with cnt := min 6 (ch.cnt + 1), ivals := iv, lastX := t, obsAfter := a, step := k }
      if ch.cnt < 6 then ch
      else { ch with speed := signedRpm (!fwd) (rpmOf ch.cfg.poles iv), valid := if fwd then 4 else 3 }
    else
      let ch := if fwd != ch.obsFwd then ch.stopReport else ch
      { ch with cnt := 1, ivals := [], lastX := t, obsFwd := fwd, obsAfter := a, step := k }

def execObserveTransition (c : Fin 4) (before after : BitVec 3) (s : State) : Host.Outcome State Fault Refusal :=
  okOrb c.val (fun ch s =>
    if ch.coasting then
      setOrb c.val (obsTransition (phasePattern ch.cfg.dir before) (phasePattern ch.cfg.dir after) s.mono ch) s
    else s) s

/-- A measurement lapses: no crossing or transition within twice the latest interval, or within 250 ms (R521). -/
def execMeasurementLapse (c : Fin 4) (s : State) : Host.Outcome State Fault Refusal :=
  okOrb c.val (fun ch s =>
    let lim := match ch.ivals with
      | i :: _ => min (2 * i) 250000000
      | [] => 250000000
    if 2 ≤ ch.valid ∧ lim < s.mono - ch.lastX then setOrb c.val { ch with speed := 0, valid := 0, cnt := 0 } s else s) s

/-- The duty of a catch on the fly, in per-mille × 65,536 (R516). -/
def catchDemand (g : OrbCfg) (speed : Nat) : Int :=
  65536 * (g.dLo : Int) + divNearestEven (((1000 - g.dLo) * 65536 * speed : Nat) : Int) (max 1 g.sMax)

/-- OBSERVE ends (R516; DEDUCED, log entry 26 for the direction). -/
def observeEnd (c : Nat) (ch : OrbChan) (s : State) : State :=
  let t := s.mono
  let rev := decide (ch.target < 0)
  if ch.valid < 3 then setOrb c { ch.stopReport.enter 4 t with brakes := 0 } s
  else if decide (ch.valid = 3) = rev ∧ 15 * ch.cfg.sMax ≤ 100 * ch.speed.natAbs then
    setOrb c (OrbChan.run t (catchDemand ch.cfg ch.speed.natAbs) { ch with rev := rev }) s
  else if 3 ≤ ch.brakes then orbFault c t 1 ch s
  else setOrb c (ch.brake t) s

def execObserveEnd (c : Fin 4) (s : State) : Host.Outcome State Fault Refusal :=
  okOrb c.val (fun ch s =>
    if ch.st = 2 ∧ ch.since + ch.cfg.start.observeMs * 1000000 ≤ s.mono then observeEnd c.val ch s else s) s

/-- BRAKE_MS ends: back to OBSERVE (R514). -/
def execBrakeEnd (c : Fin 4) (s : State) : Host.Outcome State Fault Refusal :=
  okOrb c.val (fun ch s =>
    if ch.st = 3 ∧ ch.since + ch.cfg.start.brakeMs * 1000000 ≤ s.mono then
      setOrb c.val ((ch.off s.mono).enter 2 s.mono) s
    else s) s

/-! ## Position, alignment and the ramp (R517–R519) -/

/-- RAMP begins in a step (R519). -/
def OrbChan.ramp (t step : Nat) (ch : OrbChan) : OrbChan :=
  { ch.enter 6 t with
    step := step, commAt := t, stepNs := rampStep ch.cfg.poles ch.cfg.start 0, hand := 0, crossed := false, ivals := []
    duty := max ch.cfg.start.rampD ch.cfg.dLo, speed := signedRpm ch.rev ch.cfg.start.rpm0, valid := 1 }

/-- The start step for the rotor at 30° × r (R518). -/
def startStep (rev : Bool) (r : Nat) : Nat := if rev then ((r + 1) / 2 + 4) % 6 else (r + 4) / 2 % 6

/-- The length of each pulse in ns, and whether it tripped: of each pulse the time at which the current reached its peak and that
peak in µV, with which the comparator trips at POS_CODE (R504, R517). -/
def pulses (ch : OrbChan) (trips : List (Option (Nat × Nat))) : List (Nat × Bool) :=
  let g := ch.cfg.start
  (List.range (if g.refine then 12 else 6)).map fun i =>
    match trips.getD i none with
    | some (x, isns) => if ch.asserted isns && decide (x < g.pulseUs * 1000) then (x, true) else (g.pulseUs * 1000, false)
    | none => (g.pulseUs * 1000, false)

/-- The index of the first of the shortest pulses (R518). -/
def shortest (ps : List (Nat × Bool)) : Nat :=
  let m := ps.foldl (fun m p => min m p.1) ((ps.map (·.1)).headD 0)
  (ps.findIdx? fun p => p.1 == m).getD 0

/-- The test pulses have ended (R517, R518; DEDUCED, log entry 26 for pulses that do not trip). -/
def positionDone (c : Nat) (ps : List (Nat × Bool)) (ch : OrbChan) (s : State) : State :=
  let g := ch.cfg.start
  let i := shortest ps
  let lo := (ps.getD i (0, false)).1
  let hi := ps.foldl (fun m p => max m p.1) 0
  let r := if g.refine then i else 2 * i
  let amb := !(ps.any (·.2)) || decide ((hi - lo) * 1000 < g.posDiff * hi)
  let ch := { ch with rev := decide (ch.target < 0), offAt := s.mono }
  let s := (s.fset (Fld.ORB_POS_R c) r).fset (Fld.ORB_POS_AMBIG c) (if amb then 1 else 0)
  if amb then
    setOrb c { ch.enter 5 s.mono with
      step := 0, duty := g.rampD, speed := signedRpm ch.rev g.rpm0, valid := 1 } s
  else setOrb c (ch.ramp s.mono (startStep ch.rev r)) s

def execPositionDone (c : Fin 4) (trips : List (Option (Nat × Nat))) (s : State) : Host.Outcome State Fault Refusal :=
  okOrb c.val (fun ch s =>
    let ps := pulses ch trips
    if ch.st = 4 ∧ ch.since + 4 * (ps.map (·.1)).sum ≤ s.mono then positionDone c.val ps ch s else s) s

/-- ALIGN_MS ends: the rotor is at 0° (R514). -/
def execAlignEnd (c : Fin 4) (s : State) : Host.Outcome State Fault Refusal :=
  okOrb c.val (fun ch s =>
    if ch.st = 5 ∧ ch.since + ch.cfg.start.alignMs * 1000000 ≤ s.mono then
      setOrb c.val (ch.ramp s.mono (startStep ch.rev 0)) s
    else s) s

/-- A forced commutation; a step with no crossing that counts starts the hand-over count again (R519). -/
def execRampCommutation (c : Fin 4) (s : State) : Host.Outcome State Fault Refusal :=
  okOrb c.val (fun ch s =>
    if ch.st = 6 ∧ ch.commAt + ch.stepNs ≤ s.mono then
      let el := s.mono - ch.since
      setOrb c.val { ch with
        step := nextStep ch.rev ch.step, commAt := s.mono, stepNs := rampStep ch.cfg.poles ch.cfg.start el
        hand := if ch.crossed then ch.hand else 0, crossed := false, soft := softEdge ch.cfg ch.duty
        speed := signedRpm ch.rev (rampRpm ch.cfg.start el) } s
    else s) s

/-- The 500 ms hold ends without hand-over (R519). -/
def execRampFail (c : Fin 4) (s : State) : Host.Outcome State Fault Refusal :=
  okOrb c.val (fun ch s =>
    if ch.st = 6 ∧ ch.since + (ch.cfg.start.rampMs + 500) * 1000000 ≤ s.mono then
      (if ch.cfg.start.tries ≤ ch.tries + 1 then orbFault c.val s.mono 1 ch s
      else setOrb c.val { ch.brake s.mono with tries := ch.tries + 1 } s)
    else s) s

/-! ## Closed loop (R510–R513, R523) -/

/-- The level that the floating phase's crossing brings in a step: rising in the odd steps forward, in the even ones in
reverse (R505). -/
def crossLevel (rev : Bool) (step : Nat) : Bool := (decide (step % 2 = 1)) != rev

/-- Whether the interval after a commutation in which the floating phase is ignored has passed (R510, R511). -/
def pastIgnored (t : Nat) (ch : OrbChan) : Bool :=
  let (sum, len) := if ch.st = 6 then (ch.stepNs, 1) else (ch.ivals.sum, ch.ivals.length)
  decide ((ch.cfg.span + 2 * ch.cfg.demag) * sum ≤ 120 * len * (t - ch.commAt)) &&
    (ch.st != 8 || decide (ch.commAt + ch.cfg.blank ≤ t))

/-- A crossing in the ramp: within HAND_TOL of the step's midpoint it counts, and six in a row hand over (R519). -/
def rampCrossing (t : Nat) (ch : OrbChan) : OrbChan :=
  let at_ := t - ch.commAt
  let d := (2 * (at_ : Int) - ch.stepNs).natAbs
  let ch := { ch with crossed := true }
  if 50 * d ≤ ch.cfg.start.handTol * ch.stepNs then
    let iv := if ch.hand = 0 then [] else (t - ch.lastX) :: ch.ivals
    let ch := { ch with hand := ch.hand + 1, ivals := iv, lastX := t }
    if ch.hand = 6 then OrbChan.run t (65536 * (ch.cfg.start.rampD : Int)) { ch with cnt := 6 } else ch
  else { ch with hand := 0 }

/-- A crossing in RUN (R511, R512, R520, R521). -/
def runCrossing (t : Nat) (ch : OrbChan) : OrbChan :=
  let iv := ((t - ch.lastX) :: ch.ivals).take 6
  let n := min 6 (ch.cnt + 1)
  let ch := { ch with
    ivals := iv, lastX := t, crossed := true, cnt := n
    commDue := some (t + partOfAvg iv (30 - ch.cfg.advance) 60) }
  if n < 6 then ch else { ch with speed := signedRpm ch.rev (rpmOf ch.cfg.poles iv), valid := 2 }

/-- The first sample after the ignored interval that shows the expected level: a valid crossing if an earlier sample of the
step showed the opposite one. In PWM drive no sample is taken in a period in which the comparator has tripped (R510, R511). -/
def execZeroCrossing (c : Fin 4) (level seen : Bool) (s : State) : Host.Outcome State Fault Refusal :=
  okOrb c.val (fun ch s =>
    if !seen || ch.crossed || level != crossLevel ch.rev ch.step || !(pastIgnored s.mono ch) ||
        (ch.st != 8 && ocHeld s.mono ch) then s
    else if ch.st = 6 then setOrb c.val (rampCrossing s.mono ch) s
    else if ch.running then setOrb c.val (runCrossing s.mono ch) s
    else s) s

/-- The timed commutation after a crossing (R505, R506, R512): edges are hard in full six-step. -/
def execCommutation (c : Fin 4) (s : State) : Host.Outcome State Fault Refusal :=
  okOrb c.val (fun ch s =>
    match ch.commDue with
    | some d =>
      if ch.running ∧ d ≤ s.mono then
        setOrb c.val { ch with
          step := nextStep ch.rev ch.step, commAt := s.mono, commDue := none, crossed := false
          soft := if ch.st = 7 then softEdge ch.cfg ch.duty else [] } s
      else s
    | none => s) s

/-- Synchronisation is lost (R513); the third time within 10 s is a STALL (R527). -/
def execSyncLoss (c : Fin 4) (s : State) : Host.Outcome State Fault Refusal :=
  okOrb c.val (fun ch s =>
    if ch.running ∧ 2 * ch.ivals.sum ≤ (s.mono - ch.lastX) * ch.ivals.length then
      let ls := s.mono :: ch.losses.filter fun x => decide (s.mono ≤ x + 10000000000)
      let s := s.fadd (Fld.ORB_SYNCLOSS_COUNT c.val) 1
      if 3 ≤ ls.length then orbFault c.val s.mono 2 ch s
      else orbStart c.val s.mono { ch with losses := ls } s
    else s) s

/-- The speed loop, every 10 ms of Epoch in RUN (R523). -/
def execSpeedLoopUpdate (c : Fin 4) (s : State) : Host.Outcome State Fault Refusal :=
  okOrb c.val (fun ch s =>
    let k := s.epoch / 10000000
    if ch.running ∧ k ≠ ch.loopAt then
      let e : Int := ((divNearestEven ch.target 10000).natAbs : Int) - ch.speed.natAbs
      let d := ch.demand + (ch.cfg.ki * e + ch.cfg.kp * (e - ch.lastErr))
      setOrb c.val (OrbChan.apply { ch with demand := max 0 (min d 65536000), lastErr := e, loopAt := k }) s
    else s) s

/-! ## Overcurrent, faults and retries (R527–R529) -/

/-- The current comparator trips (R504, R528). -/
def execOcTrip (c : Fin 4) (isns : Nat) (s : State) : Host.Outcome State Fault Refusal :=
  okOrb c.val (fun ch s =>
    if (ch.st = 3 ∨ (5 ≤ ch.st ∧ ch.st ≤ 8)) ∧ ch.asserted isns then
      let p := 5 * pwmCounts ch.cfg.khz
      let ch := { ch with
        ocFrom := (match ch.ocFrom with
          | some x => if s.mono / p ≤ ch.ocLast / p + 1 then some x else some s.mono
          | none => some s.mono)
        ocLast := s.mono }
      setOrb c.val ch (s.fadd (Fld.ORB_OCTRIPS_COUNT c.val) 1)
    else s) s

/-- A trip in every PWM period for OC_MS (R527). -/
def execOvercurrent (c : Fin 4) (s : State) : Host.Outcome State Fault Refusal :=
  okOrb c.val (fun ch s =>
    let p := 5 * pwmCounts ch.cfg.khz
    match ch.ocFrom with
    | some x =>
      if s.mono / p ≤ ch.ocLast / p + 1 ∧ x + ch.cfg.ocMs * 1000000 ≤ s.mono then orbFault c.val s.mono 3 ch s else s
    | none => s) s

/-- The comparator is asserted after every gate has been off for 10 µs (R527). -/
def execShort (c : Fin 4) (isns : Nat) (s : State) : Host.Outcome State Fault Refusal :=
  okOrb c.val (fun ch s =>
    if ch.coasting ∧ ch.asserted isns ∧ ch.offAt + 10000 ≤ s.mono ∧ !(ch.st = 9 ∧ ch.fault = 4) then orbFault c.val s.mono 4 ch s else s) s

/-- RETRY_S ends in FAULT_WAIT (R527, R528). -/
def execFaultRetry (c : Fin 4) (s : State) : Host.Outcome State Fault Refusal :=
  okOrb c.val (fun ch s =>
    if ch.st = 9 ∧ ch.fault ≠ 4 ∧ ch.since + ch.cfg.retryS * 1000000000 ≤ s.mono ∧
        (ch.cfg.retryMax = 0 ∨ ch.retries < ch.cfg.retryMax) then
      orbStart c.val s.mono { ch with retries := ch.retries + 1 } s
    else s) s

/-- 5 s of RUN without a break end a fault (R529). -/
def execFaultEnd (c : Fin 4) (s : State) : Host.Outcome State Fault Refusal :=
  okOrb c.val (fun ch s =>
    if ch.inFault ∧ ch.running ∧ ch.since + 5000000000 ≤ s.mono then
      setOrb c.val { ch with inFault := false, retries := 0 } s
    else s) s

/-! ## Each Pace tick (R522, R529) -/

/-- A Tj_max put in front of those of the latest 10,000 ticks. -/
def pushTemp (v : Nat) (l : List (Nat × Nat)) : List (Nat × Nat) :=
  let l := match l with
    | (w, n) :: r => if w = v then (w, n + 1) :: r else (v, 1) :: (w, n) :: r
    | [] => [(v, 1)]
  if 10000 < (l.map (·.2)).sum then
    match l.getLast? with
    | some (w, n) => if n = 1 then l.dropLast else l.dropLast ++ [(w, n - 1)]
    | none => l
  else l

/-- T_filt in 1/10,000 of 0.25 °C: the mean of the values held (R522). -/
def tFilt (l : List (Nat × Nat)) : Nat :=
  (divNearestEven ((10000 * (l.map fun e => e.1 * e.2).sum : Nat) : Int) (max 1 (l.map (·.2)).sum)).toNat

/-- T_use follows T_filt under the dead band (R522). -/
def useTemp (hyst tf tu : Nat) : Nat :=
  let h := hyst * 10000
  if tu ≤ tf then tf else if tf + h < tu then tf + h else tu

/-- A value moved towards another by at most a step. -/
def towards (goal step x : Int) : Int := if x < goal then min goal (x + step) else max goal (x - step)

/-- One channel at a Pace tick: T_use, then the target, which slews in RUN (R522; DEDUCED, log entry 26). -/
def orbTickChan (tf : Nat) (c : Nat) (s : State) : State :=
  match s.orb.chans.lookup c with
  | none => s
  | some ch =>
    let ch := { ch with tUse := useTemp ch.cfg.hystC tf ch.tUse }
    let g := ch.goal
    orbSettle c s.mono { ch with target := if ch.running then towards g ch.cfg.slew ch.target else g } s

/-- Orbit at a Pace tick, with the Tj_max that Pace passes to it (R56, R522). ORB_TEMP shows T_use of the lowest configured
channel (DEDUCED, log entry 26). -/
def orbTick (tj : Nat) (s : State) : State :=
  if !(s.on 157) || s.orb.tripped then s
  else
    let s := { s with orb := { s.orb with temps := pushTemp tj s.orb.temps } }
    let s := (List.range 4).foldl (fun s c => orbTickChan (tFilt s.orb.temps) c s) s
    match s.orb.chans with
    | (_, ch) :: _ => s.fset Fld.ORB_TEMP_T_USE (divNearestEven ch.tUse 10000).toNat
    | [] => s

/-- What Orbit reports to Pace: the channels in fault and at full speed, a bit each (R529). While ORBIT is not ON it goes on
reporting what its channels last were (R77 and R529 do not say: DESIGN CHOICE, log entry 28). -/
def orbReport (s : State) : Nat × Nat :=
  s.orb.chans.foldl (fun (a, b) (c, ch) =>
    (a + (if ch.inFault then 2 ^ c else 0), b + (if ch.full then 2 ^ c else 0))) (0, 0)

/-- A channel as it starts: IDLE, AUTO, forward (R531). -/
def OrbChan.fresh (g : OrbCfg) : OrbChan :=
  { cfg := g, st := 1, since := 0, offAt := 0, fault := 0, inFault := false, full := false, manual := false, want := 0
    stopped := false, target := 0, tUse := 0, queue := [], step := 0, rev := false, duty := 0, soft := [], commAt := 0
    crossed := false, commDue := none, stepNs := 0, ivals := [], lastX := 0, cnt := 0, obsFwd := true, obsAfter := 0
    hand := 0, speed := 0, valid := 0, brakes := 0, tries := 0, retries := 0, losses := [], ocFrom := none, ocLast := 0
    demand := 0, lastErr := 0, loopAt := 0 }

/-- Every configured channel starts, with its registers, and the band of R508 (R531, R533). -/
def orbBegin (s : State) : State :=
  let s : State := { s with orb := { s.orb with
    temps := []
    chans := s.orb.chans.map fun (e : Nat × OrbChan) =>
      (e.1, { OrbChan.fresh e.2.cfg with since := s.mono, offAt := s.mono }) } }
  s.orb.chans.foldl (fun (s : State) (e : Nat × OrbChan) =>
    orbRegs e.1 e.2 ((s.fset (Fld.ORB_BAND_D_LO e.1) e.2.cfg.dLo).fset (Fld.ORB_BAND_D_HI e.1) e.2.cfg.dHi)) s

/-- THERMTRIP_N drives every gate output low until power-on reset (R172, R503): the fans coast and are no longer driven. -/
def orbTrip (s : State) : State := { s with orb := { s.orb with tripped := true } }

end Sys2Proof.Machine
end

