-- ==== Sys2Proof/Machine/Container.lean ====
section
/-! DEFINITION. The container of a Recipe: header, directory, section bodies and signature block, with the checks of
steps 1, 2 and 5 of pass 1 (R88–R94, R99–R104, R112, R117). -/
namespace Sys2Proof.Machine

/-! ## Causes (R117) -/

def cMagic : Nat := 0x01
def cFormat : Nat := 0x02
def cSize : Nat := 0x03
def cHdrCrc : Nat := 0x04
def cTarget : Nat := 0x05
def cDirLayout : Nat := 0x06
def cSectionCrc : Nat := 0x07
def cBody : Nat := 0x08
def cUnknownType : Nat := 0x09
def cKey : Nat := 0x0A
def cSignature : Nat := 0x0B
def cLimit : Nat := 0x0C
def cAbsent : Nat := 0x0D
def cOwnership : Nat := 0x0E
def cRoute : Nat := 0x0F
def cPatchScope : Nat := 0x10
def cBaseMismatch : Nat := 0x11
def cSourceChanged : Nat := 0x12
def cSourceFault : Nat := 0x13
def cNotLocal : Nat := 0x14
def cKeyfuse : Nat := 0x15
def cNoRecipe : Nat := 0x16
def cRollback : Nat := 0x17
def cFuseFail : Nat := 0x18

/-- A fault that a check finds: its cause, and the byte offset of the failing field in the Recipe (R114). -/
abbrev Flaw := Nat × Nat

/-- A rejection: a fault, and the directory index of the failing section, 0xFFFF for none (R114). -/
structure Reject where
  cause : Nat
  sect : Nat
  off : Nat
  deriving DecidableEq, Repr

/-- A fault where a condition holds. -/
def flawIf (c : Bool) (cause off : Nat) : Option Flaw := if c then some (cause, off) else none

/-- The first fault of a list of checks: the loader stops at the first failure (R114). -/
def firstFlaw (l : List (Option Flaw)) : Option Flaw := l.findSome? id

/-- The first place whose key stands at an earlier place too; `none` is no key. -/
def repeated : List Nat → Nat → List (Option Nat) → Option Nat
  | _, _, [] => none
  | seen, i, none :: ks => repeated seen (i + 1) ks
  | seen, i, some k :: ks => if seen.contains k then some i else repeated (k :: seen) (i + 1) ks

/-! ## Header (R90) -/

/-- The bit of CODE_MASK for an ordering code. -/
def codeBit : OrderCode → Nat
  | .u48 => 0
  | .u32 => 1
  | .u24 => 2

/-- Which command loads the container: a Patch names its Bakery; a host source has RCP_SRC_LEN bytes (R111, R120). -/
structure LoadCmd where
  patch : Option Nat
  avail : Option Nat
  deriving DecidableEq, Repr

/-- BUILD_ID of the running full Recipe; 0 for none (R119, R126). -/
def runningBuild (s : State) : Nat := s.pair Reg.RCP_BUILD_LO Reg.RCP_BUILD_HI

/-- The header's faults, in the order of its table, HDR_CRC last (R90, R117, R119, R120; DEDUCED, log entry 30). For a full
Recipe given to CMD = PATCH the spec names no cause: it is PATCH_SCOPE at KIND here (DESIGN CHOICE, log entry 30). -/
def headerFlaw (s : State) (c : LoadCmd) (h : List Byte) : Option Flaw :=
  let total := leAt 8 4 h
  let sig := leAt 0xC 4 h
  let n := leAt 0x16 2 h
  let kind := leAt 0x28 1 h
  let base := leAt 0x20 8 h
  firstFlaw [
    flawIf (leAt 0 4 h != 0x50435246) cMagic 0,
    flawIf (leAt 4 2 h != 1) cFormat 4,
    flawIf (leAt 6 2 h != 128) cFormat 6,
    flawIf (decide (0x2000000 < total) || total != sig + 160) cSize 8,
    flawIf (sig % 64 != 0) cSize 0xC,
    flawIf (match c.avail with | some a => decide (a < total) | none => false) cSize 8,
    flawIf (leAt 0x10 1 h != 0x46) cTarget 0x10,
    flawIf (leAt 0x11 1 h != 1) cTarget 0x11,
    flawIf (!((leAt 0x12 1 h).testBit (codeBit s.code))) cTarget 0x12,
    flawIf (decide (bitsOf 3 0 (deviceId s.code) < leAt 0x13 1 h)) cTarget 0x13,
    flawIf (n == 0 || decide (1024 < n)) cDirLayout 0x16,
    flawIf (leAt 0x18 8 h == 0) cFormat 0x18,
    flawIf ((kind == 0 && base != 0) || (kind == 1 && (base == 0 || base != runningBuild s))) cBaseMismatch 0x20,
    flawIf (decide (1 < kind)) cFormat 0x28,
    flawIf (kind == 0 && c.patch.isSome) cPatchScope 0x28,
    flawIf (match c.patch with | some b => leAt 0x29 1 h % 16 != b | none => false) cPatchScope 0x29,
    flawIf (crc32c (slice 0 0x2C h ++ List.replicate 4 0 ++ slice 0x30 (128 + 32 * n - 0x30) h) != leAt 0x2C 4 h)
      cHdrCrc 0x2C]

/-! ## Directory (R91, R92) -/

/-- A directory entry. -/
def dirEntry (h : List Byte) (i : Nat) : DirEntry :=
  let e := slice (128 + 32 * i) 32 h
  ⟨leAt 0 2 e, leAt 2 2 e, leAt 4 4 e, leAt 8 4 e, leAt 0xC 4 e, leAt 0x10 1 e⟩

/-- The directory. -/
def dirOf (h : List Byte) : List DirEntry := (List.range (leAt 0x16 2 h)).map (dirEntry h)

/-- The order of (TYPE, INSTANCE). -/
def dirKey (d : DirEntry) : Nat := d.ty * 65536 + d.inst

/-- Faults of the directory, entry by entry: `i` entries have passed, the latest first in `seen` (R92). -/
def dirFlaw (count sig : Nat) : List DirEntry → Nat → List DirEntry → Option Reject
  | _, _, [] => none
  | seen, i, d :: ds =>
    let at_ := 128 + 32 * i
    match firstFlaw [
      flawIf (match seen with | p :: _ => decide (dirKey d ≤ dirKey p) | [] => false) cDirLayout at_,
      flawIf (d.off % 64 != 0 || decide (d.off < 128 + 32 * count)) cDirLayout (at_ + 4),
      flawIf (seen.any fun p => decide (p.off < d.off + d.len ∧ d.off < p.off + p.len)) cDirLayout (at_ + 4),
      flawIf (decide (sig < d.off + d.len)) cDirLayout (at_ + 8)] with
    | some (c, o) => some ⟨c, i, o⟩
    | none => dirFlaw count sig (d :: seen) (i + 1) ds

/-! ## Section bodies (R93, R94) -/

/-- A section: its directory index and entry, and its body. -/
structure Sect where
  idx : Nat
  d : DirEntry
  body : List Byte
  deriving DecidableEq, Repr

/-- ENTRY_COUNT and ENTRY_SIZE of a section. -/
def Sect.count (x : Sect) : Nat := leAt 4 4 x.body
def Sect.esize (x : Sect) : Nat := leAt 8 4 x.body

/-- Entry `k` of a section, and the offset in the Recipe of its byte `off`. -/
def Sect.ent (x : Sect) (k : Nat) : List Byte := slice (16 + k * x.esize) x.esize x.body
def Sect.at (x : Sect) (k off : Nat) : Nat := x.d.off + 16 + k * x.esize + off

/-- The entries of a section. -/
def Sect.ents (x : Sect) : List (List Byte) := (List.range x.count).map x.ent

/-- A check of every entry, in order. -/
def Sect.each (x : Sect) (g : Nat → List Byte → Option Flaw) : Option Flaw :=
  firstFlaw ((List.range x.count).map fun k => g k (x.ent k))

/-- A repeated key among the entries: a fault at byte `off` of the later entry. -/
def Sect.dup (x : Sect) (cause off : Nat) (key : List Byte → Option Nat) : Option Flaw :=
  (repeated [] 0 (x.ents.map key)).map fun k => (cause, x.at k off)

/-- The offset in the Recipe of a field of the section's directory entry. -/
def Sect.dirAt (x : Sect) (off : Nat) : Nat := 128 + 32 * x.idx + off

/-- The owner of a section: a Bakery, or none (R95). -/
def Sect.owner (x : Sect) : Option Nat := if x.d.owner.testBit 7 then none else some (x.d.owner % 16)

/-- The sections of a container that a directory names. -/
def sections (dir : List DirEntry) (bytes : List Byte) : List Sect :=
  (List.range dir.length).filterMap fun i => (dir[i]?).map fun d => ⟨i, d, slice d.off d.len bytes⟩

/-- Whether a body has the CRC of its directory entry (R91, R99). -/
def Sect.crcOk (x : Sect) : Bool := crc32c x.body == x.d.crc

/-- A body's CRC and common header (R93). A LENGTH below 16 holds no common header. -/
def bodyFlaw (x : Sect) : Option Flaw := firstFlaw [
  flawIf (!x.crcOk) cSectionCrc (x.dirAt 0xC),
  flawIf (decide (x.d.len < 16)) cBody (x.dirAt 8),
  flawIf (leAt 0 2 x.body != x.d.ty) cBody x.d.off,
  flawIf (leAt 2 2 x.body != 1) cBody (x.d.off + 2),
  flawIf (decide (x.d.len < x.count * x.esize + 16)) cBody (x.d.off + 4)]

/-- ENTRY_SIZE of each section type of R94; the images' is their LEN (R97); none for an unknown type. -/
def entrySize (ty : Nat) : Option (Option Nat) :=
  if ty = 0 ∨ 0x1A < ty then none
  else match ([16, 16, 16, 16, 32, 32, 16, 16, 32, 32, 32, 32, 1296, 80, 64, 0, 32, 1296, 16, 32, 32, 32, 16, 16, 0, 40]
      : List Nat)[ty - 1]? with
    | some 0 => some none
    | some n => some (some n)
    | none => none

/-! ## Signature block (R101–R104) -/

/-- Whether no slot is programmed (R103). -/
def openKeys (s : State) : Bool := s.rcp.slots.all fun f => !f.valid

/-- The key slot that a signature block names (R101). -/
def keySlot (sb : List Byte) : Nat := min (leAt 4 1 sb) 3

/-- The key check (R103). -/
def keyOk (s : State) (sb : List Byte) : Bool :=
  openKeys s ||
    (match s.rcp.slots[keySlot sb]? with
     | some f => f.valid && !f.revoked && f.hash == sha256 (slice 0x20 64 sb)
     | none => false)

/-- Faults of the signature block, and the rollback value (R102–R104, R112). SIG_MAGIC comes first: without it there is no
key to check (DEDUCED, log entry 30). -/
def signatureFlaw (s : State) (sig : Nat) (bytes : List Byte) : Option Flaw :=
  let sb := slice sig 160 bytes
  let x := beVal (slice 0x20 32 sb)
  let y := beVal (slice 0x40 32 sb)
  firstFlaw [
    flawIf (leAt 0 4 sb != 0x47495346) cSignature sig,
    flawIf (!(keyOk s sb)) cKey (sig + 4),
    flawIf (!(onCurve x y)) cSignature (sig + 0x20),
    flawIf (!(ecdsaVerify x y (beVal (slice 0x60 32 sb)) (beVal (slice 0x80 32 sb)) (sha256 (slice 0 sig bytes))))
      cSignature (sig + 0x60),
    flawIf (decide (leAt 0x14 2 bytes < s.rcp.rollback)) cRollback 0x14]

/-- What the loader keeps of a header. -/
def recipeHead (s : State) (bytes : List Byte) : RecipeHead :=
  let sig := leAt 0xC 4 bytes
  ⟨leAt 8 4 bytes, sig, leAt 0x14 2 bytes, leAt 0x18 8 bytes,
   if openKeys s then 0 else keySlot (slice sig 160 bytes), min (leAt 0x2A 1 bytes) 2, clampNat 25 104 (leAt 0x2B 1 bytes)⟩

/-! ## KEYFUSE (R105–R107) -/

/-- A KEYFUSE entry: OP, SLOT, VALUE and HASH; `roll` is the Recipe's ROLLBACK. -/
structure FuseOp where
  op : Nat
  slot : Nat
  value : Nat
  hash : Nat
  deriving DecidableEq, Repr

/-- A KEYFUSE entry as loaded (R105). -/
def fuseOp (roll : Nat) (e : List Byte) : FuseOp :=
  ⟨clampNat 1 3 (leAt 0 1 e), leAt 1 1 e % 4, min (leAt 2 2 e) roll, beVal (slice 8 32 e)⟩

/-- The slots as an entry leaves them. -/
def fuseSlots (o : FuseOp) (l : List FuseSlot) : List FuseSlot :=
  match o.op with
  | 1 => l.modify o.slot fun f => { f with hash := o.hash, valid := true }
  | 2 => l.modify o.slot fun f => { f with revoked := true }
  | _ => l

/-- Faults of KEYFUSE entries in order, each against the slots as the earlier ones would leave them (R106, R107). -/
def fuseFlaw (x : Sect) (roll : Nat) (signed : Option Nat) : List Nat → List FuseSlot → Option Flaw
  | [], l => flawIf ((l.any fun f => f.valid) && l.all fun f => !f.valid || f.revoked) cKeyfuse x.d.off
  | k :: ks, l =>
    let o := fuseOp roll (x.ent k)
    let f := l.getD o.slot ⟨0, false, false⟩
    let bad := if o.op = 1 then (if f.valid then f.hash != o.hash else (f.hash &&& o.hash) != f.hash)
      else o.op == 2 && signed == some o.slot
    if bad then some (cKeyfuse, x.at k (if o.op = 1 then 8 else 1))
    else fuseFlaw x roll signed ks (fuseSlots o l)

/-- The faults of a KEYFUSE section (R106). In open-key mode no slot counts as the slot that signed, so OP 2 of any slot passes
that check (DESIGN CHOICE, log entry 30). -/
def keyfuseFlaw (s : State) (h : RecipeHead) (x : Sect) : Option Flaw :=
  fuseFlaw x h.rollback (if openKeys s then none else some h.slot) (List.range x.count) s.rcp.slots

/-- The fuse words of an entry, in the order in which they are burnt: of a key slot the hash word, and then, as OP 4, its
valid fuse (R107). -/
def fuseWords (o : FuseOp) : List FuseOp := if o.op = 1 then [o, { o with op := 4 }] else [o]

/-- Whether a fuse word reads as asked for, so that nothing is to be burnt (R106, R107). -/
def wordDone (o : FuseOp) (r : RcpState) : Bool :=
  let f := r.slots.getD o.slot ⟨0, false, false⟩
  match o.op with
  | 1 => f.valid || f.hash ||| o.hash == f.hash
  | 4 => f.valid
  | 2 => f.revoked
  | _ => decide (o.value ≤ r.rollback)

/-- A fuse word burnt, which reads back as `x`: fuses only ever gain bits, no more than those burnt, and the counter reads
between its old value and its new one (R107). -/
def burnWord (o : FuseOp) (x : Nat) (r : RcpState) : RcpState :=
  let put (g : FuseSlot → FuseSlot) : RcpState := { r with slots := r.slots.modify o.slot g }
  match o.op with
  | 1 => put fun f => { f with hash := f.hash ||| (o.hash &&& x) }
  | 4 => put fun f => { f with valid := f.valid || x % 2 == 1 }
  | 2 => put fun f => { f with revoked := f.revoked || x % 2 == 1 }
  | _ => { r with rollback := clampNat r.rollback (max r.rollback o.value) x }

/-- Fuse words burnt in order, of which `reads` have been burnt and read back so: the fuses, and whether every word is done;
`none` while words remain. After a word that does not read back as burnt, no further fuse is burnt (R107). -/
def burnFuses : List FuseOp → List Nat → RcpState → RcpState × Option Bool
  | [], _, r => (r, some true)
  | o :: os, reads, r =>
    if wordDone o r then burnFuses os reads r
    else match reads with
    | [] => (r, none)
    | x :: xs =>
      let r := burnWord o x r
      if wordDone o r then burnFuses os xs r else (r, some false)

end Sys2Proof.Machine
end

