-- ==== Sys2Proof/Machine/Starters.lean ====
section
/-! DEFINITION. Starters: the steps of carried state, Feeding and Rebase (R252–R273). -/
namespace Sys2Proof.Machine

/-! ## Exact values: (a, e) stands for a × 2^e -/

/-- Sum of two dyadics. -/
def dyAdd (x y : Int × Int) : Int × Int :=
  let m := min x.2 y.2
  (x.1 * 2 ^ (x.2 - m).toNat + y.1 * 2 ^ (y.2 - m).toNat, m)

/-- Product and negation of dyadics. -/
def dyMul (x y : Int × Int) : Int × Int := (x.1 * y.1, x.2 + y.2)
def dyNeg (x : Int × Int) : Int × Int := (-x.1, x.2)

/-- t of a mode: AFFINE g × h + u, MIX u + g × (h − u) (R259, R262). -/
def stepValue (mix : Bool) (g h u : Int × Int) : Int × Int :=
  if mix then dyAdd u (dyMul g (dyAdd h (dyNeg u))) else dyAdd (dyMul g h) u

/-- An accumulator at a scale: t rounded once, and saturated (R263). -/
def stepAcc (bs : Int) (t : Int × Int) : Int × Nat := satAcc (scaleRne t.1 (t.2 - (bs - 24)))

/-- BS′ of a Feeding step (R265). -/
def feedBs (bs : Int) (ts : List (Int × Int)) : Int :=
  match (ts.filter fun t => t.1 != 0).map fun t => ceilExp t.1.natAbs t.2 with
  | [] => bs
  | e :: es => clampInt (-32) 31 (es.foldl max e)

/-- A Resident row after a step (R263). -/
def stepRow (feeding : Bool) (r : AccRow) (ts : List (Int × Int)) : AccRow × Nat :=
  let bs := if feeding then feedBs r.bs ts else r.bs
  let xs := ts.map (stepAcc bs)
  (⟨bs, xs.map (·.1)⟩, (xs.map (·.2)).sum)

/-- A row set to lane values by a Rebase (R273). -/
def rebaseRow (bs : Int) (ls : List Int) : AccRow × Nat :=
  let xs := ls.map fun l => satAcc (scaleRne l (-bs))
  (⟨bs, xs.map (·.1)⟩, (xs.map (·.2)).sum)

/-! ## Operands (R258, R262) -/

/-- The exact source values of a vector: a bank row as it stands, else lane values (R262). -/
def sourceValues (s : State) (n : Nat) (d : DInstr) (slots : List RSlot) : List (Int × Int) × Nat :=
  let i := d.ins
  let raw := i.dec / 128 == 1
  if locKind i.src = 2 then
    let r := bankRow (s.oven n) (i.src % 2) (rowAt i.saddr 1 d.w)
    (r.acc.map fun a => (a, r.bs - 24), 0)
  else
    let (ls, k) := vecAt s n i.src raw (i.dec % 8) (pantryAt i.saddr (auxStep i.src raw) i.istride d.w d.iter) 0 slots
    (ls.map fun l => (l, -24), k)

/-- The lane values of a Rebase from SRC (R273). -/
def sourceLanes (s : State) (n : Nat) (d : DInstr) (slots : List RSlot) : List Int × Nat :=
  let i := d.ins
  let raw := i.dec / 128 == 1
  vecAt s n i.src raw (i.dec % 8) (pantryAt i.saddr (auxStep i.src raw) i.istride d.w d.iter) (rowAt i.saddr 1 d.w) slots

/-- The gate lanes of a vector. -/
def gateLanes (s : State) (n : Nat) (d : DInstr) (slots : List RSlot) : List Int × Nat :=
  let i := d.ins
  let raw := aux2Raw i
  match d.hold1 with
  | some v => (v, 0)
  | none =>
    let w := if i.auxhold then 0 else d.w
    vecAt s n i.aux2 raw (i.auxdec % 8) (pantryAt i.aux2addr (auxStep i.aux2 raw) i.istride w d.iter)
      (rowAt i.aux2addr 1 w) slots

/-- The entry's Rebase value for vector w (R254, R273). -/
def initLanes (s : State) (n : Nat) (c : StarterCfg) (w : Nat) : List Int :=
  let at_ (k : Nat) := rawLanes (s.pantryBytes n (pantryAt c.initAddr 256 0 k 0) 256)
  match c.initMode with
  | 0 => zeroLanes
  | 1 => at_ 0
  | _ => at_ w

/-- The Pantry offset of a Carried state vector (R258). -/
def carriedAt (d : DInstr) : Nat := pantryAt d.ins.daddr d.ins.dstep d.ins.istride d.w d.iter

/-- Whether the present pass is a Feeding pass of a Starter (R265). -/
def feedingPass (s : State) (n : Nat) (c : StarterCfg) : Bool :=
  match passJob s n with
  | some j => (j.pass + 1) % c.feedK == 0
  | none => false

/-- Whether the present pass's job asks for a Rebase of a Starter (R272). -/
def rebaseAsked (s : State) (n num : Nat) : Bool :=
  match passJob s n with
  | some j => j.rebase.testBit num
  | none => false

/-! ## One vector -/

/-- One vector of a step: Resident with one rounding, Carried with one encoding (R263, R264). -/
def stepVec (n : Nat) (d : DInstr) (c : StarterCfg) (mix : Bool) (us : List (Int × Int)) (gs : List Int) (s : State) :
    State :=
  let o := s.oven n
  let ts (hs : List (Int × Int)) : List (Int × Int) := (List.range 64).map fun j =>
    stepValue mix (gs.getD j 0, -24) (hs.getD j (0, 0)) (us.getD j (0, 0))
  if c.carried then
    let hs := (s.pantryBytes n (carriedAt d) 64).map fun b => opValue (spGet 0 o.decs (c.cdec * 256 + b.toNat))
    s.putPantry n (carriedAt d) ((ts hs).map (encodeDy (spGet EncTable.zero o.encs c.cenc)))
  else
    let row := starterRow c d.ins d.iter d.w
    let r := bankRow o 1 row
    let (r', sat) := stepRow (feedingPass s n c) r (ts (r.acc.map fun a => (a, r.bs - 24)))
    countAccSat n sat (onOven n (putS row r') s)

/-- One vector of a Rebase (R273). -/
def rebaseVec (n : Nat) (d : DInstr) (c : StarterCfg) (ls : List Int) (s : State) : State :=
  if c.carried then
    s.putPantry n (carriedAt d) (ls.map fun l => encodeDy (spGet EncTable.zero (s.oven n).encs c.cenc) (l, -24))
  else
    let (r, sat) := rebaseRow c.initBs ls
    countAccSat n sat (onOven n (putS (starterRow c d.ins d.iter d.w) r) s)

/-- A vector done. -/
def nextVec (n k : Nat) (s : State) : State :=
  onDisp n k (fun d => { d with started := true, w := d.w + 1, g0 := [], g1 := [] }) s

/-- Vectors of a step until it ends or a Rack runs dry; `fuel` bounds them. -/
def stepLoop (n k : Nat) (c : StarterCfg) (mix : Bool) : Nat → State → State
  | 0, s => s
  | fuel + 1, s =>
    match (s.oven n).disp[k]? with
    | none => s
    | some d =>
      let i := d.ins
      if i.count ≤ d.w then finishDisp n k s
      else
        let need0 := slotsNeeded i.src (i.dec / 128 == 1)
        let need1 := if i.auxhold && d.hold1.isSome then 0 else slotsNeeded i.aux2 (aux2Raw i)
        let (g0, s) := gather n i.src false need0 d.g0 s
        let (g1, s) := gather n i.aux2 false need1 d.g1 s
        if g0.length < need0 ∨ g1.length < need1 then onDisp n k (fun d => { d with started := d.started || !(g0 ++ g1).isEmpty, g0, g1 }) s
        else
          let (us, a) := sourceValues s n d g0
          let (gs, b) := gateLanes s n d g1
          let s := countLaneSat n (a + b) s
          let s := if i.auxhold then onDisp n k (fun d => { d with hold1 := some gs }) s else s
          stepLoop n k c mix fuel (nextVec n k (stepVec n d c mix us gs s))

/-- Vectors of a REBASE_IF: rebased when asked, else its Rack source popped and discarded (R260, R273). -/
def rebaseLoop (n k : Nat) (c : StarterCfg) (asked : Bool) : Nat → State → State
  | 0, s => s
  | fuel + 1, s =>
    match (s.oven n).disp[k]? with
    | none => s
    | some d =>
      let i := d.ins
      if i.count ≤ d.w then finishDisp n k s
      else
        let need0 := slotsNeeded i.src (i.dec / 128 == 1)
        let (g0, s) := gather n i.src false need0 d.g0 s
        if g0.length < need0 then onDisp n k (fun d => { d with started := d.started || !g0.isEmpty, g0 }) s
        else if !asked then rebaseLoop n k c asked fuel (nextVec n k s)
        else if locKind i.src = 3 then
          rebaseLoop n k c asked fuel (nextVec n k (rebaseVec n d c (initLanes s n c d.w) s))
        else
          let (ls, a) := sourceLanes s n d g0
          rebaseLoop n k c asked fuel (nextVec n k (rebaseVec n d c ls (countLaneSat n a s)))

/-! ## The three modes (R257, R259) -/

/-- The Starter engine's next instruction, if it is of a mode, and its Starter. -/
def starterHead (o : Oven) (mode : Nat) : Option (Nat × DInstr × StarterCfg) :=
  match headOf o fun d => d.ins.op == .starter with
  | some (k, d) => if d.ins.smode = mode then (starterOf o d.ins).map fun c => (k, d, c) else none
  | none => none

/-- A step of the Starter engine (R259, R266). -/
def starterStep (n mode : Nat) (s : State) : State :=
  match starterHead (s.oven n) mode with
  | none => s
  | some (k, d, c) => dispatch n (stepLoop n k c (mode == 1) (d.ins.count + 1) s)

/-- A REBASE_IF of the Starter engine (R273). -/
def starterRebase (n : Nat) (s : State) : State :=
  match starterHead (s.oven n) 2 with
  | none => s
  | some (k, d, c) => dispatch n (rebaseLoop n k c (rebaseAsked s n c.num) (d.ins.count + 1) s)

def execStarterAffine (n : Fin 48) (s : State) : Host.Outcome State Fault Refusal := ok (starterStep n.val 0) s

def execStarterMix (n : Fin 48) (s : State) : Host.Outcome State Fault Refusal := ok (starterStep n.val 1) s

def execStarterRebaseIf (n : Fin 48) (s : State) : Host.Outcome State Fault Refusal := ok (starterRebase n.val) s

/-- Every row of a Resident Starter set by its entry (R256, R271). -/
def rebaseWhole (n : Nat) (c : StarterCfg) (s : State) : State :=
  if c.carried then s
  else (List.range c.rows).foldl (fun s w =>
    let (r, sat) := rebaseRow c.initBs (initLanes s n c w)
    countAccSat n sat (onOven n (putS (c.rowFirst + w) r) s)) s

end Sys2Proof.Machine
end

