-- ==== Sys2Proof/Machine/SectOvens.lean ====
section
/-! DEFINITION. The sections of an Oven and of the Slicers' format tables: FORMAT_TABLES, SLICER, CURVES, OVEN_PROGRAM,
STARTERS, and the images (R97, R98, R129, R134–R136, R140, R244–R249, R254–R257, R303). -/
namespace Sys2Proof.Machine

/-! ## Format tables (R129, R134, R135, R303) -/

/-- KIND and SLOT of a FORMAT_TABLES entry. -/
def ftKind (e : List Byte) : Nat := min (leAt 0 1 e) 1
def ftSlot (e : List Byte) : Nat := min (leAt 1 1 e) 7

/-- Two entries for one slot; more entries than slots (R129). -/
def formatFlaw (x : Sect) : Option Flaw := firstFlaw [
  flawIf (decide (16 < x.count)) cLimit (x.d.off + 4),
  x.dup cBody 1 fun e => some (ftKind e * 8 + ftSlot e)]

/-- A decode table's words put at a slot. -/
def putDecode (slot : Nat) (e : List Byte) (m : List (Nat × Word)) : List (Nat × Word) :=
  (List.range 256).foldl (fun m c =>
    spSet 0 (slot * 256 + c) (BitVec.ofNat 32 (leAt (16 + 4 * c) 4 e % 2 ^ 18)) m) m

/-- An encode table (R132, R134, R135). -/
def encTable (e : List Byte) : EncTable :=
  let ts := (List.range 255).map fun j => BitVec.ofNat 32 (leAt (16 + 4 * j) 4 e % 2 ^ 23)
  { xshift := clampInt (-16) 16 (leSAt 4 1 e)
    thresh := match ts with | [] => [] | t :: ts => t :: clampThresh t ts
    codemap := slice 0x410 256 e }

/-- The decode and encode tables of a section. -/
def formatTables (x : Sect) : List (Nat × Word) × List (Nat × EncTable) :=
  x.ents.foldl (fun (d, n) e =>
    if ftKind e = 0 then (putDecode (ftSlot e) e d, n) else (d, spPut (ftSlot e) (encTable e) n)) ([], [])

/-! ## Curves (R140) -/

/-- A Curve entry with its SLOT, clamped to `top`. -/
def curveEntry (top : Nat) (e : List Byte) : Nat × Curve :=
  let w := clampNat 8 27 (leAt 2 1 e)
  (min (leAt 0 1 e) top,
   { extend := decide (1 ≤ leAt 1 1 e), wshift := w
     xlo := clampInt (-(2 ^ 31)) (2 ^ 31 - 16 * 2 ^ w) (leSAt 4 4 e)
     ys := (List.range 17).map fun k => leSAt (8 + 4 * k) 4 e })

/-- Two entries for one slot; more entries than slots (R129). -/
def curvesFlaw (x : Sect) : Option Flaw := firstFlaw [
  flawIf (decide (32 < x.count)) cLimit (x.d.off + 4),
  x.dup cBody 0 fun e => some (curveEntry 31 e).1]

/-- The Curves of a section, by slot. -/
def curveTable (top : Nat) (es : List (List Byte)) : List (Nat × Curve) :=
  es.foldl (fun m e => let (k, c) := curveEntry top e; spPut k c m) []

/-! ## Oven programs (R244–R249, R257) -/

/-- An OP code. -/
def ovenOp (n : Nat) : OvenOp :=
  match n with
  | 0 => .end_
  | 1 => .loadw
  | 2 => .mac
  | 3 => .glaze
  | 4 => .fetch
  | 5 => .flush
  | 6 => .loop
  | _ => .starter

/-- A stage: SOP and SARG as clamped (R235). -/
def stageOf (e : List Byte) (i : Nat) : Nat × Int :=
  let sop := min (leAt (0x28 + 2 * i) 1 e) 9
  let raw := leAt (0x29 + 2 * i) 1 e
  (sop,
   if sop = 5 then (raw % 32 : Nat)
   else if sop = 6 then clampInt (-24) 24 (leSAt (0x29 + 2 * i) 1 e)
   else if 8 ≤ sop then (clampNat 2 16 raw : Nat)
   else (raw : Int))

/-- Instruction `k` of a program, from its entry. -/
def ovenInstr (k : Nat) (e : List Byte) : OInstr :=
  let fl := leAt 1 1 e
  { op := ovenOp (leAt 0 1 e)
    split := fl.testBit 0, clear := fl.testBit 1, tile := if fl.testBit 2 then 1 else 0
    frameEnd := fl.testBit 3, ringed := fl.testBit 4, auxhold := fl.testBit 5
    count := max 1 (leAt 2 2 e)
    src := leAt 4 1 e, dst := leAt 5 1 e, dec := leAt 6 1 e, enc := leAt 7 1 e
    saddr := leAt 8 4 e, sstep := leSAt 0xC 4 e, daddr := leSAt 0x10 4 e, dstep := leSAt 0x14 4 e
    istride := leSAt 0x18 4 e
    ascale := clampInt (-32) 31 (leSAt 0x1C 1 e)
    aux2 := leAt 0x1D 1 e, aux3 := leAt 0x1E 1 e, auxdec := leAt 0x1F 1 e
    aux2addr := leAt 0x20 4 e, aux3addr := leAt 0x24 4 e
    stages := (List.range 4).map (stageOf e)
    maddr := leAt 0x30 8 e % 2 ^ 40 / 32 * 32
    len := clampNat 32 32768 (leAt 0x38 2 e / 32 * 32)
    target := min (leAt 0x3A 2 e) (k - 1)
    user := leAt 0x3C 2 e % 0x4000
    rstride := leAt 0x3E 2 e
    smode := min (leAt 0x28 1 e) 2
    num := leAt 0x29 1 e % 8 }

/-- The instructions of a program section: entry 0 is its header. -/
def programOf (x : Sect) : List OInstr := (List.range (x.count - 1)).map fun k => ovenInstr k (x.ent (k + 1))

/-- The Rack locations an instruction uses: location, byte of the field, and whether it is an output. -/
def rackLocs (i : OInstr) : List (Nat × Nat × Bool) :=
  let l : List (Nat × Nat × Bool) := match i.op with
    | .mac => [(i.src, 4, false)]
    | .glaze => [(i.src, 4, false), (i.dst, 5, true), (i.aux2, 0x1D, false), (i.aux3, 0x1E, false)]
    | .starter => [(i.src, 4, false), (i.aux2, 0x1D, false)]
    | _ => []
  l.filter fun p => locKind p.1 == 1

/-- The loops of a program: first instruction of the body, and index of the LOOP. -/
def loopsOf (p : List OInstr) : List (Nat × Nat) :=
  ((List.range p.length).zip p).filterMap fun (k, i) => if i.op = .loop then some (i.target, k) else none

/-- Faults of an OVEN_PROGRAM section, against the Oven's Rack ends (input or output, port, SUB) and its Starters (R249).
A section without the program header holds no program (DEDUCED, log entry 31). -/
def programFlaw (x : Sect) (outs ins : List (Nat × Nat)) (starters : List Nat) : Option Flaw :=
  let p := programOf x
  let ls := loopsOf p
  let at_ (k off : Nat) := x.at (k + 1) off
  if x.count = 0 then some (cBody, x.d.off + 4)
  else if 1024 < p.length then some (cLimit, x.d.off + 4)
  else firstFlaw ((List.range p.length).map fun k =>
    match p[k]? with
    | none => none
    | some i => firstFlaw ([
        flawIf (i.op == .loop && k == 0) cBody (at_ k 0),
        flawIf (i.op == .loop && ls.any fun l => decide (l.2 < k ∧ l.1 < i.target ∧ i.target < l.2)) cBody (at_ k 0x3A),
        flawIf (i.op == .loop && ls.any fun l =>
            decide (4 < ls.countP fun m => decide (m.1 ≤ l.1 ∧ l.2 ≤ m.2)) && decide (i.target ≤ l.1 ∧ l.2 ≤ k))
          cLimit (at_ k 0)] ++
      (rackLocs i).map (fun (l, off, out) =>
        flawIf (decide (6 ≤ locPort l) || !((if out then outs else ins).contains (locPort l, locSub l)))
          cAbsent (at_ k off)) ++
      [flawIf (i.op == .starter && !(starters.contains i.num)) cAbsent (at_ k 0x29)]))

/-! ## Starters (R254, R255) -/

/-- A STARTERS entry. -/
def starterEntry (e : List Byte) : StarterCfg :=
  let first := min (leAt 2 2 e) 511
  let fl := leAt 7 1 e
  { num := min (leAt 0 1 e) 7, carried := decide (1 ≤ leAt 1 1 e), rowFirst := first
    rows := clampNat 1 (512 - first) (leAt 4 2 e), initBs := clampInt (-32) 31 (leSAt 6 1 e)
    keep := fl.testBit 0, initMode := min (fl / 2 % 4) 2, feedK := clampNat 16 65536 (leAt 8 4 e)
    initAddr := leAt 0xC 4 e % 2 ^ 21 / 32 * 32, cdec := leAt 0x10 1 e % 8, cenc := leAt 0x11 1 e % 8 }

/-- Faults of a STARTERS section. -/
def startersFlaw (x : Sect) : Option Flaw :=
  let cs := x.ents.map starterEntry
  let meets (a b : StarterCfg) : Bool := !a.carried && !b.carried &&
    decide (a.rowFirst < b.rowFirst + b.rows ∧ b.rowFirst < a.rowFirst + a.rows)
  firstFlaw [
    flawIf (decide (8 < x.count)) cLimit (x.d.off + 4),
    x.dup cBody 0 fun e => some (starterEntry e).num,
    firstFlaw ((List.range cs.length).map fun k => match cs[k]? with
      | some c => flawIf ((cs.take k).any (meets c)) cBody (x.at k 2)
      | none => none)]

/-! ## Images (R97, R98) -/

/-- TARGET and LEN of an image, and its data. -/
def imageTarget (x : Sect) : Nat := leAt 0x10 8 x.body
def imageLen (x : Sect) : Nat := leAt 0x18 4 x.body
def imageData (x : Sect) : List Byte := slice 0x20 (imageLen x) x.body

/-- Faults of an image's descriptor: ENTRY_COUNT 1, ENTRY_SIZE = LEN, LEN a multiple of 32, and the data inside the body
(R97; DEDUCED, log entry 31). -/
def imageFlaw (x : Sect) : Option Flaw := firstFlaw [
  flawIf (x.count != 1) cBody (x.d.off + 4),
  flawIf (x.esize != imageLen x) cBody (x.d.off + 8),
  flawIf (imageLen x % 32 != 0 || decide (x.d.len < imageLen x + 32)) cBody (x.d.off + 0x18)]

/-! ## Applying (R121, R122, R128, R136, R244, R256) -/

/-- FORMAT_TABLES: the section's tables are the Oven's (R136). -/
def applyFormats (x : Sect) (s : State) : State :=
  let (d, n) := formatTables x
  onOven x.d.inst (fun o => { o with decs := d, encs := n }) s

def applyCurves (x : Sect) (s : State) : State :=
  onOven x.d.inst (fun o => { o with curves := curveTable 31 x.ents }) s

/-- OVEN_PROGRAM: the Oven holds a program, from its start (R244). OVN_CONFIG shows it (R250). -/
def applyProgram (x : Sect) (s : State) : State :=
  let n := x.d.inst
  let p := programOf x
  let ring := clampNat 1 16 (leAt 0 1 (x.ent 0))
  let s := onOven n (fun o => { o with loaded := true, ringLen := ring, instrs := p }) s
  (s.fset (Fld.OVN_CONFIG_RING_LEN n) ring).fset (Fld.OVN_CONFIG_INSTRS n) p.length

/-- STARTERS: each Resident Starter is set by its entry, unless a Patch keeps it at its size: what is kept stays in the S rows
it occupies (R122, R256). -/
def applyStarters (patch : Bool) (x : Sect) (s : State) : State :=
  let n := x.d.inst
  let old := (s.oven n).starters
  let cs := x.ents.map starterEntry
  let kept (c : StarterCfg) : Bool := patch && c.keep && old.any fun o =>
    o.num == c.num && !o.carried && o.rows == c.rows
  let s := onOven n (fun o => { o with starters := cs }) s
  cs.foldl (fun s c => if c.carried || kept c then s else rebaseWhole n c s) s

/-- SLICER: the Slicers' shared tables (R303). -/
def applySlicer (x : Sect) (s : State) : State :=
  let (d, n) := formatTables x
  { s with mem := { s.mem with sdecs := d, sencs := n } }

end Sys2Proof.Machine
end

