-- ==== Sys2Proof/Machine/SectCore.lean ====
section
/-! DEFINITION. The sections GLOBAL, POWER, PACE, PCIE, SIDEBAND, AWT, CONTEXTS, MEMORY, WINDOWS and MERIDIAN (R86, R87,
R96, R181, R289–R291, R334, R335, R379, R380, R466, R467), and state tables (R129, R145, R146). -/
namespace Sys2Proof.Machine

/-! ## GLOBAL and MEMORY (R96, R281, R289) -/

/-- HOME_ID, PRIMARY_PORT and BAKERY_MASK of a GLOBAL entry. -/
def globalHome (e : List Byte) : Nat := leAt 0 1 e % 8
def globalPort (e : List Byte) : PPort := if leAt 1 1 e % 2 = 0 then .a else .b
def globalMask (e : List Byte) : Nat := leAt 2 2 e

/-- A section that holds exactly one entry (DEDUCED, log entry 31 for the cause). -/
def oneEntry (x : Sect) : Option Flaw := flawIf (x.count != 1) cBody (x.d.off + 4)

/-- GLOBAL: the home ID and BAKERY_MASK (R548). -/
def applyGlobal (x : Sect) (s : State) : State :=
  (s.fset Fld.GLB_STATUS_HOME_ID (globalHome (x.ent 0))).fset Fld.GLB_STATUS_BAKERY_MASK (globalMask (x.ent 0))

/-- MEMORY: MEM_CFG (R289, R310). -/
def applyMemory (x : Sect) (s : State) : State :=
  let e := x.ent 0
  (((s.fset Fld.MEM_CFG_INLINE_ECC (min (leAt 0 1 e) 1)).fset Fld.MEM_CFG_PAGE_POLICY (min (leAt 1 1 e) 1)).fset
    Fld.MEM_CFG_PD_IDLE (leAt 2 1 e)).fset Fld.MEM_CFG_WR_HI (clampNat 16 56 (leAt 3 1 e))

/-- Visible DRAM in bytes: 1/32 less under inline ECC (R278, R281). -/
def visibleOf (c : OrderCode) (ecc : Bool) : Nat := if ecc then dramBytes c / 32 * 31 else dramBytes c

/-! ## State tables (R129, R145, R146, R154) -/

/-- A row, from its entry; `last` is the index of the last row. -/
def tableRow (last : Nat) (e : List Byte) : TRow :=
  let fl := leAt 3 1 e
  { cond := min (leAt 0 1 e) 9, src := leAt 1 1 e, act := min (leAt 2 1 e) 10, last := fl.testBit 0, consume := fl.testBit 1
    next := min (leAt 4 2 e) last, dst := leAt 6 2 e
    imm := BitVec.ofNat 32 (leAt 8 4 e), arg := BitVec.ofNat 32 (leAt 0xC 4 e) }

/-- A state table from its header and row entries. -/
def tableOf : List (List Byte) → TTable
  | [] => ⟨0, 0, 0, []⟩
  | h :: rs =>
    let last := rs.length - 1
    ⟨min (leAt 0 2 h) last, BitVec.ofNat 32 (leAt 4 4 h), BitVec.ofNat 32 (leAt 8 4 h), rs.map (tableRow last)⟩

/-- Faults of a state table of `n` entries whose header is entry `k`: no rows, another ENGINE, rows over the limit. -/
def tableFlaw (x : Sect) (k n engine limit : Nat) : Option Flaw := firstFlaw [
  flawIf (decide (n < 2)) cBody (x.d.off + 4),
  flawIf (leAt 2 1 (x.ent k) != engine) cBody (x.at k 2),
  flawIf (decide (limit + 1 < n)) cLimit (x.d.off + 4)]

/-! ## POWER (R181) -/

def powerKind (e : List Byte) : Nat := min (leAt 0 1 e) 2

/-- The role map of a ROLES entry: 64 for none. -/
def rolesOf (e : List Byte) : List Nat :=
  (List.range 6).map fun i => let b := leAt (1 + i) 1 e; if b.testBit 7 then 64 else b % 64

/-- Faults of a POWER section; `procs` are the Procedures of the Recipe. -/
def powerFlaw (x : Sect) (procs : List Nat) : Option Flaw := firstFlaw [
  x.dup cBody 0 fun e => if powerKind e = 0 then some 0 else none,
  x.dup cBody 1 fun e => if powerKind e = 1 then some (min (leAt 1 1 e) 63) else none,
  x.dup cBody 2 fun e => if powerKind e = 2 then some (min (leAt 2 2 e) 255) else none,
  x.each fun k e => if powerKind e != 0 then none else firstFlaw ((List.range 6).map fun i =>
    flawIf (let p := (rolesOf e).getD i 64; decide (p < 64) && !(procs.contains p)) cAbsent (x.at k (1 + i)))]

/-- POWER: roles, policies and write targets. -/
def applyPower (x : Sect) (s : State) : State :=
  x.ents.foldl (fun s e => match powerKind e with
    | 0 => { s with zen := { s.zen with roles := rolesOf e } }
    | 1 => { s with zen := { s.zen with
        policy := spPut (min (leAt 1 1 e) 63) (min (leAt 2 1 e) 2, clampNat 1 4 (leAt 3 1 e)) s.zen.policy } }
    | _ => { s with zen := { s.zen with
        targets := spPut (min (leAt 2 2 e) 255) (min (leAt 4 4 e) 0x1FFFFFC / 4 * 4) s.zen.targets } }) s

/-! ## PACE (R86, R87) -/

def paceKind (e : List Byte) : Nat := min (leAt 0 1 e) 2

/-- Whether a generator is there: LVDS, generator 3, is absent from FRU-U24-B (R3, R85, R411). -/
def genPresent (c : OrderCode) (g : Nat) : Bool := g != 3 || lvdsPresent c

/-- Faults of a PACE section: `ovens` are those of its Bakery, `gens` the generators that are there and have an OUTPUT_TIMING
section, and `defined` says that BAKERY_MASK has the Bakery. -/
def paceFlaw (s : State) (x : Sect) (ovens gens : List Nat) (defined : Bool) : Option Flaw :=
  if 16 < x.d.inst then some (cAbsent, x.dirAt 2)
  else if x.d.inst = 0 then
    firstFlaw [oneEntry x, x.each fun k e => flawIf (paceKind e != 0) cBody (x.at k 0)]
  else firstFlaw [
    flawIf (!defined) cOwnership (x.dirAt 2),
    flawIf ((x.ents.countP fun e => paceKind e == 1) != 1) cBody (x.d.off + 4),
    x.dup cBody 1 fun e => if paceKind e = 2 then some (leAt 1 1 e) else none,
    x.each fun k e => match paceKind e with
      | 0 => some (cBody, x.at k 0)
      | 1 => flawIf (!(gens.contains (leAt 1 1 e % 4))) cAbsent (x.at k 1)
      | _ => firstFlaw [
          flawIf (decide (ovenCount s.code ≤ leAt 1 1 e)) cAbsent (x.at k 1),
          flawIf (!(ovens.contains (leAt 1 1 e))) cOwnership (x.at k 1)]]

/-- PACE: the registers that the section fills; `ovens` are those that the container leaves to its Bakery (R86). -/
def applyPace (ovens : List Nat) (x : Sect) (s : State) : State :=
  if x.d.inst = 0 then
    let e := x.ent 0
    let s := s.fset Fld.PACE_CEIL_CEIL_RCP (clampNat 120 720 (leAt 2 2 e))
    let s := s.fset Fld.PACE_AVS_RAIL (leAt 4 1 e % 16)
    let s := s.fset Fld.PACE_AVS_AVS_MHZ (clampNat 5 20 (leAt 5 1 e))
    let s := s.fset Fld.PACE_AVS_VDROOP (min (leAt 6 1 e) 50)
    let s := s.fset Fld.PACE_COOLCFG_FAN_CUT (min (leAt 7 1 e) 128)
    s.fset Fld.PACE_COOLCFG_RISE_STEP (clampNat 1 15 (leAt 8 1 e))
  else
    let b := x.d.inst - 1
    let s := ovens.foldl (fun s n => s.fset (Fld.PACE_WORK_WORK n) 0) s
    x.ents.foldl (fun s e =>
      if paceKind e = 1 then (s.fset (Fld.PACE_BREF_GEN b) (leAt 1 1 e % 4)).fset (Fld.PACE_BREF_EN b) 1
      else s.fset (Fld.PACE_WORK_WORK (leAt 1 1 e)) (leAt 4 4 e)) s

/-! ## PCIE and SIDEBAND (R466, R467) -/

def pcieKind (e : List Byte) : Nat := min (leAt 0 1 e) 1

/-- VF_COUNT of a PCIE section. -/
def vfCountOf (x : Sect) : Nat := match x.ents.find? fun e => pcieKind e == 0 with
  | some e => min (leAt 1 1 e) 31
  | none => 0

/-- Whether a FUNC names a VF that is not enabled (R290, R466). -/
def funcAbsent (vfs f : Nat) : Bool := decide (vfs < f ∧ f < 32)

def pcieFlaw (x : Sect) : Option Flaw := firstFlaw [
  flawIf ((x.ents.countP fun e => pcieKind e == 0) != 1) cBody (x.d.off + 4),
  x.dup cBody 1 fun e => if pcieKind e = 1 then some (min (leAt 1 1 e) 32) else none,
  x.each fun k e => flawIf (pcieKind e == 1 && funcAbsent (vfCountOf x) (min (leAt 1 1 e) 32)) cAbsent (x.at k 1)]

/-- PCIE: the general fields, and each function's APBASE. -/
def applyPcie (x : Sect) (s : State) : State :=
  x.ents.foldl (fun s e =>
    if pcieKind e = 0 then
      { s with pcie := { s.pcie with
          vfCount := min (leAt 1 1 e) 31, maxGenA := clampNat 1 5 (leAt 2 1 e), maxGenB := clampNat 1 3 (leAt 3 1 e)
          ssvid := leAt 4 2 e, ssid := leAt 6 2 e } }
    else
      let k := min (leAt 1 1 e) 32
      let a := leAt 8 8 e % 2 ^ 40
      (s.fset (Fld.SBD_PCIE_AP_LO_APBASE k) (a % 2 ^ 32 / 2 ^ 21)).fset (Fld.SBD_PCIE_AP_HI_APBASE k) (a / 2 ^ 32)) s

def sidebandFlaw (x : Sect) : Option Flaw := flawIf (decide (1 < x.count)) cBody (x.d.off + 4)

/-- SIDEBAND: GPIO settings and SB_TRIG_MASK. A section with no entry leaves every field 0. -/
def applySideband (x : Sect) (s : State) : State :=
  let e := x.ent 0
  let s := s.fset Fld.SBD_GPIO_DIR_DIR (leAt 0 2 e)
  let s := s.fset Fld.SBD_GPIO_OD_OD (leAt 2 2 e)
  let s := s.fset Fld.SBD_GPIO_OUT_OUT (leAt 4 2 e)
  let s := s.fset Fld.SBD_GPIO_EDGECFG_CFG (leAt 8 4 e)
  { s with side := { s.side with trigMask := leAt 0x10 8 e } }

/-! ## AWT and CONTEXTS (R375, R376, R379, R380) -/

/-- The granule of an AWT target (R376). -/
def awtGranule (t : Nat) : Nat := if 64 ≤ t then 4 else if 2 ≤ t ∧ t < 50 then 32 else 4096

/-- An AWT entry of a target whose range ends at `top`: bits below the granule ignored in BASE, ones in LIMIT. -/
def awtEntry (t top : Nat) (e : List Byte) : AwtEntry :=
  let g := awtGranule t
  ⟨leAt 0 8 e / g * g, min top (leAt 8 8 e / g * g + (g - 1)), BitVec.ofNat 64 (leAt 0x10 8 e), BitVec.ofNat 64 (leAt 0x18 8 e)⟩

/-- The last byte of a target's range, with `visible` bytes of DRAM (R376). -/
def awtTop (s : State) (visible t : Nat) : Nat := if t = 0 then visible - 1 else (awtRange s t).2

/-- Faults of an AWT section (R380). -/
def awtFlaw (s : State) (visible : Nat) (x : Sect) : Option Flaw :=
  let t := x.d.inst
  let es := x.ents.map (awtEntry t (awtTop s visible t))
  if (58 < t ∧ t < 64) ∨ 83 < t ∨ (2 + ovenCount s.code ≤ t ∧ t < 50) then some (cAbsent, x.dirAt 2)
  else firstFlaw [
    flawIf (decide (64 < x.count)) cLimit (x.d.off + 4),
    firstFlaw ((List.range es.length).map fun k => match es[k]? with
      | some a => firstFlaw [
          flawIf (decide (a.limit < a.base)) cBody (x.at k 0),
          flawIf ((es.take k).any fun b => decide (a.base ≤ b.limit ∧ b.base ≤ a.limit)) cBody (x.at k 0)]
      | none => none)]

def ctxKind (e : List Byte) : Nat := min (leAt 0 1 e) 2

/-- FIRST and COUNT of a CONTEXTS entry, clamped to the kind's range. -/
def ctxSpan (e : List Byte) : Nat × Nat :=
  let first := match ctxKind e with | 0 => leAt 2 2 e % 1024 | 1 => leAt 2 2 e % 4096 | _ => leAt 2 1 e
  let top := match ctxKind e with | 0 => 1024 | 1 => 4096 | _ => 256
  (first, clampNat 1 (top - first) (leAt 4 2 e))

/-- FUNC[5:0] of an OWN entry, and the function it names: `none` for no function. -/
def ctxFuncBits (e : List Byte) : Nat := min (leAt 6 1 e % 64) 32
def ctxFunc (e : List Byte) : Option Nat := if (leAt 6 1 e).testBit 7 then none else some (ctxFuncBits e)

/-- Faults of a CONTEXTS section (R379). -/
def contextsFlaw (x : Sect) (vfs : Nat) : Option Flaw :=
  let es := x.ents
  let ownB := (es.map fun e => if ctxKind e = 0 ∧ ctxFunc e = some 32 then (ctxSpan e).2 else 0).sum
  firstFlaw [
    firstFlaw ((List.range es.length).map fun k => match es[k]? with
      | some e =>
        let (f, n) := ctxSpan e
        firstFlaw [
          flawIf ((es.take k).any fun d => ctxKind d == ctxKind e &&
            (let (g, m) := ctxSpan d; decide (f < g + m ∧ g < f + n))) cBody (x.at k 2),
          flawIf (ctxKind e == 0 && (match ctxFunc e with | some v => funcAbsent vfs v | none => false)) cAbsent (x.at k 6)]
      | none => none),
    flawIf (decide (64 < ownB)) cLimit (x.d.off + 4)]

/-- CONTEXTS: the owners of contexts and mailboxes; a context with no OWN entry has no function. -/
def applyContexts (x : Sect) (s : State) : State :=
  x.ents.foldl (fun s e =>
    let (f, n) := ctxSpan e
    let each (g : Nat → State → State) : State := (List.range n).foldl (fun s i => g (f + i) s) s
    match ctxKind e with
    | 0 => each fun c s => (s.fset (Fld.CTX_OWNER_FUNC c) (ctxFuncBits e)).fset (Fld.CTX_OWNER_NOFUNC c)
        (if (ctxFunc e).isNone then 1 else 0)
    | 1 => s
    | _ => each fun m s => (s.fset (Fld.MBX_OWNER_CTX m) (leAt 6 2 e % 1024)).fset (Fld.MBX_OWNER_OWNED m) 1) s

/-- The Circle map of a CONTEXTS section: Circle by master ID. -/
def circlesOf (x : Sect) : List (Nat × Nat) :=
  x.ents.foldl (fun m e =>
    if ctxKind e = 1 then
      let (f, n) := ctxSpan e
      (List.range n).foldl (fun m i => spPut (f + i) (min (leAt 6 1 e) 63) m) m
    else m) []

/-! ## WINDOWS (R290, R291, R293) -/

/-- A WINDOWS entry: the number and the window. -/
def windowEntry (e : List Byte) : Nat × Window :=
  let kind := min (leAt 2 1 e) 2
  let members := if kind = 1 then leAt 4 1 e else 0
  let g := if kind = 2 then 0x200000 else 0x1000
  let n := (bitsSet 8 members).length
  let size := max g (leAt 0x10 8 e)
  (leAt 0 2 e,
   { kind, members, func := min (leAt 5 1 e) 32, hwin := min (leAt 6 1 e) 63
     owner := if (leAt 3 1 e).testBit 7 then none else some (leAt 3 1 e % 16)
     base := leAt 8 8 e % 2 ^ 40 / g * g
     size := if kind = 1 ∧ n ≠ 0 then max (n * 4096) (size / (n * 4096) * (n * 4096)) else size
     slice := leAt 0x18 8 e % 2 ^ 37 / 4096 * 4096, dark := false, setDark := false })

/-- The DRAM of a Star that a window occupies: first byte and size (R290, R291). -/
def windowDram (home : Nat) (w : Window) : Option (Nat × Nat) :=
  if w.kind = 0 ∧ w.base / 2 ^ 37 = home then some (w.base % 2 ^ 37, w.size)
  else if w.kind = 1 ∧ w.members.testBit home then some (w.slice, w.size / (bitsSet 8 w.members).length)
  else none

/-- Whether two ranges, as first byte and size, meet. -/
def rangesMeet (a b : Nat × Nat) : Bool := decide (a.1 < b.1 + b.2 ∧ b.1 < a.1 + a.2)

/-- Faults of a WINDOWS section (R291). -/
def windowsFlaw (x : Sect) (home visible vfs : Nat) (routed : Nat → Bool) : Option Flaw :=
  let ws := x.ents.map windowEntry
  firstFlaw [
    flawIf (decide (256 < x.count)) cLimit (x.d.off + 4),
    x.dup cBody 0 fun e => some (leAt 0 2 e),
    x.dup cBody 6 fun e => let w := (windowEntry e).2; if w.kind = 2 then some w.hwin else none,
    firstFlaw ((List.range ws.length).map fun k => match ws[k]? with
      | none => none
      | some (n, w) =>
        let dram := windowDram home w
        let homes := if w.kind = 1 then bitsSet 8 w.members else if w.kind = 0 then [w.base / 2 ^ 37] else []
        firstFlaw [
          flawIf (decide (255 < n)) cLimit (x.at k 0),
          flawIf (w.kind == 1 && decide ((bitsSet 8 w.members).length < 2)) cBody (x.at k 4),
          flawIf (w.kind == 2 && funcAbsent vfs w.func) cAbsent (x.at k 5),
          flawIf (w.kind == 2 && !(w.base / 2 ^ 37 == home && decide (0x1C00000000 ≤ w.base % 2 ^ 37) &&
            decide (w.base % 2 ^ 37 + w.size ≤ 2 ^ 37))) cAbsent (x.at k 8),
          flawIf (match dram with | some (a, m) => decide (visible < a + m) | none => false) cAbsent
            (x.at k (if w.kind = 1 then 0x18 else 8)),
          flawIf (homes.any fun h => h != home && !(routed h)) cRoute (x.at k (if w.kind = 1 then 4 else 8)),
          flawIf ((ws.take k).any fun v => rangesMeet (w.base, w.size) (v.2.base, v.2.size)) cOwnership (x.at k 8),
          flawIf ((ws.take k).any fun v => match dram, windowDram home v.2 with
            | some a, some b => rangesMeet a b
            | _, _ => false) cOwnership (x.at k (if w.kind = 1 then 0x18 else 8))])]

/-- WINDOWS: the windows, and DEFINED of the host windows in use (R310). -/
def applyWindows (x : Sect) (s : State) : State :=
  let ws := x.ents.map windowEntry
  let s := { s with mem := { s.mem with wins := ws.foldl (fun m e => spPut e.1 e.2 m) [] } }
  ws.foldl (fun s e => if e.2.kind = 2 then s.fset (Fld.MEM_HWIN_CTRL_DEFINED e.2.hwin) 1 else s) s

/-! ## MERIDIAN (R334, R335) -/

def merKind (e : List Byte) : Nat := min (leAt 0 1 e) 4

/-- A GUEST entry. -/
def guestEntry (e : List Byte) : Guest :=
  let first := leAt 2 2 e % 4096
  let proxy := clampNat 0x800 0xFFF (leAt 4 2 e)
  ⟨leAt 1 1 e % 8, first, proxy, clampNat 1 (min (0x1000 - first) (0x1000 - proxy)) (leAt 6 2 e),
   if (leAt 8 1 e).testBit 7 then none else some (leAt 8 1 e % 16)⟩

/-- A POOL entry. -/
def poolEntry (e : List Byte) : MPool :=
  ⟨leAt 8 8 e % 2 ^ 37 / 4096 * 4096, max 4096 (leAt 0x10 8 e / 4096 * 4096), []⟩

/-- The links that a section declares, and its routes: DEST and MASK (R334). -/
def merLinksOf (x : Sect) : List Nat := (x.ents.filter fun e => merKind e == 1).map fun e => leAt 1 1 e % 4
def merRoutesOf (x : Sect) : List (Nat × Nat) :=
  (x.ents.filter fun e => merKind e == 2).map fun e => (leAt 1 1 e % 8, leAt 2 1 e % 16)

/-- Faults of a MERIDIAN section (R335). -/
def meridianFlaw (x : Sect) (home visible mask : Nat) (wins : List Window) : Option Flaw :=
  let es := x.ents
  let links := merLinksOf x
  firstFlaw [
    flawIf ((es.countP fun e => merKind e == 0) != 1) cBody (x.d.off + 4),
    x.dup cBody 1 fun e => if merKind e = 1 then some (leAt 1 1 e % 4) else none,
    x.dup cBody 1 fun e => if merKind e = 2 then some (leAt 1 1 e % 8) else none,
    flawIf (decide (64 < es.countP fun e => merKind e == 3) || decide (8 < es.countP fun e => merKind e == 4)) cLimit
      (x.d.off + 4),
    firstFlaw ((List.range es.length).map fun k => match es[k]? with
      | none => none
      | some e => match merKind e with
        | 2 => firstFlaw [
            flawIf (leAt 1 1 e % 8 == home) cBody (x.at k 1),
            flawIf (leAt 2 1 e % 16 == 0) cBody (x.at k 2),
            flawIf ((bitsSet 4 (leAt 2 1 e)).any fun l => !(links.contains l)) cAbsent (x.at k 2)]
        | 3 =>
          let g := guestEntry e
          firstFlaw [
            flawIf ((es.take k).any fun d => merKind d == 3 && (guestEntry d).src == g.src &&
              rangesMeet (g.first, g.count) ((guestEntry d).first, (guestEntry d).count)) cBody (x.at k 2),
            flawIf (match g.bakery with | some b => !(mask.testBit b) | none => false) cOwnership (x.at k 8)]
        | 4 =>
          let p := poolEntry e
          firstFlaw [
            flawIf (decide (visible < p.base + p.size)) cAbsent (x.at k 8),
            flawIf (wins.any fun w => match windowDram home w with
              | some a => rangesMeet a (p.base, p.size)
              | none => false) cOwnership (x.at k 8)]
        | _ => none)]

/-- MERIDIAN: the links, declared routes, guests and pools. Links with an entry leave DISABLED at commit. -/
def applyMeridian (x : Sect) (s : State) : State :=
  x.ents.foldl (fun s e => match merKind e with
    | 0 => { s with mer := { s.mer with constId := leAt 4 4 e } }
    | 1 =>
      let l := leAt 1 1 e % 4
      let any (n m : Nat) : Nat := if n = 0xFF then 255 else n % m
      (onLink l (fun k => { k with decl := true, peerHome := any (leAt 3 1 e) 8, peerLink := any (leAt 4 1 e) 4 }) s).fset
        (Fld.MER_LINK_STATUS_MAX_GEN l) (clampNat 1 2 (leAt 2 1 e))
    | 2 => s.fset (Fld.MER_ROUTE_DECLARED (leAt 1 1 e % 8)) (leAt 2 1 e % 16)
    | 3 => { s with mer := { s.mer with guests := s.mer.guests ++ [guestEntry e] } }
    | _ => { s with mer := { s.mer with pools := s.mer.pools ++ [poolEntry e] } }) s

end Sys2Proof.Machine
end

