-- ==== Sys2Proof/Machine/Streams.lean ====
section
/-! DEFINITION. Stream Channels and output timing generators (R384–R410). -/
namespace Sys2Proof.Machine

/-! ## Generators: schedules (R364, R395–R397) -/

/-- A generator. -/
def State.gen (s : State) (g : Nat) : Gen := spGet Gen.none s.str.gens g

/-- The state with a generator changed. -/
def onGen (g : Nat) (h : Gen → Gen) (s : State) : State :=
  { s with str := { s.str with gens := spSet Gen.none g (h (s.gen g)) s.str.gens } }

/-- Whether a generator runs: START has been written and its microsecond has come (R395, R410). -/
def genRuns (s : State) (g : Gen) : Bool := match g.startAt with | some t => decide (t ≤ s.epoch) | none => false

/-- PERIOD of a mode. -/
def modePeriod (g : Gen) (m : Nat) : Nat := match g.modes.lookup m with | some x => x.period | none => 6944444

/-- The first grid point of a mode at or after a time: t mod PERIOD = PHASE (R395; DEDUCED, log entry 22 for PHASE). -/
def gridAt (g : Gen) (m x : Nat) : Nat :=
  let p := modePeriod g m
  x + (min g.phase (p - 1) + p - x % p) % p

/-- The frame start that follows one at `t` in a mode (R395). -/
def startAfter (g : Gen) (m t : Nat) : Nat :=
  let p := modePeriod g m
  if g.lock then gridAt g m (t + (p + 1) / 2) else t + p

/-- The mode in force from a frame start, and what is still armed (R397). -/
def modeAt (t : Nat) (m : Nat) (armed : Option (Nat × Int)) : Nat × Option (Nat × Int) :=
  match armed with
  | some (m', a) => if a ≤ (t : Int) then (m', none) else (m, armed)
  | none => (m, none)

/-- The start of the frame `n` frames after the one that starts at `t`, under the schedule and any armed switch. -/
def predict (g : Gen) : Nat → Nat → Nat → Option (Nat × Int) → Nat
  | 0, t, _, _ => t
  | n + 1, t, m, armed => let (m', a') := modeAt t m armed; predict g n (startAfter g m' t) m' a'

/-- The start of frame k + DL, k being the latest frame that has started by `now` (R391). Before frame 0 of a generator that
runs, R391 leaves k open: the model takes k = -1 (DESIGN CHOICE, log entry 22). -/
def frameDeadline (g : Gen) (dl now : Nat) : Nat :=
  predict g (if g.next ≤ now then dl else dl - 1) g.next g.mode g.armed

/-- No group of a generator waits any more (R395, R404, R410). -/
def endWaiting (k : Nat) (s : State) : State :=
  (s.str.groups.filter fun e => e.2.gen == k).foldl (fun s e => s.fset (Fld.GRP_STATE_WAITING e.1) 0)
    { s with str := { s.str with groups := s.str.groups.map fun e =>
      if e.2.gen = k then (e.1, { e.2 with waiting := none }) else e } }

/-- The action of START: a defined generator that is not running starts in its default mode at the next microsecond; frame
0 is placed by LOCK (R395, R410; DEDUCED, log entry 22). -/
def actOtgStart (k : Nat) (s : State) : State :=
  let g := s.gen k
  if !g.defined || g.startAt.isSome || !(s.on (125 + k)) then s
  else
    let t := (s.epoch / 1000 + 1) * 1000
    let s := endWaiting k s
    let s := { s with str := { s.str with groups := s.str.groups.map fun e =>
      if e.2.gen = k then (e.1, { e.2 with nextSlot := 0 }) else e } }
    onGen k (fun g => { g with
      startAt := some t, begun := false, mode := g.defMode, frame := 0
      next := if g.lock then gridAt g g.defMode t else t, bufs := [], line := 0 }) s

/-- A generator stops: its mode is the default one again, and a group's wait ends (R395; DEDUCED, log entry 22). -/
def actOtgStop (k : Nat) (s : State) : State :=
  let s := endWaiting k s
  onGen k (fun g => { g with startAt := none, begun := false, mode := g.defMode, bufs := [], line := 0 }) s

def execOtgStart (f : HostFn) (g : Fin 4) (s : State) : Host.Outcome State Fault Refusal :=
  ok (hostWrite f (Reg.OTG_CTRL g.val) (actOtgStart g.val)) s

def execOtgStop (f : HostFn) (g : Fin 4) (s : State) : Host.Outcome State Fault Refusal :=
  ok (hostWrite f (Reg.OTG_CTRL g.val) (actOtgStop g.val)) s

/-- A mode clamped to the modes the Recipe defines: the default one otherwise (R397). -/
def clampMode (g : Gen) (m : Nat) : Nat := if (g.modes.lookup m).isSome then m else g.defMode

/-- A write of OTG_MODE. -/
def actOtgMode (k m : Nat) (s : State) : State := s.fset (Fld.OTG_MODE_MODE k) (clampMode (s.gen k) (m % 4))

/-- A write of OTG_AT arms the switch to the mode in OTG_MODE (R397, R410). -/
def actOtgAt (k : Nat) (v : Word) (s : State) : State :=
  let s := s.setReg (Reg.OTG_AT k) v
  if !(s.gen k).defined then s
  else onGen k (fun g => { g with armed := some (clampMode g (s.fget (Fld.OTG_MODE_MODE k)), resolveUs s v.toNat) }) s

def execOtgAtWrite (f : HostFn) (g : Fin 4) (at_ : Word) (s : State) : Host.Outcome State Fault Refusal :=
  ok (hostWrite f (Reg.OTG_AT g.val) (actOtgAt g.val at_)) s

/-! ## Channel control and triggers (R385–R387, R389) -/

/-- Whether a channel's domain is ON (R384). -/
def chanOn (s : State) (k : Nat) : Bool := s.on (129 + k / 4)

/-- ENABLE: a STOPPED channel runs, its instance fresh (R153, R385). -/
def actStrEnable (k : Nat) (s : State) : State :=
  onChan k (fun c => if c.st = 1 then { c with st := 2, busy := false, queue := [], came := [], inst := some c.table.begin } else c) s

/-- STOP: the instance halts and queued triggers go; a quiesced channel will resume STOPPED (R385; DEDUCED, log entry 22). -/
def actStrStop (k : Nat) (s : State) : State :=
  onChan k (fun c =>
    if c.st = 2 then { c with st := 1, busy := false, queue := [], came := [], inst := none }
    else if c.st = 3 then { c with before := 1 } else c) s

def execStreamEnable (f : HostFn) (k : Fin 16) (s : State) : Host.Outcome State Fault Refusal :=
  ok (hostWrite f (Reg.STR_CTRL k.val) (actStrEnable k.val)) s

def execStreamStop (f : HostFn) (k : Fin 16) (s : State) : Host.Outcome State Fault Refusal :=
  ok (hostWrite f (Reg.STR_CTRL k.val) (actStrStop k.val)) s

/-- A write of STR_TRIG: a trigger where TRIG_SRC is 2 (R386). -/
def actStrTrig (k : Nat) (arg : Word) (s : State) : State :=
  match s.chan? k with
  | some c => if c.cfg.trigSrc = 2 then arriveTrigger k arg s else s
  | none => s

def execHostTrigger (f : HostFn) (k : Fin 16) (arg : Word) (s : State) : Host.Outcome State Fault Refusal :=
  ok (hostWrite f (Reg.STR_TRIG k.val) (actStrTrig k.val arg)) s

/-- A write of STR_SIGNAL: input 7 and the SIGNAL event (R389). -/
def actStrSignal (k : Nat) (v : Word) (s : State) : State := raiseStr k 5 (onChan k (fun c => { c with signal := v }) s)

def execStreamSignal (f : HostFn) (k : Fin 16) (val : Word) (s : State) : Host.Outcome State Fault Refusal :=
  ok (hostWrite f (Reg.STR_SIGNAL k.val) (actStrSignal k.val val)) s

/-! ## The table's inputs and outputs (R389, R390) -/

/-- Jobs of a channel issued and not yet recorded. -/
def chanJobs (s : State) (k : Nat) : List Job := s.ctx.jobs.filter fun j => j.stream == some k

/-- The inputs of a channel's table. -/
def strInput (s : State) (k : Nat) (c : SChan) (i : Nat) : Word :=
  match i with
  | 0 => c.trig.arg
  | 1 => BitVec.ofNat 32 (c.trig.t / 1000)
  | 2 => BitVec.ofNat 32 c.rxCount
  | 3 => BitVec.ofNat 32 (s.gen c.cfg.gen).frame
  | 4 => BitVec.ofNat 32 (chanJobs s k).length
  | 5 => BitVec.ofNat 32 c.outcome
  | 6 => BitVec.ofNat 32 c.detail
  | 7 => c.signal
  | 8 => s.reg (Reg.MBX_DATA c.cfg.watchMbx 0)
  | 9 => BitVec.ofNat 32 c.queue.length
  | 10 => BitVec.ofNat 32 c.issued
  | _ => 0

/-- Bytes 4–63 of the ticket of a job (R392). -/
def ticketBody (c : SChan) (locals : List Word) (deadline : Nat) (arg : Word) : List Byte :=
  leBytes 4 c.issued ++ leBytes 8 deadline ++ leBytes 8 c.trig.t ++ leBytes 4 c.trig.arg.toNat ++ leBytes 4 arg.toNat ++
    locals.flatMap fun w => leBytes 4 w.toNat

/-- The views of a channel's job, with their targets (R393). -/
def jobViews (c : SChan) (locals : List Word) : List (Nat × Nat × Nat) :=
  c.cfg.views.filterMap fun v =>
    if v.en then
      let l := (locals.getD (4 + v.sel) 0).toNat
      some (v.vbase, v.vsize, v.sbase + l % (max 1 v.scount) * v.sstride)
    else none

/-- ISSUE: one Frame job, with the locals of the instance (R391–R393). -/
def issueJob (k : Nat) (locals : List Word) (arg : Word) (s : State) : State :=
  match s.chan? k with
  | none => s
  | some c =>
    let g := s.gen c.cfg.gen
    if !(genRuns s g) then s.fadd (Fld.STR_NOGEN_COUNT k) 1
    else
      let d := frameDeadline g c.cfg.dl s.epoch
      let j : Job := { Job.blank c.cfg.context 0 with
        stream := some k
        cls := 0
        profile := c.cfg.profile
        rebase := c.rebase
        deadline := some (d : Int)
        userTag := c.issued % 2 ^ 32 + 2 ^ 32 * arg.toNat
        resultAddr := c.cfg.resultAddr
        mbx := c.cfg.mbx
        mbxEn := c.cfg.mbxEn
        views := jobViews c locals
        bakery := s.ctxBakery c.cfg.context
        ticketAt := if c.cfg.ticketRing = 0 then none else some c.cfg.ticketBase
        ticket := ticketBody c locals d arg
        arrived := s.mono
        issued := c.issued }
      let x : SJob :=
        { id := s.ctx.nextId, issued := c.issued, deadline := (d : Int), pass := 0, finished := false, failed := false
          judged := false, abandoned := false, done := 0 }
      let s := onChan k (fun c => { c with jobs := c.jobs ++ [x], issued := (c.issued + 1) % 2 ^ 32, rebase := 0 }) s
      submitJob j (s.fadd (Fld.STR_ISSUED_COUNT k) 1)

/-- What an EMIT of a channel's table does (R390). -/
def strEmit (k : Nat) (locals : List Word) (dst : Nat) (arg : Word) (s : State) : State :=
  match dst with
  | 0 => issueJob k locals arg s
  | 1 => readyChan k s
  | 2 => onChan k (fun c => { c with rebase := c.rebase ||| (arg.toNat % 256) }) s
  | _ => strEvent k (s.setReg (Reg.STR_EVT_CODE k) arg)

/-! ## Tickets (R392) -/

/-- TICKET_ACK: the ticket of the channel's oldest admitted job is written and acknowledged, and the job may start its
passes; a denied write counts as the job's access. -/
def ticketAck (k : Nat) (err : List MemErr) (e : ExtReply) (s : State) : State :=
  match s.ctx.jobs.find? fun j => j.stream == some k && j.phase == .ticket, s.chan? k with
  | some j, some c =>
    let a := j.ticketAt.getD 0 + j.pass % (max 1 c.cfg.ticketRing) * 4096
    let (r, s) := writeBytes (Who.stream s k) a (leBytes 4 j.pass ++ j.ticket) false err e s
    let s := onJob j.id (fun j => { j with phase := .running }) (noteAccess j.id r s)
    if j.ovens.isEmpty then completeJob j.id s else s
  | _, _ => s

def execTicketAck (k : Fin 16) (err : List MemErr) (e : ExtReply) (s : State) : Host.Outcome State Fault Refusal :=
  ok (ticketAck k.val err e) s

/-! ## Judging and presenting at a frame start (R399–R401) -/

/-- Whether a job is presentable at a frame start: one that finished in the Crust cycle of the start is (R399). -/
def presentable (t : Nat) (x : SJob) : Bool := x.finished && !x.failed && !x.abandoned && decide (x.done ≤ t)

/-- A miss of a channel at a frame start (R401). -/
def missChan (k : Nat) (c : SChan) (x : SJob) (t : Nat) (s : State) : State :=
  let s := (s.fadd (Fld.STR_MISSES_COUNT k) 1).setPair (Reg.STR_LAST_MISS_LO k) (Reg.STR_LAST_MISS_HI k) t
  let s := strEvent k (raiseStr k 4 s)
  let abandon := c.cfg.miss.testBit 1
  let s := if c.cfg.miss.testBit 0 then onChan k (fun c => { c with fill := true }) s else s
  let s := if abandon then onSJob k x.id (fun x => { x with abandoned := true }) s else s
  onJobs (fun j =>
    if j.id = x.id then
      (if abandon then { j with abandoned := true } else { j with missed := true })
    else j) s

/-- Every job of a channel whose deadline has come is judged (R400). -/
def judgeChan (k t : Nat) (s : State) : State :=
  match s.chan? k with
  | none => s
  | some c =>
    let due := c.jobs.filter fun x => !x.judged && decide (x.deadline ≤ (t : Int))
    let s := due.foldl (fun s x => if presentable t x then s else missChan k c x t s) s
    onChan k (fun c => { c with jobs := c.jobs.map fun x => if x.deadline ≤ (t : Int) then { x with judged := true } else x }) s

/-- The job a channel presents at a frame start: the presentable one with the latest deadline, later than the last's. -/
def bestShown (t : Nat) (last : Option Shown) : List SJob → Option SJob
  | [] => none
  | x :: xs =>
    let rest := bestShown t last xs
    let fits := presentable t x && decide (x.deadline ≤ (t : Int)) &&
      (match last with | some l => decide (l.deadline < x.deadline) | none => true)
    match rest with
    | some y => if fits && decide (y.deadline < x.deadline) then some x else some y
    | none => if fits then some x else none

/-- Whether a job may still be shown, or is still to be judged. -/
def keepJob (last : Option Shown) (x : SJob) : Bool :=
  !x.judged || (!x.failed && !x.abandoned && (match last with | some l => decide (l.deadline < x.deadline) | none => true))

/-- A channel presents a frame, or keeps the last (R399). -/
def presentChan (k t : Nat) (s : State) : State :=
  match s.chan? k with
  | none => s
  | some c =>
    match bestShown t c.shown c.jobs with
    | none => onChan k (fun c => { c with jobs := c.jobs.filter (keepJob c.shown) }) s
    | some x =>
      let sh : Shown := ⟨x.deadline, x.pass, x.issued⟩
      let s := s.setReg (Reg.STR_PRESENTED k) (BitVec.ofNat 32 x.issued)
      onChan k (fun c => { c with shown := some sh, fill := false, jobs := c.jobs.filter (keepJob (some sh)) }) s

/-! ## Groups (R402–R404) -/

/-- The members of a group: the channels whose STREAM section names it, whatever their state (R402). -/
def groupMembers (s : State) (q : Nat) : List (Nat × SChan) := s.str.chans.filter fun e => e.2.cfg.group == some q

/-- A member at a slot that is handled: TICK when it is fed, UNDERRUN when it is starved (R404). -/
def tickMember (t : Nat) (e : Nat × SChan) (s : State) : State :=
  let (k, c) := e
  if c.fed then raiseStr k 2 (onChan k (fun c => { c with fed := false }) s)
  else
    let s := (s.fadd (Fld.STR_UNDERRUNS_COUNT k) 1).setPair (Reg.STR_LAST_UNDER_LO k) (Reg.STR_LAST_UNDER_HI k) t
    let s := strEvent k (raiseStr k 7 s)
    if c.cfg.underrun = 1 then onChan k (fun c => { c with fill := true }) s else s

/-- A group at a frame start of its generator (R402, R404). -/
def groupSlot (q : Nat) (r : SGroup) (frame t : Nat) (s : State) : State :=
  if r.waiting.isNone && decide (frame < r.nextSlot) then s
  else
    let ms := groupMembers s q
    let held := ms.any fun e => e.2.cfg.underrun == 2 && !e.2.fed
    let since := r.waiting.getD t
    let put (r : SGroup) (s : State) : State := { s with str := { s.str with groups := spPut q r s.str.groups } }
    if held && decide (t < since + 1000 * r.stallMaxUs) then put { r with waiting := some since } (s.fset (Fld.GRP_STATE_WAITING q) 1)
    else
      let s := ms.foldl (fun s e => tickMember t e s) s
      let s := (s.fadd (Fld.GRP_SLOTS_COUNT q) 1).fset (Fld.GRP_STATE_WAITING q) 0
      let s := if r.waiting.isSome then s.fadd (Fld.GRP_STALLS_COUNT q) 1 else s
      put { r with waiting := none, nextSlot := frame + r.div } s

/-! ## The frame start (R395, R397, R398) -/

/-- The buffer a layer reads during the frame (R394, R395, R398, R401, R404). -/
def layerBuf (s : State) (l : GLayer) : LayerBuf :=
  match s.chan? l.chan with
  | none => .clear
  | some c =>
    match c.shown with
    | none => .clear
    | some sh =>
      if c.fill then .fill c.cfg.fill
      else .buffer (c.cfg.bufBase + sh.pass % (max 1 c.cfg.bufCount) * c.cfg.bufStride) c.cfg.bufPitch

/-- The channels of a generator. -/
def genChans (s : State) (g : Nat) : List Nat := (s.str.chans.filter fun e => e.2.cfg.gen == g).map (·.1)

/-- Whether the next frame of a generator is due: the Crust cycle of its start is over, so what finished in that cycle has
finished (R399; DESIGN CHOICE, log entry 22). -/
def frameDue (s : State) (k : Nat) : Bool := genRuns s (s.gen k) && decide ((s.gen k).next < s.epoch) && s.on (125 + k)

/-- FRAME_START: the mode switch, the frame's number and start, judging, presenting, OFS, slots, and the layers' buffers. -/
def frameStart (k : Nat) (s : State) : State :=
  let g := s.gen k
  if !(frameDue s k) then s
  else
    let t := g.next
    let n := if g.begun then g.frame + 1 else 0
    let (m, armed) := modeAt t g.mode g.armed
    let s := onGen k (fun g => { g with
      begun := true, mode := m, armed := armed, frame := n, start := t, next := startAfter g m t, line := 0 }) s
    let s := (s.setReg (Reg.OTG_FRAME k) (BitVec.ofNat 32 n)).setPair (Reg.OTG_START_LO k) (Reg.OTG_START_HI k) t
    let cs := genChans s k
    let s := cs.foldl (fun s c => presentChan c t (judgeChan c t s)) s
    let s := cs.foldl (fun s c => raiseStr c 1 s) s
    let s := (s.str.groups.filter fun e => e.2.gen == k).foldl (fun s e => groupSlot e.1 e.2 n t s) s
    onGen k (fun g => { g with bufs := g.layers.map fun l => (l, layerBuf s l) }) s

/-! ## Readings (R409, R410) -/

/-- STR_STATUS. -/
def strStatus (s : State) (k : Nat) : Word :=
  match s.chan? k with
  | none => 0
  | some c => BitVec.ofNat 32 (c.st + (if c.busy then 4 else 0) + 16 * c.queue.length +
      256 * (match c.inst with | some i => i.state | none => 0))

/-- OTG_STATUS and OTG_PERIOD. -/
def otgStatus (s : State) (k : Nat) : Word :=
  let g := s.gen k
  BitVec.ofNat 32 ((if genRuns s g then 1 else 0) + 16 * g.mode)
def otgPeriod (s : State) (k : Nat) : Word :=
  let g := s.gen k
  if g.defined then BitVec.ofNat 32 (modePeriod g g.mode) else 0

end Sys2Proof.Machine
end

