-- ==== Sys2Proof/Machine/VideoIn.lean ====
section
/-! DEFINITION. MIPI receive ports (R414–R419, R438). -/
namespace Sys2Proof.Machine

/-- VIN_EVT_SEQ advances, on vector 24 (R438). -/
def vinEvent (s : State) : State := advanceSeq Fld.VIN_EVT_SEQ_SEQ 24 s

/-- The channel of a virtual channel of a port (R416). -/
def vcChan (s : State) (p v : Nat) : Option (Nat × SChan) :=
  s.str.chans.find? fun e => e.2.cfg.trigSrc == 1 && e.2.cfg.trigPort == p && e.2.cfg.trigVc == v

/-- Whether a port receives: its domain is ON and it has an RXPORT entry. -/
def rxOn (s : State) (p : Nat) : Bool := s.on (117 + p) && (s.vid.rx.lookup p).isSome

/-- A packet with a good header: the correction counts, and a virtual channel without a channel discards it (R416). -/
def rxPacket (p v : Nat) (corrected : Bool) (g : Nat → SChan → State → State) (s : State) : State :=
  if !(rxOn s p) then s
  else
    let s := if corrected then s.fadd (Fld.VIN_HDR_CORR_COUNT p) 1 else s
    match vcChan s p v with
    | none => s.fadd (Fld.VIN_NOCHAN_COUNT p) 1
    | some (k, c) => g k c s

/-- Whether a frame is flagged. -/
def RxFrame.flagged (x : RxFrame) : Bool := x.crc || x.trunc || x.overflow

/-- The open frame of a virtual channel replaced. -/
def setOpen (p v : Nat) (x : RxFrame) (s : State) : State :=
  { s with vid := { s.vid with opened := spPut (p * 16 + v) x s.vid.opened } }

/-- An open frame closes as short: it counts in SHORT (R416, R418, R438; DEDUCED, log entry 21). -/
def closeShort (p v : Nat) (s : State) : State :=
  match s.vid.opened.lookup (p * 16 + v) with
  | none => s
  | some x =>
    let s := { s with vid := { s.vid with opened := spDel (p * 16 + v) s.vid.opened } }
    let s := s.fadd (Fld.VIN_VC_SHORT_COUNT p v) 1
    if x.flagged then vinEvent s else s

/-- The source slot of view 0 for the next received frame (R386, R417). -/
def rxSlot (c : SChan) : Nat :=
  match c.cfg.views[0]? with
  | some w => w.sbase + c.rxCount % (max 1 w.scount) * w.sstride
  | none => 0

/-- FRAME_START_PACKET. -/
def frameStartPacket (p v number : Nat) (k : Nat) (c : SChan) (s : State) : State :=
  let s := closeShort p v (s.fadd (Fld.VIN_VC_FS_COUNT p v) 1)
  let s := setOpen p v ⟨c.rxCount, rxSlot c, number, 0, false, false, false⟩ s
  let s := (onChan k (fun c => { c with rxCount := c.rxCount + 1 }) s)
  if chanOn s k then arriveTrigger k (BitVec.ofNat 32 number) s else s

def execFrameStartPacket (p : Fin 2) (vc : Fin 16) (number : BitVec 16) (corrected : Bool) (s : State) :
    Host.Outcome State Fault Refusal :=
  ok (rxPacket p.val vc.val corrected (frameStartPacket p.val vc.val number.toNat)) s

/-- The 10-bit samples of groups of five bytes (RAW10 and YUV422 10-bit; PRESUMED, log entry 23). -/
def unpack10 : List Byte → List Nat
  | a :: b :: c :: d :: e :: r =>
    (a.toNat * 4 + e.toNat % 4) :: (b.toNat * 4 + e.toNat / 4 % 4) :: (c.toNat * 4 + e.toNat / 16 % 4) ::
      (d.toNat * 4 + e.toNat / 64) :: unpack10 r
  | _ => []

/-- The 12-bit samples of groups of three bytes (RAW12; PRESUMED, log entry 23). -/
def unpack12 : List Byte → List Nat
  | a :: b :: c :: r => (a.toNat * 16 + c.toNat % 16) :: (b.toNat * 16 + c.toNat / 16) :: unpack12 r
  | _ => []

/-- A line's bytes in memory (R417). -/
def packLine (x : RxVc) (d : List Byte) : List Byte :=
  if x.pack then (if x.dt = 0x2C then unpack12 d else unpack10 d).flatMap fun v => leBytes 2 v else d

/-! ## The buffer of a port and its writes (R205, R418) -/

/-- The operations that some master still waits for. -/
def pendingOps (s : State) : List ReqOp :=
  s.fab.reqs.map (·.op) ++ s.mem.held.map (·.op) ++ s.mem.remote.map (·.op)

/-- The payload bytes that `n` bytes of a line stand for: PACK 1 has widened them (R417). -/
def payloadOf (s : State) (vc n : Nat) : Nat :=
  match s.vid.rxvc.lookup vc with
  | some w => if w.pack then (if w.dt = 0x2C then (3 * n + 3) / 4 else (5 * n + 7) / 8) else n
  | none => n

/-- Received payload that a port's buffer holds: what it has not yet written (R418). -/
def buffered (s : State) (p : Nat) : Nat :=
  ((pendingOps s).map fun op => match op with
    | .rx vc _ _ _ d => if vc / 16 = p then payloadOf s vc d.length else 0
    | _ => 0).sum

/-- A line's writes, in class Frame in the group of the channel's Bakery: each waits at its target, or is performed or
refused at once; `fuel` bounds them (R204, R205, R377, R418). -/
def writeLine (vc frame k : Nat) : Nat → Nat → List Byte → State → State
  | 0, _, _, s => s
  | fuel + 1, addr, d, s =>
    if d.isEmpty then s
    else
      let a := addr % 2 ^ 40
      let n := pieceLen a d.length
      let w := Who.stream s k
      let op : ReqOp := .rx vc frame k a (d.take n)
      let s := match routeOf s w true a n with
        | .target t => addReq t w.cls w.group w.deadline n op s
        | .remote h ra =>
          issueRemote h (blockMsg s (writeOp ra n) (classIn w.group w.cls) w.m ra w.deadline (d.take n) false) w.group
            w.deadline op s
        | _ => (writePiece w a (d.take n) false [] ⟨[], .ok⟩ s).2
      writeLine vc frame k fuel (addr + n) (d.drop n) s

/-- LONG_PACKET: a line of the open frame, of the virtual channel's data type; what the 64 KiB buffer cannot take is dropped
(R416–R418). -/
def longPacket (p v dt : Nat) (data : List Byte) (crcOk : Bool) (k : Nat) (s : State) : State :=
  match s.vid.opened.lookup (p * 16 + v), s.vid.rxvc.lookup (p * 16 + v) with
  | some x, some w =>
    if dt ≠ w.dt then s.fadd (Fld.VIN_DT_OTHER_COUNT p) 1
    else
      let room := 65536 - buffered s p
      let beyond := decide (room < data.length)
      let s := if beyond then s.fadd (Fld.VIN_OVERFLOW_COUNT p) 1 else s
      let s := if crcOk then s else s.fadd (Fld.VIN_CRC_ERR_COUNT p) 1
      let bytes := packLine w (data.take room)
      let drop := decide (w.maxLines ≤ x.line)
      let trunc := drop || decide (w.pitch < bytes.length)
      let s := if trunc then s.fadd (Fld.VIN_VC_TRUNC_COUNT p v) 1 else s
      let s := setOpen p v { x with
        line := x.line + 1, crc := x.crc || !crcOk, trunc := x.trunc || trunc, overflow := x.overflow || beyond } s
      if drop then s
      else
        let bytes := bytes.take w.pitch
        writeLine (p * 16 + v) x.id k (bytes.length + 1) (x.slot + x.line * w.pitch) bytes s
  | _, _ => s.fadd (Fld.VIN_DT_OTHER_COUNT p) 1

def execLongPacket (p : Fin 2) (vc : Fin 16) (dt : BitVec 6) (data : List Byte) (crcOk corrected : Bool) (s : State) :
    Host.Outcome State Fault Refusal :=
  ok (rxPacket p.val vc.val corrected fun k _ => longPacket p.val vc.val dt.toNat data crcOk k) s

/-- FRAME_END_PACKET: the open frame is complete, and waits for its writes (R416, R418). -/
def frameEndPacket (p v : Nat) (s : State) : State :=
  match s.vid.opened.lookup (p * 16 + v) with
  | none => s
  | some x => { s with vid := { s.vid with
      opened := spDel (p * 16 + v) s.vid.opened, closed := s.vid.closed ++ [(p * 16 + v, x)] } }

def execFrameEndPacket (p : Fin 2) (vc : Fin 16) (corrected : Bool) (s : State) : Host.Outcome State Fault Refusal :=
  ok (rxPacket p.val vc.val corrected fun _ _ => frameEndPacket p.val vc.val) s

/-- OTHER_PACKET: discarded and counted (R416). -/
def otherPacket (p v : Nat) (x : RxOther) (s : State) : State :=
  if !(rxOn s p) then s
  else match x with
    | .badHeader => s.fadd (Fld.VIN_HDR_ERR_COUNT p) 1
    | .badSync => s.fadd (Fld.VIN_SOT_ERR_COUNT p) 1
    | .unused c => rxPacket p v c (fun _ _ s => s.fadd (Fld.VIN_DT_OTHER_COUNT p) 1) s

def execOtherPacket (p : Fin 2) (vc : Fin 16) (x : RxOther) (s : State) : Host.Outcome State Fault Refusal :=
  ok (otherPacket p.val vc.val x) s

/-- Whether a write of a frame is still to be acknowledged (R288, R418). -/
def frameWrites (s : State) (vc id : Nat) : Bool :=
  (pendingOps s).any fun op => match op with | .rx v f _ _ _ => v == vc && f == id | _ => false

/-- MIPI_FRAME_DONE: the oldest closed frame of a virtual channel has all its writes acknowledged (R418, R438). -/
def frameDone (p v : Nat) (s : State) : State :=
  let k := p * 16 + v
  match s.vid.closed.find? fun e => e.1 == k with
  | none => s
  | some (_, x) =>
    if frameWrites s k x.id then s else
    let s := { s with vid := { s.vid with closed := s.vid.closed.erase (k, x) } }
    let bit (b : Bool) : Nat := if b then 1 else 0
    let s := (s.fadd (Fld.VIN_VC_DONE_COUNT p v) 1).fset (Fld.VIN_VC_LAST_FRAMENO p v) x.number
    let s := ((s.fset (Fld.VIN_VC_LAST_CRC p v) (bit x.crc)).fset (Fld.VIN_VC_LAST_TRUNC p v) (bit x.trunc)).fset
      (Fld.VIN_VC_LAST_OVERFLOW p v) (bit x.overflow)
    let s := s.setPair (Reg.VIN_VC_LAST_T_LO p v) (Reg.VIN_VC_LAST_T_HI p v) s.epoch
    if x.flagged then vinEvent s else s

def execMipiFrameDone (p : Fin 2) (vc : Fin 16) (s : State) : Host.Outcome State Fault Refusal :=
  ok (fun s => if s.on (117 + p.val) then frameDone p.val vc.val s else s) s

/-- MIPI_PORT_STATE_CHANGE: the PHY of a port enters STOP, HS or ULPS (R438). -/
def rxState (p st : Nat) (s : State) : State :=
  if !(rxOn s p) || decide (st = 0) || decide (s.fget (Fld.VIN_PORT_STATUS_STATE p) = st) then s
  else vinEvent (s.fset (Fld.VIN_PORT_STATUS_STATE p) st)

def execMipiPortStateChange (p : Fin 2) (st : Fin 4) (s : State) : Host.Outcome State Fault Refusal :=
  ok (rxState p.val st.val) s

end Sys2Proof.Machine
end

