-- ==== Sys2Proof/Machine/VideoOut.lean ====
section
/-! DEFINITION. Transmit ports: eDP, DSI-2, LVDS, scan-out (R411–R413, R420–R434, R439). -/
namespace Sys2Proof.Machine

/-- VOUT_EVT_SEQ advances, on vector 25 (R439). -/
def voutEvent (s : State) : State := advanceSeq Fld.VOUT_EVT_SEQ_SEQ 25 s

/-- The domain of the transmit port of generator `g` (R155, R411). -/
def txDomain (g : Nat) : Nat := 119 + g

/-- LINK of a port (R439). -/
def txLink (s : State) (g : Nat) : Nat := s.fget (Fld.VOUT_PORT_STATUS_LINK g)

/-- The state with LINK of a port set. -/
def setTxLink (g v : Nat) (s : State) : State := s.fset (Fld.VOUT_PORT_STATUS_LINK g) v

/-- The configuration of a port: that of an eDP or of the DSI entry. -/
def txCfg (s : State) (g : Nat) : Option TxCfg := if g < 2 then s.vid.edp.lookup g else if g = 2 then s.vid.dsi else none

/-- The domain of the encoder that a port uses, when DSC is enabled (R411, R427). -/
def dscDomain (s : State) (g : Nat) : Option Nat :=
  match txCfg s g with | some c => if c.dsc then some (if g = 1 then 124 else 123) else none | none => none

/-- Whether a transmitter is powered, with its encoder, and not idle under THERMTRIP_N (R155, R172, R411). -/
def txOn (s : State) (g : Nat) : Bool :=
  s.on (txDomain g) && (match dscDomain s g with | some d => s.on d | none => true) && !s.pwr.tripped

/-- Whether a port has its entry and a TIMING entry (R428, R435). -/
def txDefined (s : State) (g : Nat) : Bool :=
  (if g < 3 then (txCfg s g).isSome else s.vid.lvds.isSome) && s.vid.timing.any fun e => e.1 / 4 == g

/-- LINK of a port that nothing holds down (R428). -/
def heldOr (s : State) (g v : Nat) : Nat := if s.vid.hold.contains g then 5 else v

/-- A port begins: its domains have turned ON, or the Recipe that configures it has been applied. eDP waits for HPD, DSI-2
sends its DSI_INIT entries, LVDS is active; a HOLD lasts until RELEASE (R428, R431, R439). -/
def portBegin (g : Nat) (s : State) : State :=
  if !(txOn s g) || !(txDefined s g) then setTxLink g 0 s
  else if g < 2 then setTxLink g (heldOr s g 1) s
  else if g = 2 then
    let s := { s with vid := { s.vid with initLeft := s.vid.dsiInit, initAt := s.usCount } }
    setTxLink g (heldOr s g (if s.vid.dsiInit.isEmpty then 3 else 2)) s
  else setTxLink g (heldOr s g 3) s

/-- A host AUX transaction goes out, unless its port trains or has no power (R413, R429). -/
def auxSend (s : State) : State :=
  match s.vid.aux with
  | none => s
  | some x =>
    if x.sent || x.deferAt.isSome || txLink s x.port == 2 then s
    else
      let s := { s with vid := { s.vid with aux := some { x with sent := true } } }
      if txOn s x.port then s.out (.aux x.port x.op x.addr x.data x.len) else s

/-- A port's link goes down with its domain, or its encoder's; a host transaction that waited for its training goes on
(R413, R429). -/
def portOff (g : Nat) (s : State) : State := auxSend (setTxLink g 0 s)

/-- The ports that use an encoder (R411). -/
def dscPorts (s : State) (d : Nat) : List Nat := (List.range 3).filter fun g => dscDomain s g == some d

/-- The picture parameter set goes to the sink of a port that uses DSC (R427). -/
def sendPps (g : Nat) (s : State) : State :=
  match txCfg s g with
  | none => s
  | some c =>
    if !c.dsc then s
    else
      let k := s.gen g
      let h := match k.modes.lookup k.mode with | some m => m.hactive | none => 0
      s.out (.pps g c.bpc c.bpp16 c.slices (h / max 1 c.slices) c.sliceH)

/-! ## eDP link (R428) -/

/-- HPD_CHANGE. -/
def hpdChange (p : Nat) (level : Bool) (s : State) : State :=
  let v := if level then 1 else 0
  if s.fget (Fld.VOUT_PORT_STATUS_HPD p) = v then s
  else voutEvent { s.fset (Fld.VOUT_PORT_STATUS_HPD p) v with vid := { s.vid with hpdAt := spPut p s.usCount s.vid.hpdAt } }

def execHpdChange (p : Fin 2) (level : Bool) (s : State) : Host.Outcome State Fault Refusal :=
  ok (fun s => if s.on 112 then hpdChange p.val level s else s) s

/-- Whether HPD has kept its level for 2 ms. -/
def hpdStable (s : State) (p : Nat) (level : Nat) : Bool :=
  s.fget (Fld.VOUT_PORT_STATUS_HPD p) == level && decide ((s.vid.hpdAt.lookup p).getD 0 + 2000 ≤ s.usCount)

/-- EDP_TRAINING_START. -/
def trainingStart (p : Nat) (s : State) : State :=
  if txOn s p && txLink s p == 1 && hpdStable s p 1 then setTxLink p 2 s else s

def execEdpTrainingStart (p : Fin 2) (s : State) : Host.Outcome State Fault Refusal := ok (trainingStart p.val) s

/-- EDP_LINK_LOSS: a port that is up, training or retrying waits for HPD again. -/
def edpLoss (p : Nat) (s : State) : State :=
  if hpdStable s p 0 && (txLink s p == 2 || txLink s p == 3 || txLink s p == 4) then
    auxSend (voutEvent ((setTxLink p 1 s).fadd (Fld.VOUT_LINK_LOSTS_COUNT p) 1))
  else s

def execEdpLinkLoss (p : Fin 2) (s : State) : Host.Outcome State Fault Refusal := ok (edpLoss p.val) s

/-- HPD_IRQ: the port reads DPCD 0x00202–0x00204, and retrains where lock or alignment has been lost. -/
def hpdIrq (p : Nat) (lockLost : Bool) (s : State) : State :=
  if txOn s p && txLink s p == 3 then
    let s := s.out (.aux p 0 0x202 [] 3)
    if lockLost then setTxLink p 2 s else s
  else s

def execHpdIrq (p : Fin 2) (lockLost : Bool) (s : State) : Host.Outcome State Fault Refusal :=
  ok (hpdIrq p.val lockLost) s

/-- TRAINING_DONE: the link is up, or the port will try again; a host transaction that waited goes out. -/
def trainingDone (p : Nat) (success : Bool) (s : State) : State :=
  if txOn s p && txLink s p == 2 then
    auxSend (voutEvent (
      if success then sendPps p ((setTxLink p 3 s).fadd (Fld.VOUT_TRAINS_COUNT p) 1)
      else { (setTxLink p 4 s).fadd (Fld.VOUT_TRAIN_FAILS_COUNT p) 1 with
        vid := { s.vid with failAt := spPut p s.usCount s.vid.failAt } }))
  else s

def execTrainingDone (p : Fin 2) (success : Bool) (s : State) : Host.Outcome State Fault Refusal :=
  ok (trainingDone p.val success) s

/-- TRAINING_RETRY: 100 ms after a failure. -/
def trainingRetry (p : Nat) (s : State) : State :=
  if txOn s p && txLink s p == 4 && decide ((s.vid.failAt.lookup p).getD 0 + 100000 ≤ s.usCount) then setTxLink p 2 s
  else s

def execTrainingRetry (p : Fin 2) (s : State) : Host.Outcome State Fault Refusal := ok (trainingRetry p.val) s

/-! ## VOUT_PORT_CMD (R428) -/

/-- RETRAIN: an eDP port that is not held trains at once. -/
def actRetrain (g : Nat) (s : State) : State :=
  if g < 2 && txOn s g && txLink s g ≠ 0 && txLink s g ≠ 5 then setTxLink g 2 s else s

/-- HOLD keeps the link down until RELEASE, whatever its domain does meanwhile. -/
def actHold (g : Nat) (s : State) : State :=
  let s := { s with vid := { s.vid with hold := g :: s.vid.hold.filter fun x => x != g } }
  if txOn s g && txLink s g ≠ 0 then auxSend (setTxLink g 5 s) else s

/-- RELEASE ends a HOLD. -/
def actRelease (g : Nat) (s : State) : State :=
  let s := { s with vid := { s.vid with hold := s.vid.hold.filter fun x => x != g } }
  if txLink s g ≠ 5 then s
  else if g < 2 then setTxLink g 1 s
  else setTxLink g (if g = 2 ∧ s.vid.initLeft ≠ [] then 2 else 3) s

def execPortRetrain (f : HostFn) (g : Fin 4) (s : State) : Host.Outcome State Fault Refusal :=
  ok (hostWrite f (Reg.VOUT_PORT_CMD g.val) (actRetrain g.val)) s

def execPortHold (f : HostFn) (g : Fin 4) (s : State) : Host.Outcome State Fault Refusal :=
  ok (hostWrite f (Reg.VOUT_PORT_CMD g.val) (actHold g.val)) s

def execPortRelease (f : HostFn) (g : Fin 4) (s : State) : Host.Outcome State Fault Refusal :=
  ok (hostWrite f (Reg.VOUT_PORT_CMD g.val) (actRelease g.val)) s

/-! ## AUX (R429) -/

/-- The bytes of VOUT_AUX_DATA. -/
def auxBytes (s : State) : List Byte := (List.range 4).flatMap fun k => leBytes 4 (s.reg (Reg.VOUT_AUX_DATA k)).toNat

/-- A write of VOUT_AUX_CMD: one transaction at a time. -/
def actAux (p op len seq : Nat) (s : State) : State :=
  if s.vid.aux.isSome then s.fsat Fld.VOUT_AUX_DROPS_COUNT
  else
    let write := op % 2 = 1
    let a := s.fget Fld.VOUT_AUX_ADDR_ADDR
    let x : AuxTx := ⟨p, op, if op < 2 then a else a % 128, if write then (auxBytes s).take (len + 1) else [], len + 1, seq, 0,
      false, none⟩
    auxSend { s with vid := { s.vid with aux := some x } }

def execAuxNativeRead (f : HostFn) (p : Fin 2) (len : Fin 16) (seq : BitVec 16) (s : State) :
    Host.Outcome State Fault Refusal := ok (hostWrite f Reg.VOUT_AUX_CMD (actAux p.val 0 len.val seq.toNat)) s

def execAuxNativeWrite (f : HostFn) (p : Fin 2) (len : Fin 16) (seq : BitVec 16) (s : State) :
    Host.Outcome State Fault Refusal := ok (hostWrite f Reg.VOUT_AUX_CMD (actAux p.val 1 len.val seq.toNat)) s

def execAuxI2cRead (f : HostFn) (p : Fin 2) (len : Fin 16) (seq : BitVec 16) (s : State) :
    Host.Outcome State Fault Refusal := ok (hostWrite f Reg.VOUT_AUX_CMD (actAux p.val 2 len.val seq.toNat)) s

def execAuxI2cWrite (f : HostFn) (p : Fin 2) (len : Fin 16) (seq : BitVec 16) (s : State) :
    Host.Outcome State Fault Refusal := ok (hostWrite f Reg.VOUT_AUX_CMD (actAux p.val 3 len.val seq.toNat)) s

/-- VOUT_AUX_RESULT: the transaction is over. -/
def auxEnd (x : AuxTx) (status len : Nat) (s : State) : State :=
  let s := { s with vid := { s.vid with aux := none } }
  ((s.fset Fld.VOUT_AUX_RESULT_STATUS status).fset Fld.VOUT_AUX_RESULT_LEN len).fset Fld.VOUT_AUX_RESULT_SEQ x.seq

/-- Bytes put into VOUT_AUX_DATA. -/
def putAux (d : List Byte) (s : State) : State :=
  let all := d ++ (auxBytes s).drop d.length
  (List.range 4).foldl (fun s k => s.setReg (Reg.VOUT_AUX_DATA k) (BitVec.ofNat 32 (leAt (4 * k) 4 all))) s

/-- AUX_COMPLETE: the sink's reply; a DEFER is tried again up to 7 times. -/
def auxComplete (r : AuxReply) (data : List Byte) (s : State) : State :=
  match s.vid.aux with
  | none => s
  | some x =>
    if !x.sent then s
    else match r with
      | .ack =>
        if x.op % 2 = 0 then let d := data.take x.len; auxEnd x 0 d.length (putAux d s) else auxEnd x 0 x.len s
      | .nack => auxEnd x 1 (if x.op % 2 = 1 then min x.len data.length else 0) s
      | .defer =>
        if x.defers < 7 then
          { s with vid := { s.vid with aux := some { x with
              defers := x.defers + 1, sent := false, deferAt := some s.usCount } } }
        else auxEnd x 2 0 s
      | .timeout => auxEnd x 3 0 s

def execAuxComplete (r : AuxReply) (data : List Byte) (s : State) : Host.Outcome State Fault Refusal :=
  ok (auxComplete r data) s

/-- AUX_DEFER_RETRY: 400 µs after the DEFER. -/
def auxRetry (s : State) : State :=
  match s.vid.aux with
  | some x =>
    (match x.deferAt with
     | some t => if t + 400 ≤ s.usCount then auxSend { s with vid := { s.vid with aux := some { x with deferAt := none } } } else s
     | none => s)
  | none => s

def execAuxDeferRetry (s : State) : Host.Outcome State Fault Refusal := ok auxRetry s

/-! ## DSI-2 (R431) -/

/-- A write of VOUT_DSI_PUSH: the packet joins the queue of 16, or is dropped. -/
def actDsiPush (s : State) : State :=
  if 16 ≤ s.vid.dsiQueue.length then s.fsat Fld.VOUT_DSI_STAT_DROPS
  else
    let d := ((List.range 6).flatMap fun q => leBytes 4 (s.reg (Reg.VOUT_DSI_DATA q)).toNat).take (s.fget Fld.VOUT_DSI_HDR_LEN)
    let dt := s.fget Fld.VOUT_DSI_HDR_DT
    let q := s.vid.dsiQueue ++ [(if dt = 0 then 5 else dt, d)]
    { s with vid := { s.vid with dsiQueue := q } }

def execDsiPush (f : HostFn) (s : State) : Host.Outcome State Fault Refusal :=
  ok (hostWrite f Reg.VOUT_DSI_PUSH actDsiPush) s

/-- DSI_INIT_ENTRY: the next entry is sent once its predecessor's DELAY_MS is over; after the last one the link is up. -/
def dsiInitEntry (s : State) : State :=
  match s.vid.initLeft with
  | [] => s
  | x :: xs =>
    if !(txOn s 2) || decide (s.usCount < s.vid.initAt) then s
    else
      let s := State.out (.dsi x.dt x.data true)
        { s with vid := { s.vid with initLeft := xs, initAt := s.usCount + 1000 * x.delayMs } }
      if xs.isEmpty && txLink s 2 == 2 then setTxLink 2 3 s else s

def execDsiInitEntry (s : State) : Host.Outcome State Fault Refusal := ok dsiInitEntry s

/-! ## Frames on the wire (R413, R421, R431) -/

/-- Whether a port sends: its domain is ON, its link is up, and DSI_INIT is over. -/
def txSends (s : State) (g : Nat) : Bool :=
  txOn s g && txLink s g == 3 && (g != 2 || (s.vid.initLeft.isEmpty && decide (s.vid.initAt ≤ s.usCount)))

/-- HTOTAL, and the lines that a time in ns takes, to nearest (R420). -/
def hTotal (m : GMode) (t : VTiming) : Nat := m.hactive + t.hsync + t.hbp + t.hfp
def linesOf (m : GMode) (t : VTiming) (ns : Nat) : Nat :=
  (divNearestEven ((ns * t.pclk : Nat) : Int) (1000000 * hTotal m t)).toNat

/-- VTOTAL of a mode (R420). -/
def vTotal (m : GMode) (t : VTiming) : Nat := linesOf m t m.period

/-- The lines of the present frame and its front porch: one whose length differs from PERIOD has its porch changed by whole
lines (R421). -/
def frameLines (k : Gen) (m : GMode) (t : VTiming) : Nat × Nat :=
  let n := linesOf m t (k.next - k.start)
  (n, n - m.vactive - t.vsync - t.vbp)

/-- What a frame start asks of its port: queued DSI packets, vertical sync, and the steering that VOUT_PORT_VSYNC and STEER
report; their values are free within R421's limits, one line or one pixel clock rounded up to ns (DESIGN CHOICE, log
entry 4). -/
def portFrame (g : Nat) (s : State) : State :=
  if !(txSends s g) then s
  else
    let s := if g = 2 then
        s.vid.dsiQueue.foldl (fun s x => s.out (.dsi x.1 x.2 false)) { s with vid := { s.vid with dsiQueue := [] } }
      else s
    let t := (s.vid.timing.lookup (g * 4 + (s.gen g).mode)).getD ⟨1, 1, 1, 1, 1, 1, 20000, 0⟩
    let m := ((s.gen g).modes.lookup (s.gen g).mode).getD ⟨6944444, 64, 64⟩
    let f := frameLines (s.gen g) m t
    let s := s.out (.vsync g (s.gen g).frame f.1 f.2)
    let n := (s.vid.steady.lookup g).getD 0
    let clocks := if n < 8 then hTotal m t else 1
    let lim : Int := ((1000000 * clocks + t.pclk - 1) / t.pclk : Nat)
    let (a, s) := s.free
    let (b, s) := s.free
    let s := s.setReg (Reg.VOUT_PORT_VSYNC g) (BitVec.ofNat 32 (unsignedOf 32 (clampInt (-lim) lim a.toInt)))
    let s := s.fset (Fld.VOUT_PORT_STATUS_STEER g) (unsignedOf 10 (clampInt (-300) 300 b.toInt))
    { s with vid := { s.vid with steady := spPut g (min 8 (n + 1)) s.vid.steady } }

/-- FRAME_START of a generator and of its port; a sink of DSC learns its parameters before the first frame (R427). -/
def frameAndPort (g : Nat) (s : State) : State :=
  if frameDue s g then
    let old := (s.gen g).mode
    let first := !(s.gen g).begun
    let s := frameStart g s
    let s := if first && txSends s g then sendPps g s else s
    let s := if first || (s.gen g).mode != old then { s with vid := { s.vid with steady := spDel g s.vid.steady } } else s
    portFrame g s
  else s

def execFrameStart (g : Fin 4) (s : State) : Host.Outcome State Fault Refusal := ok (frameAndPort g.val) s

/-! ## Scan-out and blending (R394, R398, R423, R424) -/

/-- One component of a layer's pixel over what lies beneath, with alpha in thirds. -/
def blendComp (a l b : Nat) : Nat := (divNearestEven ((a * l + (3 - a) * b : Nat) : Int) 3).toNat

/-- A layer's pixel over what lies beneath. -/
def blend (p under : Nat) : Nat :=
  let a := p / 2 ^ 30 % 4
  let c (k : Nat) : Nat := blendComp a (p / 2 ^ k % 1024) (under / 2 ^ k % 1024)
  c 0 + c 10 * 2 ^ 10 + c 20 * 2 ^ 20

/-- The components of a pixel as a port sends them: 8-bit where its BPC or mapping is (R424, R433). -/
def sentPixel (eight : Bool) (p : Nat) : Nat :=
  if eight then
    let c (k : Nat) : Nat := min 255 ((p / 2 ^ k % 1024 + 2) / 4)
    c 0 + c 10 * 2 ^ 10 + c 20 * 2 ^ 20
  else p % 2 ^ 30

/-- The pixels of a little-endian row. -/
def rowPixels : Nat → List Byte → List Nat
  | 0, _ => []
  | n + 1, d => leVal (d.take 4) :: rowPixels n (d.drop 4)

/-- A layer's pixels of one line: none where it does not cover the line. Late data is FILL from a pixel on; denied data is
zero, so transparent; poison counts (R423; DEDUCED, log entry 21). -/
def layerLine (g y : Nat) (x : GLayer × LayerBuf) (r : ScanRead) (s : State) : Option (List Nat) × State :=
  let (l, b) := x
  if y < l.y ∨ l.y + l.h ≤ y then (none, s)
  else match b with
    | .clear => (none, s)
    | .fill p => (some (List.replicate l.w p), s)
    | .buffer base pitch =>
      let (a, s) := readBytes (Who.stream s l.chan) ((base + (y - l.y) * pitch) % 2 ^ 40) (4 * l.w) r.err r.e s
      let s := if a.poison then s.fadd (Fld.VOUT_SCANOUT_POISON_COUNT g) 1 else s
      let ps := rowPixels l.w a.data
      match r.late with
      | some n =>
        let fill := match s.chan? l.chan with | some c => c.cfg.fill | none => 0
        (some (ps.take n ++ List.replicate (l.w - n) fill), s.fadd (Fld.VOUT_SCANOUT_LATE_COUNT g) 1)
      | none => (some ps, s)

/-- A layer's pixels put over a line from its X. -/
def overLine (x : Nat) (ps : List Nat) (line : List Nat) : List Nat :=
  line.take x ++ ((line.drop x).zip (ps ++ List.replicate line.length 0)).map (fun e => blend e.2 e.1)

/-- The layers of a line blended from the bottom. -/
def blendLayers (g y : Nat) : List (GLayer × LayerBuf) → List ScanRead → List Nat → State → List Nat × State
  | [], _, line, s => (line, s)
  | x :: xs, rs, line, s =>
    let r := rs.headD ⟨none, [], ⟨[], .ok⟩⟩
    let (ps, s) := layerLine g y x r s
    blendLayers g y xs (rs.drop 1) (match ps with | some ps => overLine x.1.x ps line | none => line) s

/-! ## LVDS (R432, R433) -/

/-- The clock pair of an LVDS link, slots 0–6 (R432). -/
def lvdsClock : List Bool := [true, true, false, false, false, true, true]

/-- Pairs 0–4 of an LVDS link for one pixel, slots 0–6: WM8 places the bits of its 8-bit components where WM10 places the
upper eight, and the lower two of WM10 have pair 4 (R433). -/
def lvdsPairs (wm10 hs vs de : Bool) (p : Nat) : List (List Bool) :=
  let k := if wm10 then 2 else 0
  let r (i : Nat) : Bool := p.testBit (20 + i)
  let g (i : Nat) : Bool := p.testBit (10 + i)
  let b (i : Nat) : Bool := p.testBit i
  [[r (k + 2), r (k + 3), r (k + 4), r (k + 5), r (k + 6), r (k + 7), g (k + 2)],
   [g (k + 3), g (k + 4), g (k + 5), g (k + 6), g (k + 7), b (k + 2), b (k + 3)],
   [b (k + 4), b (k + 5), b (k + 6), b (k + 7), hs, vs, de],
   [r k, r (k + 1), g k, g (k + 1), b k, b (k + 1), false],
   if wm10 then [r 0, r 1, g 0, g 1, b 0, b 1, false] else List.replicate 7 false]

/-- The pixels of a list at even places, or at odd ones. -/
def everyOther {α : Type} (odd : Bool) (l : List α) : List α :=
  ((List.range l.length).zip l).filterMap fun e => if (e.1 % 2 == 1) == odd then some e.2 else none

/-- An active line on the LVDS links: DE is high, and the syncs are at their inactive levels. A single link uses link 0; a
dual one has the even pixels on link 0 and the odd ones on link 1 (R432, R433). -/
def lvdsLine (v : LvdsCfg) (frame line : Nat) (ps : List Nat) (s : State) : State :=
  let clocks (ps : List Nat) : List (List (List Bool)) :=
    ps.map fun p => lvdsClock :: lvdsPairs v.wm10 (v.flags.testBit 0) (v.flags.testBit 1) true p
  if v.dual then
    (s.out (.lvds 0 frame line (clocks (everyOther false ps)))).out (.lvds 1 frame line (clocks (everyOther true ps)))
  else s.out (.lvds 0 frame line (clocks ps))

/-- Whether a port sends 8-bit components. -/
def sendsEight (s : State) (g : Nat) : Bool :=
  match txCfg s g with
  | some c => c.bpc == 8
  | none => match s.vid.lvds with | some v => !v.wm10 | none => false

/-- SCANOUT_LINE: the next line of the present frame; a port that is not up sends nothing (R413). -/
def scanLine (g : Nat) (reads : List ScanRead) (s : State) : State :=
  let k := s.gen g
  match k.modes.lookup k.mode with
  | none => s
  | some m =>
    if !(genRuns s k) || !k.begun || decide (m.vactive ≤ k.line) || !(s.on (125 + g)) then s
    else
      let s := onGen g (fun k => { k with line := k.line + 1 }) s
      if !(txSends s g) then s
      else
        let (line, s) := blendLayers g k.line k.bufs reads (List.replicate m.hactive (k.bg % 2 ^ 30)) s
        let sent := line.map (sentPixel (sendsEight s g))
        let s := s.out (.line g k.frame k.line sent)
        match s.vid.lvds with
        | some v => if g = 3 then lvdsLine v k.frame k.line sent s else s
        | none => s

def execScanoutLine (g : Fin 4) (reads : List ScanRead) (s : State) : Host.Outcome State Fault Refusal :=
  ok (scanLine g.val reads) s

/-! ## Readings (R439) -/

/-- VOUT_PORT_STATUS. -/
def voutStatus (s : State) (g : Nat) : Word :=
  let w := s.reg (Reg.VOUT_PORT_STATUS g)
  let w := if 2 ≤ g then withBits 3 3 1 w else w
  let w := withBits 4 4 (if s.on (txDomain g) then 1 else 0) w
  withBits 5 5 (match txCfg s g with | some c => if c.dsc then 1 else 0 | none => 0) w

/-- VOUT_DSI_STAT. -/
def dsiStat (s : State) : Word := withBits 4 0 s.vid.dsiQueue.length (s.reg Reg.VOUT_DSI_STAT)

end Sys2Proof.Machine
end

