-- ==== Sys2Proof/Machine/SectVideo.lean ====
section
/-! DEFINITION. The STREAM, OUTPUT_TIMING and VIDEO_PORTS sections (R396, R405–R407, R414, R415, R420, R426, R427, R430, R432,
R435, R436). -/
namespace Sys2Proof.Machine

/-! ## STREAM (R405, R407) -/

/-- View `j` of a channel block. -/
def viewOf (b : List Byte) (j : Nat) : SView :=
  let o := 0x40 + 32 * j
  let g := 0x200000
  { en := (leAt (o + 0x1A) 1 b).testBit 0
    vbase := leAt o 8 b % 2 ^ 40 / g * g, vsize := max g (leAt (o + 8) 4 b / g * g)
    sbase := leAt (o + 0xC) 8 b % 2 ^ 40 / 4096 * 4096, sstride := leAt (o + 0x14) 4 b / 4096 * 4096
    scount := clampNat 1 64 (leAt (o + 0x18) 1 b), sel := leAt (o + 0x19) 1 b % 4 }

/-- The channel block of a STREAM body. -/
def streamCfg (x : Sect) : SCfg :=
  let b := slice 16 128 x.body
  { context := leAt 0 2 b % 1024, gen := leAt 2 1 b % 4, profile := leAt 3 1 b % 16, trigSrc := min (leAt 4 1 b) 3
    trigPort := leAt 5 1 b % 2, trigVc := leAt 6 1 b % 16, policy := min (leAt 7 1 b) 2, depth := clampNat 1 4 (leAt 8 1 b)
    dl := clampNat 1 64 (leAt 9 1 b), miss := leAt 0xA 1 b % 4
    group := if (leAt 0xB 1 b).testBit 7 then none else some (leAt 0xB 1 b % 4)
    underrun := min (leAt 0xC 1 b) 2, mbx := leAt 0xD 1 b, mbxEn := (leAt 0xE 1 b).testBit 0
    ticketRing := min (leAt 0xF 1 b) 16, trigCtx := leAt 0x10 2 b % 1024, watchMbx := leAt 0x12 1 b
    watchEn := (leAt 0x13 1 b).testBit 0, fill := leAt 0x14 4 b, resultAddr := leAt 0x18 8 b % 2 ^ 40 / 64 * 64
    ticketBase := leAt 0x20 8 b % 2 ^ 40 / 4096 * 4096, bufBase := leAt 0x28 8 b % 2 ^ 40 / 4096 * 4096
    bufStride := leAt 0x30 4 b / 4096 * 4096, bufCount := clampNat 1 16 (leAt 0x34 1 b)
    bufPitch := leAt 0x38 4 b / 64 * 64, views := [viewOf b 0, viewOf b 1] }

/-- The state table of a STREAM body: entries 8 onward. -/
def streamTable (x : Sect) : TTable := tableOf (x.ents.drop 8)

/-- Faults of a STREAM section (R407). `bak` is the channel's Bakery and its number, `others` the other channels' blocks,
`groups` the declared groups with their generators, `wins` the windows. -/
def streamFlaw (s : State) (x : Sect) (bak : Option (Nat × Bakery)) (others : List SCfg) (groups : List (Nat × Nat))
    (wins : List Window) : Option Flaw :=
  let c := streamCfg x
  let at_ (off : Nat) := x.d.off + 16 + off
  let inside (a n : Nat) : Bool := wins.any fun w => w.owner == bak.map (·.1) && w.owner.isSome &&
    decide (w.base ≤ a ∧ a + n ≤ w.base + w.size)
  if x.count < 8 then some (cBody, x.d.off + 4)
  else firstFlaw [
    tableFlaw x 8 (x.count - 8) 1 256,
    flawIf (match bak with
      | some (_, b) => !(decide (b.ctxFirst ≤ c.context) && decide (c.context < b.ctxFirst + b.ctxCount))
      | none => true) cOwnership (at_ 0),
    flawIf (s.code == .u24 && c.gen == 3) cAbsent (at_ 2),
    flawIf (c.trigSrc == 1 && others.any fun o => o.trigSrc == 1 && o.trigPort == c.trigPort && o.trigVc == c.trigVc)
      cOwnership (at_ 5),
    (match c.group with
     | none => none
     | some q => match groups.lookup q with
       | none => some (cAbsent, at_ 0xB)
       | some g => flawIf (g != c.gen) cBody (at_ 0xB)),
    firstFlaw ((List.range 2).map fun j => match c.views[j]? with
      | some v => flawIf (v.en && !(inside v.vbase v.vsize)) cAbsent (at_ (0x40 + 32 * j))
      | none => none)]

/-- STREAM: the channel as it starts, STOPPED (R385). A Patch keeps a channel's state: it resumes as it was (R121). -/
def applyStream (x : Sect) (s : State) : State :=
  let k := x.d.inst
  let cfg := streamCfg x
  let table := streamTable x
  let c : SChan := match s.chan? k with
    | some c => { c with cfg := cfg, table := table, inst := none, busy := false, queue := [], came := [], rebase := 0 }
    | none => { cfg, table, st := 1, before := 1, inst := none, busy := false, queue := [], came := [], busyAt := none, trig := ⟨0, 0⟩, rxCount := 0
                outcome := 0, detail := 0, signal := 0, issued := 0, rebase := 0, jobs := [], shown := none, fill := false
                fed := false }
  { s with str := { s.str with chans := spPut k c s.str.chans } }

/-! ## OUTPUT_TIMING (R396, R406, R407) -/

def otKind (e : List Byte) : Nat := min (leAt 0 1 e) 3

/-- MODE, Z, CHANNEL and GROUP of an entry, clamped to their ranges (R8, R406). -/
def otMode (e : List Byte) : Nat := min (leAt 1 1 e) 3
def otZ (e : List Byte) : Nat := min (leAt 1 1 e) 7
def otChan (e : List Byte) : Nat := min (leAt 2 1 e) 15
def otGroup (e : List Byte) : Nat := min (leAt 1 1 e) 3

/-- The modes of a section. -/
def modesOf (x : Sect) : List (Nat × GMode) :=
  (x.ents.filter fun e => otKind e == 1).foldl (fun m e =>
    spPut (otMode e) ⟨clampNat 6944444 41708333 (leAt 4 4 e), clampNat 64 7680 (leAt 8 2 e), clampNat 64 4320 (leAt 0xA 2 e)⟩ m) []

/-- The smallest of a list of numbers. -/
def least (l : List Nat) : Nat := match l with | [] => 0 | a :: r => r.foldl min a

/-- The member of a set nearest a number; of two equally near, the lower (R541). -/
def nearest (n : Nat) (l : List Nat) : Nat :=
  l.foldl (fun a b => if (max n b - min n b) < (max n a - min n a) then b else a) (least l)

/-- A LAYER entry: its corner, then its size, clamped into the smallest active area (R406; DEDUCED, log entry 33). -/
def layerEntry (modes : List (Nat × GMode)) (e : List Byte) : GLayer :=
  let w := least (modes.map (·.2.hactive))
  let h := least (modes.map (·.2.vactive))
  let lx := min (leAt 4 2 e) (w - 1)
  let ly := min (leAt 6 2 e) (h - 1)
  { z := otZ e, chan := otChan e, x := lx, y := ly, w := min (leAt 8 2 e) (w - lx), h := min (leAt 0xA 2 e) (h - ly) }

/-- A generator as a section defines it; DEFAULT_MODE is the nearest defined mode (R406, R541). -/
def genOf (x : Sect) : Gen :=
  let ms := modesOf x
  let e := (x.ents.find? fun e => otKind e == 0).getD []
  let dm := nearest (leAt 2 1 e) (ms.map (·.1))
  let period := match ms.lookup dm with | some m => m.period | none => 6944444
  let ls := (x.ents.filter fun e => otKind e == 2).foldl (fun m e => spPut (otZ e) (layerEntry ms e) m) []
  { Gen.none with
    defined := true, lock := (leAt 1 1 e).testBit 0, defMode := dm, mode := dm, phase := min (leAt 4 4 e) (period - 1)
    bg := leAt 8 4 e, modes := ms, layers := ls.map (·.2) }

/-- The groups that a section declares, for generator `g`. -/
def groupsOf (g : Nat) (x : Sect) : List (Nat × SGroup) :=
  (x.ents.filter fun e => otKind e == 3).map fun e =>
    (otGroup e, ⟨g, clampNat 1 16 (leAt 2 1 e), clampNat 100 1000000 (leAt 4 4 e), 0, none⟩)

/-- Faults of an OUTPUT_TIMING section: `chans` have a STREAM section, `earlier` are groups that earlier sections declare
(R407). -/
def timingFlaw (s : State) (x : Sect) (chans earlier : List Nat) : Option Flaw :=
  if s.code = .u24 ∧ x.d.inst = 3 then some (cAbsent, x.dirAt 2)
  else firstFlaw [
    flawIf ((x.ents.countP fun e => otKind e == 0) != 1 || !(x.ents.any fun e => otKind e == 1)) cBody (x.d.off + 4),
    x.dup cBody 1 fun e => if otKind e = 1 then some (otMode e) else none,
    x.dup cBody 1 fun e => if otKind e = 2 then some (otZ e) else none,
    x.dup cBody 1 fun e => if otKind e = 3 then some (otGroup e) else none,
    x.each fun k e => match otKind e with
      | 2 => flawIf (!(chans.contains (otChan e))) cAbsent (x.at k 2)
      | 3 => flawIf (earlier.contains (otGroup e)) cOwnership (x.at k 1)
      | _ => none]

/-- OUTPUT_TIMING: a generator, stopped, and its groups. -/
def applyTiming (x : Sect) (s : State) : State :=
  { s with str := { s.str with
      gens := spPut x.d.inst (genOf x) s.str.gens
      groups := (groupsOf x.d.inst x).foldl (fun m e => spPut e.1 e.2 m) s.str.groups } }

/-! ## VIDEO_PORTS (R435, R436) -/

def vpKind (e : List Byte) : Nat := min (leAt 0 1 e) 6

/-- A value of a legal set: the next lower member, or the lowest (R435); the set is ascending. -/
def legalBelow (n : Nat) (l : List Nat) : Nat := l.foldl (fun a b => if b ≤ n then b else a) (l.headD 0)

/-- RATE codes of R425 in Mb/s. -/
def edpRate (k : Nat) : Nat := ([1620, 2160, 2430, 2700, 3240, 4320, 5400, 8100] : List Nat).getD k 1620

/-- The data types of R415 on long packets; those of more than 8 bits. -/
def rxTypes : List Nat := [0x2A, 0x2B, 0x2C, 0x1E, 0x1F, 0x1A, 0x18, 0x24, 0x30, 0x31]
def wideTypes : List Nat := [0x2B, 0x2C, 0x1F]

def rxPortEntry (e : List Byte) : Nat × RxPort :=
  let phy := min (leAt 2 1 e) 2
  (leAt 1 1 e % 2,
   ⟨phy, if phy = 2 then legalBelow (leAt 3 1 e) [1, 2, 3] else legalBelow (leAt 3 1 e) [1, 2, 4],
    clampNat 80 (match phy with | 0 => 2500 | 1 => 4500 | _ => 3500) (leAt 4 2 e)⟩)

def rxVcEntry (e : List Byte) : Nat × RxVc :=
  (leAt 1 1 e % 2 * 16 + leAt 2 1 e % 16,
   ⟨leAt 3 1 e, (leAt 4 1 e).testBit 0, clampNat 64 65536 (leAt 8 4 e / 64 * 64), clampNat 1 8192 (leAt 0xC 2 e)⟩)

/-- DSC fields: BPC first, then BPP16 (R541); SLICE_H up to `va` lines. -/
def dscFields (va lanes rate mode flags dscBit bpc slices sliceH bpp : Nat) : TxCfg :=
  let b := legalBelow bpc [8, 10]
  ⟨legalBelow lanes [1, 2, 4], rate, mode, flags, flags.testBit dscBit, b, legalBelow slices [1, 2, 4, 8],
   clampNat 8 va sliceH, clampNat 96 (16 * (3 * b - 1)) bpp⟩

/-- Lines of a generator's modes. -/
def genLines (g : Gen) : Nat := least (g.modes.map (·.2.vactive))

def edpEntry (gens : List (Nat × Gen)) (e : List Byte) : Nat × TxCfg :=
  let p := leAt 1 1 e % 2
  (p, dscFields (genLines (spGet Gen.none gens p)) (leAt 2 1 e) (edpRate (min (leAt 3 1 e) 7)) 0 (leAt 4 1 e) 2 (leAt 5 1 e)
    (leAt 6 1 e) (leAt 8 2 e) (leAt 0xA 2 e))

def dsiEntry (gens : List (Nat × Gen)) (e : List Byte) : TxCfg :=
  dscFields (genLines (spGet Gen.none gens 2)) (leAt 2 1 e) (clampNat 80 4500 (leAt 4 2 e)) (min (leAt 6 1 e) 1) (leAt 7 1 e) 0
    (leAt 8 1 e) (leAt 9 1 e) (leAt 0xA 2 e) (leAt 0xC 2 e)

/-- An LVDS entry; a MAPPING above 1 counts as 1 (R8, R541). -/
def lvdsEntry (e : List Byte) : LvdsCfg := ⟨(leAt 1 1 e).testBit 0, leAt 2 1 e != 0, leAt 3 1 e⟩

def timingEntry (e : List Byte) : Nat × VTiming :=
  let f (o : Nat) := clampNat 1 4095 (leAt o 2 e)
  (leAt 1 1 e % 4 * 4 + leAt 2 1 e % 4,
   ⟨f 4, f 6, f 8, f 0xA, f 0xC, f 0xE, clampNat 20000 2400000 (leAt 0x10 4 e), leAt 0x14 1 e⟩)

/-- A DSI_INIT entry: INDEX, and what it sends. -/
def dsiInitOf (e : List Byte) : Nat × DsiInit :=
  (min (leAt 1 1 e) 63, ⟨nearest (leAt 2 1 e) [0x05, 0x15, 0x39], slice 8 (min (leAt 3 1 e) 24) e, leAt 4 2 e⟩)

/-- The video ports as a section configures them, with the generators loaded. -/
def videoOf (gens : List (Nat × Gen)) (x : Sect) : VidState :=
  let put {α : Type} (k : Nat) (g : List Byte → Nat × α) : List (Nat × α) :=
    (x.ents.filter fun e => vpKind e == k).foldl (fun m e => spPut (g e).1 (g e).2 m) []
  { VidState.reset with
    rx := put 0 rxPortEntry, rxvc := put 1 rxVcEntry, edp := put 2 (edpEntry gens), timing := put 5 timingEntry
    dsi := (x.ents.find? fun e => vpKind e == 3).map (dsiEntry gens)
    lvds := (x.ents.find? fun e => vpKind e == 4).map lvdsEntry
    dsiInit := (put 6 dsiInitOf).map (·.2) }

/-- Whether a mode's port can carry it (R426, R427, R430, R432). R436 rejects an LVDS PCLK above the limit of R432 only: a dual
link below 20 MHz per link loads and sends (DESIGN CHOICE, log entry 21). -/
def modeCarried (v : VidState) (g : Nat) (m : GMode) (t : VTiming) : Bool :=
  let fits (c : TxCfg) (share : Nat) : Bool :=
    let b16 := if c.dsc then c.bpp16 else 48 * c.bpc
    decide (m.hactive * b16 * t.pclk * 1000 ≤ share * c.lanes * (c.rate * 1000) * 16 * hTotal m t) &&
      (!c.dsc || (decide (m.hactive ≤ 2560 * c.slices) && decide (t.pclk ≤ 1000000 * c.slices)))
  if g < 2 then (match v.edp.lookup g with | some c => fits c 776 | none => true)
  else if g = 2 then (match v.dsi with | some c => fits c 900 | none => true)
  else match v.lvds with | some l => decide (t.pclk ≤ if l.dual then 314280 else 157140) | none => true

/-- Whether a generator's port has an entry. -/
def portEntry (v : VidState) (g : Nat) : Bool :=
  if g < 2 then (v.edp.lookup g).isSome else if g = 2 then v.dsi.isSome else v.lvds.isSome

/-- Whether a DSC port's slices divide its generator's modes. -/
def sliceFault (c : TxCfg) (g : Gen) : Bool :=
  c.dsc && g.modes.any fun m => m.2.hactive % c.slices != 0 || m.2.vactive % c.sliceH != 0

/-- Faults of a VIDEO_PORTS section, with the generators and STREAM blocks of the Recipe (R436). -/
def videoFlaw (s : State) (x : Sect) (gens : List (Nat × Gen)) (streams : List SCfg) : Option Flaw :=
  let v := videoOf gens x
  let key (k : Nat) (f : List Byte → Nat) (e : List Byte) : Option Nat := if vpKind e = k then some (f e) else none
  let entry (k : Nat) : Nat := x.at ((x.ents.findIdx? fun e => vpKind e == k).getD 0) 0
  let bothDsc := (v.edp.any fun e => e.1 == 0 && e.2.dsc) && (match v.dsi with | some c => c.dsc | none => false)
  firstFlaw [
    x.dup cBody 1 (key 0 fun e => leAt 1 1 e % 2),
    x.dup cBody 1 (key 1 fun e => (rxVcEntry e).1),
    x.dup cBody 1 (key 2 fun e => leAt 1 1 e % 2),
    x.dup cBody 0 (key 3 fun _ => 0),
    x.dup cBody 0 (key 4 fun _ => 0),
    x.dup cBody 1 (key 5 fun e => (timingEntry e).1),
    x.dup cBody 1 (key 6 fun e => (dsiInitOf e).1),
    x.each fun k e => match vpKind e with
      | 1 => firstFlaw [
          flawIf (!(rxTypes.contains (leAt 3 1 e))) cBody (x.at k 3),
          flawIf ((leAt 4 1 e).testBit 0 && !(wideTypes.contains (leAt 3 1 e))) cBody (x.at k 4)]
      | 2 =>
        let p := edpEntry gens e
        flawIf (sliceFault p.2 (spGet Gen.none gens p.1)) cBody (x.at k 6)
      | 3 => flawIf (sliceFault (dsiEntry gens e) (spGet Gen.none gens 2)) cBody (x.at k 9)
      | 4 => flawIf (s.code == .u24) cAbsent (x.at k 0)
      | 5 =>
        let g := leAt 1 1 e % 4
        flawIf ((s.code == .u24 && g == 3) || !(portEntry v g)) cAbsent (x.at k 1)
      | _ => none,
    flawIf (gens.any fun g => match g.2.modes with
      | [] => false
      | m :: ms => ms.any fun n => n.2.hactive != m.2.hactive || n.2.vactive != m.2.vactive) cBody x.d.off,
    flawIf (streams.any fun c => c.trigSrc == 1 &&
      ((v.rx.lookup c.trigPort).isNone || (v.rxvc.lookup (c.trigPort * 16 + c.trigVc)).isNone)) cAbsent x.d.off,
    flawIf (gens.any fun g => g.2.modes.any fun m => (v.timing.lookup (g.1 * 4 + m.1)).isNone) cAbsent x.d.off,
    flawIf bothDsc cOwnership (entry 3),
    x.each fun k e => if vpKind e != 5 then none else
      let (key, t) := timingEntry e
      match ((spGet Gen.none gens (key / 4)).modes.lookup (key % 4)) with
      | none => none
      | some m => firstFlaw [
          flawIf (decide (vTotal m t < m.vactive + t.vsync + t.vbp + t.vfpMin)) cLimit (x.at k 0xE),
          flawIf (!(modeCarried v (key / 4) m t)) cLimit (x.at k 0x10)]]

/-- VIDEO_PORTS: the ports' configuration, and what VIN_PORT_STATUS reads of it (R438). -/
def applyVideo (x : Sect) (s : State) : State :=
  let s := { s with vid := { videoOf s.str.gens x with hold := s.vid.hold } }
  s.vid.rx.foldl (fun s e => (s.fset (Fld.VIN_PORT_STATUS_PHY e.1) e.2.phy).fset (Fld.VIN_PORT_STATUS_LANES e.1) (e.2.lanes - 1)) s

end Sys2Proof.Machine
end

