-- ==== Sys2Proof/Machine/SectAux.lean ====
section
/-! DEFINITION. The ORBIT, NIGHTWATCH and PROCEDURES sections (R145, R154, R481, R496, R497, R508, R509, R530, R531). -/
namespace Sys2Proof.Machine

/-! ## ORBIT (R530, R531) -/

def orbKind (e : List Byte) : Nat := clampNat 1 4 (leAt 0 1 e)
def orbOf (e : List Byte) : Nat := leAt 1 1 e % 4

/-- The entry of a KIND for a channel. -/
def orbEntry (x : Sect) (kind c : Nat) : Option (List Byte) := x.ents.find? fun e => orbKind e == kind && orbOf e == c

/-- A time in ns, of granule 5, in a range. -/
def orbNs (lo hi off : Nat) (e : List Byte) : Nat := clampNat lo hi (leAt off 2 e / 5 * 5)

/-- A CURVE entry's pairs: each TEMP at least its predecessor. -/
def orbCurve (e : List Byte) : List (Nat × Nat) :=
  (List.range (clampNat 2 8 (leAt 2 1 e))).foldl (fun l k =>
    let t := min 125 (leAt (4 + 3 * k) 1 e)
    l ++ [(max t (l.getLastD (0, 0)).1, min 30000 (leAt (5 + 3 * k) 2 e))]) []

/-- SHAPE: a value below its predecessor is clamped to it; a straight ramp without an entry (R506). -/
def orbShape : Option (List Byte) → List Nat
  | some e => (List.range 16).foldl (fun l i => l ++ [max (leAt (2 + i) 1 e) (l.getLastD 0)]) []
  | none => (List.range 16).map fun i => (divNearestEven (((2 * i + 1) * 255 : Nat) : Int) 32).toNat

/-- START of a channel. -/
def orbStartOf : Option (List Byte) → OrbStart
  | none => .default
  | some e =>
    let r0 := clampNat 10 30000 (leAt 0xA 2 e)
    ⟨clampNat 10 500 (leAt 2 2 e), clampNat 100 5000 (leAt 4 2 e), clampNat 10 200 (leAt 6 2 e), (leAt 8 1 e).testBit 0,
     clampNat 1 8 (leAt 9 1 e), r0, max r0 (clampNat 10 30000 (leAt 0xC 2 e)), clampNat 100 10000 (leAt 0xE 2 e),
     min 500 (leAt 0x10 2 e), clampNat 5 50 (leAt 0x12 1 e), clampNat 10 2000 (leAt 0x14 2 e), clampNat 10 200 (leAt 0x16 2 e)⟩

/-- A channel's configuration, from its CHANNEL entry and those that go with it. -/
def orbCfg (x : Sect) (e : List Byte) : OrbCfg :=
  let c := orbOf e
  let khz := clampNat 16 48 (leAt 3 1 e)
  let dead := orbNs 50 1000 4 e
  let blank := orbNs 200 3000 6 e
  let twin := orbNs 800 5000 8 e
  { poles := clampNat 1 16 (leAt 2 1 e), khz, dead, blank, twin, hyst := clampNat 10 100 (leAt 0xA 1 e)
    advance := min 15 (leAt 0xB 1 e), demag := clampNat 2 15 (leAt 0xC 1 e), span := min 30 (leAt 0xD 1 e)
    ocCode := min 63 (leAt 0xE 1 e), posCode := min 63 (leAt 0xF 1 e), ocMs := clampNat 10 2000 (leAt 0x10 2 e)
    dir := (leAt 0x12 1 e).testBit 0, policy := min 2 (leAt 0x13 1 e), depth := clampNat 1 4 (leAt 0x14 1 e)
    retryMax := leAt 0x15 1 e, retryS := clampNat 1 600 (leAt 0x16 2 e), kp := leAt 0x18 2 e, ki := leAt 0x1A 2 e
    slew := clampNat 10 10000 (leAt 0x1C 2 e), hystC := min 40 (leAt 0x1E 1 e)
    curve := orbCurve ((orbEntry x 2 c).getD []), shape := orbShape (orbEntry x 3 c), start := orbStartOf (orbEntry x 4 c)
    dLo := bandLo khz blank twin, dHi := bandHi khz blank dead }

/-- Faults of an ORBIT section. -/
def orbitFlaw (x : Sect) : Option Flaw := firstFlaw [
  x.dup cBody 1 fun e => some (orbKind e * 4 + orbOf e),
  x.each fun k e => flawIf ((orbEntry x (if orbKind e = 1 then 2 else 1) (orbOf e)).isNone) cBody (x.at k 1),
  x.each fun k e =>
    let g := orbCfg x e
    flawIf (orbKind e == 1 && decide (g.dHi ≤ g.dLo + g.hyst)) cLimit (x.at k 0xA)]

/-- ORBIT: the configured channels, in channel order. -/
def applyOrbit (x : Sect) (s : State) : State :=
  { s with orb := { s.orb with
      chans := (List.range 4).filterMap fun c => (orbEntry x 1 c).map fun e => (c, OrbChan.fresh (orbCfg x e)) } }

/-! ## PROCEDURES (R145, R154, R178) -/

/-- Faults of a PROCEDURES section, with the rows of the earlier ones. -/
def procFlaw (x : Sect) (rows : Nat) : Option Flaw := firstFlaw [
  flawIf (decide (63 < x.d.inst)) cLimit (x.dirAt 2),
  tableFlaw x 0 x.count 0 1024,
  flawIf (decide (16384 < rows + (x.count - 1))) cLimit (x.d.off + 4)]

/-- PROCEDURES: a state table under its number. -/
def applyProc (x : Sect) (s : State) : State :=
  { s with zen := { s.zen with procs := spPut x.d.inst (tableOf x.ents) s.zen.procs } }

/-! ## NIGHTWATCH (R481, R496, R497) -/

/-- The configuration block. -/
def nwBlock (x : Sect) : List Byte := slice 16 128 x.body

/-- A part: its first entry and its entry count. -/
def nwPart (x : Sect) (p : Nat) : Nat × Nat := (leAt (0x40 + 4 * p) 2 (nwBlock x), leAt (0x42 + 4 * p) 2 (nwBlock x))

/-- Where a part stands in the Recipe, its bytes, and its entries. -/
def nwPartAt (x : Sect) (p off : Nat) : Nat := x.d.off + 16 + 16 * (nwPart x p).1 + off
def nwPartBytes (x : Sect) (p : Nat) : List Byte := slice (16 + 16 * (nwPart x p).1) (16 * (nwPart x p).2) x.body
def nwPartEnts (x : Sect) (p : Nat) : List (List Byte) :=
  (List.range (nwPart x p).2).map fun k => slice (16 + 16 * ((nwPart x p).1 + k)) 16 x.body

/-- The coefficients of a FIR part. -/
def nwFir (x : Sect) (p : Nat) : List Int :=
  if (nwPart x p).2 = 0 then [] else (List.range 64).map fun k => signedOf 24 (leAt (4 * k) 4 (nwPartBytes x p) % 2 ^ 24)

/-- LO, CTR and HI of a band. -/
def nwBand (w : Nat) : Nat × Nat × Nat :=
  let f (k : Nat) := min 256 (w / 2 ^ k % 512)
  (f 0, max (f 0) (f 9), max (f 0) (f 18))

/-- A LAYERS entry. -/
def nwLayer (e : List Byte) : NwLayer :=
  { op := min 3 (leAt 0 1 e), src := leAt 1 1 e, aux := leAt 2 1 e, k := clampNat 1 8 (leAt 3 1 e), inN := leAt 4 2 e
    outN := leAt 6 2 e, woff := leAt 8 4 e, shift := clampInt (-31) 31 (leSAt 0xC 1 e)
    curve := nearest (leAt 0xD 1 e) [0, 1, 2, 3, 4, 5, 6, 7, 0xFF], stride := clampNat 1 4 (leAt 0xE 1 e) }

/-- The 80-byte Curve entries of part 6. -/
def nwCurves (x : Sect) : List (List Byte) :=
  (List.range ((nwPart x 6).2 / 5)).map fun k => slice (80 * k) 80 (nwPartBytes x 6)

/-- A section's configuration. -/
def nwCfg (x : Sect) : NwCfg :=
  let b := nwBlock x
  let flo := clampNat 500 7500 (leAt 0x24 2 b)
  { chEn := leAt 0 1 b, preMask := leAt 1 1 b &&& leAt 0 1 b, kwsMask := leAt 2 1 b, alarmMask := leAt 3 1 b
    fullClk := decide (1 ≤ leAt 4 1 b), rate48 := decide (1 ≤ leAt 5 1 b), slots := clampNat 1 8 (leAt 6 1 b)
    policy := min 2 (leAt 7 1 b), depth := clampNat 1 4 (leAt 8 1 b), windowS := clampNat 1 30 (leAt 9 1 b)
    settleMs := clampNat 1 50 (leAt 0xA 1 b), bandCount := clampNat 1 40 (leAt 0xB 1 b)
    deadMs := clampNat 5 1000 (leAt 0xC 2 b), aliveMs := clampNat 10 5000 (leAt 0xE 2 b)
    slotMap := (List.range 8).map fun i => leAt (0x10 + i) 1 b
    userThresh := min 32767 (leAt 0x18 2 b), enrolMin := min 32767 (leAt 0x1A 2 b), scoreLayer := leAt 0x1C 1 b
    embLayer := leAt 0x1D 1 b, modelId := leAt 0x20 4 b, toneFlo := flo, toneFhi := clampNat flo 7500 (leAt 0x26 2 b)
    toneSnr := clampNat 1 20 (leAt 0x28 1 b), toneFloor := clampInt (-90) 0 (leSAt 0x29 1 b)
    toneOn := clampNat 4 100 (leAt 0x2A 1 b), toneOff := clampNat 4 100 (leAt 0x2B 1 b)
    impactDb := clampNat 6 40 (leAt 0x2C 1 b), impactFloor := clampInt (-90) 0 (leSAt 0x2D 1 b)
    hbDb := min 30 (leAt 0x2E 1 b), hbMs := clampNat 4 100 (leAt 0x2F 1 b), hbHz := clampNat 2000 7000 (leAt 0x30 2 b)
    firL16 := nwFir x 0, firF16 := nwFir x 1, firF48 := nwFir x 2
    bands := (List.range (4 * (nwPart x 3).2)).map fun k => nwBand (leAt (4 * k) 4 (nwPartBytes x 3))
    layers := (nwPartEnts x 4).map nwLayer, weights := nwPartBytes x 5, curves := curveTable 7 (nwCurves x)
    keywords := (nwPartEnts x 7).map fun e => ⟨leAt 0 1 e, leAt 1 1 e, clampNat 1 16 (leAt 2 1 e), clampNat 10 200 (leAt 3 1 e)⟩
    tables := (List.range 4).filterMap fun t =>
      if (nwPart x (8 + t)).2 = 0 then none else some (t, tableOf (nwPartEnts x (8 + t)))
    crc := x.d.crc }

/-- Bytes of history of a layer: its input vectors, for the operations over the last K of them (R478; DEDUCED, log entry 27). -/
def NwLayer.history (y : NwLayer) : Nat := if y.op = 1 ∨ y.op = 2 then y.inN * y.k else 0

/-- Twelve times the MACs per frame that R481 counts for a layer: STRIDE divides 12. -/
def NwLayer.macs12 (y : NwLayer) : Nat := y.inN * y.outN * y.k * (12 / y.stride)

/-- Faults of the parts' places (R497). -/
def nwPartFlaw (x : Sect) (p : Nat) : Option Flaw :=
  let (f, n) := nwPart x p
  if n = 0 then none
  else firstFlaw [
    flawIf (decide (x.d.len < 16 + 16 * (f + n) ∨ f < 8) ||
      (List.range p).any fun q => decide (0 < (nwPart x q).2) && rangesMeet (f, n) (nwPart x q)) cBody (x.at 0 (0x40 + 4 * p)),
    flawIf (decide (p < 3 ∧ n ≠ 16)) cBody (x.at 0 (0x42 + 4 * p))]

/-- Faults of a NIGHTWATCH section (R481, R497). -/
def nightwatchFlaw (x : Sect) : Option Flaw :=
  let g := nwCfg x
  let layer (p : Nat → NwLayer → Bool) (c off : Nat) : Option Flaw :=
    ((List.range g.layers.length).find? fun i => match g.layers[i]? with | some y => p i y | none => false).map
      fun i => (c, nwPartAt x 4 (16 * i + off))
  let count (p : Nat) : Nat := x.at 0 (0x42 + 4 * p)
  if x.count < 8 then some (cBody, x.d.off + 4)
  else firstFlaw [
    firstFlaw ((List.range 12).map (nwPartFlaw x)),
    flawIf (decide (64 < g.layers.length)) cLimit (count 4),
    layer (fun i y => y.src != 0xFF && decide (i ≤ y.src)) cBody 1,
    layer (fun i y => y.aux != 0xFF && decide (i ≤ y.aux)) cBody 2,
    layer (fun i _ => decide (8 < leAt 3 1 ((nwPartEnts x 4).getD i []))) cLimit 3,
    layer (fun _ y => decide (512 < y.inN)) cLimit 4,
    layer (fun _ y => decide (512 < y.outN)) cLimit 6,
    flawIf (!g.layers.isEmpty && (g.layers[g.scoreLayer]?).all fun y => y.outN != 17) cBody (x.at 0 0x1C),
    flawIf (!g.layers.isEmpty && (g.layers[g.embLayer]?).all fun y => y.outN != 64) cBody (x.at 0 0x1D),
    flawIf (decide (0x60000 < 16 * (nwPart x 5).2)) cLimit (count 5),
    flawIf (decide (0x8000 < (g.layers.map NwLayer.history).sum)) cLimit (count 4),
    flawIf (decide (12 * 0x100000 < (g.layers.map NwLayer.macs12).sum)) cLimit (count 4),
    flawIf (decide (16 < g.keywords.length)) cLimit (count 7),
    flawIf (decide (8 < (nwPart x 6).2 / 5)) cLimit (count 6),
    (repeated [] 0 ((nwCurves x).map fun e => some (min (leAt 0 1 e) 7))).map fun k => (cBody, nwPartAt x 6 (80 * k)),
    firstFlaw ((List.range 4).map fun t =>
      let (f, n) := nwPart x (8 + t)
      if n = 0 then none else tableFlaw x f n 2 128)]

end Sys2Proof.Machine
end

