-- ==== Sys2Proof/Machine/SectFabric.lean ====
section
/-! DEFINITION. The BAKERY and RACKS sections (R194, R200, R201, R209, R210, R216). -/
namespace Sys2Proof.Machine

/-! ## BAKERY (R209, R210) -/

/-- KIND of a BAKERY entry. -/
def bakKind (e : List Byte) : Nat := min (leAt 0 1 e) 2

/-- The pairs of a PROFILE entry in use: pair number, target, amount. -/
def profilePairs (e : List Byte) : List (Nat × Nat × Nat) :=
  ((List.range 8).map fun k => (k, leAt (4 + 3 * k) 1 e, min (leAt (5 + 3 * k) 2 e) 224)).filter fun p => p.2.1 != 0xFF

/-- The MEMBERS entry of a section. -/
def membersOf (x : Sect) : List Byte := (x.ents.find? fun e => bakKind e == 0).getD []

/-- The Ovens and Stream Channels that a MEMBERS entry names. -/
def memberOvens (e : List Byte) : List Nat := (List.range 48).filter fun n => (leAt 8 8 e).testBit n
def memberStreams (e : List Byte) : List Nat := (List.range 16).filter fun n => (leAt 0x10 2 e).testBit n

/-- A Bakery as a section describes it. -/
def bakeryOf (x : Sect) : Bakery :=
  let m := membersOf x
  let first := leAt 0x12 2 m
  { defined := true, ovens := memberOvens m, streams := memberStreams m, ctxFirst := first
    ctxCount := min (leAt 0x14 2 m) (1024 - first), weight := clampNat 1 16 (leAt 0x16 1 m)
    standing := (x.ents.filter fun e => bakKind e == 1).map fun e => (leAt 1 1 e, min (leAt 2 2 e) 256)
    profiles := (x.ents.filter fun e => bakKind e == 2).map fun e => (leAt 1 1 e, (profilePairs e).map (·.2))
    passes := 0, quiesced := false, lastMove := 0 }

/-- Whether two STANDING targets name one target: 0xFE names every DRAM channel (R209, R210). -/
def sameStanding (a b : Nat) : Bool := a == b || (a == 0xFE && decide (b < 16)) || (b == 0xFE && decide (a < 16))

/-- Faults of a BAKERY section by itself (R115, R209, R210). CTX_FIRST above 1,023 names no context (DEDUCED, log entry 31). -/
def bakeryFlaw (s : State) (x : Sect) : Option Flaw :=
  let named (t : Nat) : Bool := t == 0xFE || targetExists s t
  let m := membersOf x
  firstFlaw [
    flawIf ((x.ents.countP fun e => bakKind e == 0) != 1) cBody (x.d.off + 4),
    x.each fun k e => flawIf (bakKind e == 1 &&
      (x.ents.take k).any fun f => bakKind f == 1 && sameStanding (leAt 1 1 e) (leAt 1 1 f)) cBody (x.at k 1),
    x.dup cBody 1 fun e => if bakKind e = 2 then some (leAt 1 1 e) else none,
    x.each fun k e => match bakKind e with
      | 0 => firstFlaw [
          flawIf ((memberOvens m).any fun n => decide (ovenCount s.code ≤ n)) cAbsent (x.at k 8),
          flawIf (decide (1023 < leAt 0x12 2 m)) cAbsent (x.at k 0x12)]
      | 1 => flawIf (!(named (leAt 1 1 e))) cAbsent (x.at k 1)
      | _ => firstFlaw ([
          flawIf (leAt 1 1 e == 0) cBody (x.at k 1),
          flawIf (decide (15 < leAt 1 1 e)) cAbsent (x.at k 1)] ++
          (profilePairs e).map fun p => flawIf (!(named p.2.1)) cAbsent (x.at k (4 + 3 * p.1)))]

/-- Whether two Bakeries claim one resource. -/
def claimClash (a b : Bakery) : Option Nat :=
  if a.ovens.any b.ovens.contains then some 8
  else if a.streams.any b.streams.contains then some 0x10
  else if max a.ctxFirst b.ctxFirst < min (a.ctxFirst + a.ctxCount) (b.ctxFirst + b.ctxCount) then some 0x12
  else none

/-- A resource that an earlier Bakery claims too (R115, R210). -/
def claimFlaw (x : Sect) (others : List Bakery) : Option Flaw :=
  let k := (x.ents.findIdx? fun e => bakKind e == 0).getD 0
  firstFlaw (others.map fun b => (claimClash (bakeryOf x) b).map fun off => (cOwnership, x.at k off))

/-! ## RACKS (R194, R200, R201) -/

/-- A RACKS entry: the number and the Rack of Bakery `b`, as loaded. -/
def rackEntry (b : Nat) (e : List Byte) : Nat × Rack :=
  let po := leAt 2 1 e
  let co := leAt 4 1 e
  let pp := leAt 3 1 e
  let cp := leAt 5 1 e
  let far := po == 0xFF || co == 0xFF
  let depth := if far then clampNat 16 512 (leAt 0xA 2 e) else clampNat 2 64 (leAt 0xA 2 e)
  (leAt 0 2 e,
   rackRefill
    { bakery := b
      prod := if po = 0xFF then none else some (po, pp % 8, pp / 8 % 8)
      cons := if co = 0xFF then none else some (co, cp % 8, cp / 8 % 8)
      remoteHome := leAt 6 1 e % 8, link := leAt 7 1 e % 4, remoteRack := leAt 8 2 e
      depth := depth, preload := min (leAt 0xC 2 e) depth, cls := min (leAt 0xE 1 e) 2
      linkRes := min (leAt 0x10 2 e) 256
      effDepth := depth, connected := false, everConnected := false, discarding := false, credits := 0, slots := []
      pre := 0, landed := [] })

/-- The grid edges that an on-die Rack's route holds a track on, in its direction (R194): along the producer's row, then
along the consumer's column. -/
def rackEdges (r : Rack) : List Nat :=
  match r.prod, r.cons with
  | some (p, _), some (c, _) =>
    let edges (a b tag : Nat) : List Nat :=
      if a < b then (List.range (b - a)).map fun i => tag * 32 + (a + i)
      else (List.range (a - b)).map fun i => tag * 32 + 16 + (b + i)
    edges (p % 8) (c % 8) (p / 8) ++ edges (p / 8) (c / 8) (8 + c % 8)
  | _, _ => []

/-- Whether a Rack's route needs more than 16 tracks on an edge among a list of Racks that holds it. -/
def tracksOver (r : Rack) (all : List Rack) : Bool :=
  (rackEdges r).any fun g => decide (16 < all.countP fun q => (rackEdges q).contains g)

/-- The consumer's Star and the link of a cross-link Rack. -/
def rackFar (home : Nat) (r : Rack) : Nat × Nat := (if r.cons.isSome then home else r.remoteHome, r.link)

/-- Whether a cross-link Rack, with those before it to the same Star over the same link, holds more than 16,384 slots (R328). -/
def depthOver (home : Nat) (r : Rack) (before : List Rack) : Bool :=
  rackRemote r && decide (16384 < ((r :: before.filter fun q => rackRemote q && rackFar home q == rackFar home r).map (·.depth)).sum)

/-- Faults of a RACKS section: `before` are the Racks of the Star that other sections loaded, `ovens` the Bakery's, `routes`
the Stars with a route and its declared mask (R201, R328). -/
def racksFlaw (s : State) (x : Sect) (before : List (Nat × Rack)) (ovens : List Nat) (home : Nat)
    (routes : List (Nat × Nat)) : Option Flaw :=
  let rs := x.ents.map (rackEntry x.d.inst)
  x.each fun k e =>
    match rs[k]? with
    | none => none
    | some (n, r) =>
      let prior := before ++ rs.take k
      let mine (o : Option (Nat × Nat × Nat)) : Bool := match o with | some (m, _) => ovens.contains m | none => true
      let gone (o : Option (Nat × Nat × Nat)) : Bool := match o with | some (m, _) => decide (ovenCount s.code ≤ m) | none => false
      let badPort (off : Nat) : Bool := decide (6 ≤ leAt off 1 e % 8)
      firstFlaw [
        flawIf (decide (1023 < n) || decide (1024 ≤ prior.length)) cLimit (x.at k 0),
        flawIf (rackRemote r && decide (1023 < r.remoteRack)) cLimit (x.at k 8),
        flawIf (gone r.prod) cAbsent (x.at k 2),
        flawIf (badPort 3) cAbsent (x.at k 3),
        flawIf (gone r.cons || (r.prod.isNone && r.cons.isNone)) cAbsent (x.at k 4),
        flawIf (badPort 5) cAbsent (x.at k 5),
        flawIf (rackRemote r && r.remoteHome == home) cAbsent (x.at k 6),
        flawIf (!(mine r.prod)) cOwnership (x.at k 2),
        flawIf (!(mine r.cons)) cOwnership (x.at k 4),
        flawIf (prior.any fun q => q.1 == n) cOwnership (x.at k 0),
        flawIf (r.prod.isSome && prior.any fun q => q.2.prod == r.prod) cOwnership (x.at k 3),
        flawIf (r.cons.isSome && prior.any fun q => q.2.cons == r.cons) cOwnership (x.at k 5),
        flawIf (rackRemote r && (routes.lookup r.remoteHome).isNone) cRoute (x.at k 6),
        flawIf (rackRemote r && !(((routes.lookup r.remoteHome).getD 0).testBit r.link)) cRoute (x.at k 7),
        flawIf (depthOver home r (prior.map (·.2))) cLimit (x.at k 0xA),
        flawIf (tracksOver r (r :: prior.map (·.2))) cLimit (x.at k 2)]

/-! ## Applying (R121, R191, R209, R216) -/

/-- BAKERY: membership, weight, standing reservations and profiles; what is not the section's stays (R216, R240). -/
def applyBakery (x : Sect) (s : State) : State :=
  let b := x.d.inst
  let k := bakeryOf x
  let old := s.bakery b
  let s := s.onBakery b fun o => { k with passes := o.passes, quiesced := o.quiesced, lastMove := s.epoch }
  let s := (List.range 48).foldl (fun s n =>
    if k.ovens.contains n then (s.fset (Fld.OVN_CONFIG_BAKERY n) b).fset (Fld.OVN_CONFIG_MEMBER n) 1
    else if old.ovens.contains n then (s.fset (Fld.OVN_CONFIG_BAKERY n) 0).fset (Fld.OVN_CONFIG_MEMBER n) 0
    else s) s
  let held (c : Nat) (q : Bakery) : Bool := decide (q.ctxFirst ≤ c) && decide (c < q.ctxFirst + q.ctxCount)
  (List.range 1024).foldl (fun s c =>
    if held c k then (s.fset (Fld.CTX_OWNER_BAKERY c) b).fset (Fld.CTX_OWNER_MEMBER c) 1
    else if held c old then (s.fset (Fld.CTX_OWNER_BAKERY c) 0).fset (Fld.CTX_OWNER_MEMBER c) 0
    else s) s

/-- A new Rack in the place of one with the same far end keeps its connection, or the loss that discards its pushes (R121,
R196, R198; DEDUCED, log entry 32). -/
def keepConnection (old : Option Rack) (r : Rack) : Rack :=
  match old with
  | some o =>
    if rackRemote r && o.link == r.link && o.remoteHome == r.remoteHome && o.remoteRack == r.remoteRack &&
        o.prod.isSome == r.prod.isSome then
      if o.connected then
        rackRefill { r with connected := true, everConnected := o.everConnected, effDepth := min r.depth o.effDepth }
      else { r with discarding := o.discarding, everConnected := o.everConnected, effDepth := min r.depth o.effDepth }
    else r
  | none => r

/-- RACKS: the Bakery's Racks are those of the section (R188, R191). -/
def applyRacks (x : Sect) (s : State) : State :=
  let b := x.d.inst
  let old := s.fab.racks
  let rest := old.filter fun e => e.2.bakery != b
  let new := x.ents.map (rackEntry b)
  { s with fab := { s.fab with
      racks := new.foldl (fun m e => spPut e.1 (keepConnection (old.lookup e.1) e.2) m) rest } }

end Sys2Proof.Machine
end

