-- ==== Sys2Proof/Machine/LoadChecks.lean ====
section
/-! DEFINITION. Pass 1 of the loader: every check of a Recipe or Patch, in the order of R112 (R94–R98, R112, R115, R119). -/
namespace Sys2Proof.Machine

/-! ## What the checks of one section need of the others -/

/-- What a container would leave loaded, as the checks of its sections need it: a full Recipe's own sections, or the running
state with the Patch's sections in place. -/
structure Plan where
  /-- The Bakery of a Patch; none for a full Recipe. -/
  patch : Option Nat
  home : Nat
  mask : Nat
  visible : Nat
  vfs : Nat
  /-- Stars with a declared route, and its mask. -/
  routes : List (Nat × Nat)
  wins : List Window
  baks : List (Nat × Bakery)
  racks : List (Nat × Rack)
  chans : List (Nat × SCfg)
  gens : List (Nat × Gen)
  groups : List (Nat × SGroup)
  procs : List Nat
  /-- Stream Channels whose sections stand in the container. -/
  own : List Nat
  deriving DecidableEq, Repr

/-- A section of a type and INSTANCE. -/
def secOf (ty : Nat) (xs : List Sect) : Option Sect := xs.find? fun x => x.d.ty == ty

/-- The sections of a type. -/
def secsOf (ty : Nat) (xs : List Sect) : List Sect := xs.filter fun x => x.d.ty == ty

/-- Whether a section's ENTRY_SIZE is its type's (R93, R94). -/
def Sect.sized (x : Sect) : Bool :=
  match entrySize x.d.ty with
  | some (some n) => x.esize == n
  | _ => true

/-- The plan of a full Recipe. -/
def fullPlan (c : OrderCode) (xs : List Sect) : Plan :=
  let one {α : Type} (ty : Nat) (z : α) (g : Sect → α) : α := match secOf ty xs with | some x => g x | none => z
  { patch := none, home := one 1 0 fun x => globalHome (x.ent 0), mask := one 1 0 fun x => globalMask (x.ent 0)
    visible := visibleOf c (one 8 false fun x => decide (1 ≤ leAt 0 1 (x.ent 0)))
    vfs := one 4 0 vfCountOf, routes := one 0xA [] merRoutesOf
    wins := one 9 [] fun x => x.ents.map fun e => (windowEntry e).2
    baks := (secsOf 0xB xs).map fun x => (x.d.inst, bakeryOf x)
    racks := (secsOf 0xC xs).flatMap fun x => x.ents.map (rackEntry x.d.inst)
    chans := (secsOf 0x13 xs).map fun x => (x.d.inst, streamCfg x)
    gens := (secsOf 0x14 xs).map fun x => (x.d.inst, genOf x)
    groups := (secsOf 0x14 xs).flatMap fun x => groupsOf x.d.inst x
    procs := (secsOf 0x18 xs).map (·.d.inst), own := (secsOf 0x13 xs).map (·.d.inst) }

/-- The plan of a Patch for Bakery `b` (R119). -/
def patchPlan (s : State) (b : Nat) (xs : List Sect) : Plan :=
  { patch := some b, home := s.home, mask := s.fget Fld.GLB_STATUS_BAKERY_MASK, visible := s.visibleDram
    vfs := s.pcie.vfCount
    routes := (List.range 8).filterMap fun h =>
      if s.fget (Fld.MER_ROUTE_DECLARED h) = 0 then none else some (h, s.fget (Fld.MER_ROUTE_DECLARED h))
    wins := s.mem.wins.map (·.2)
    baks := (secsOf 0xB xs).foldl (fun m x => spPut x.d.inst (bakeryOf x) m) s.fab.baks
    racks := s.fab.racks.filter fun e => e.2.bakery != b
    chans := (secsOf 0x13 xs).foldl (fun m x => spPut x.d.inst (streamCfg x) m) (s.str.chans.map fun e => (e.1, e.2.cfg))
    gens := s.str.gens, groups := s.str.groups, procs := s.zen.procs.map (·.1), own := (secsOf 0x13 xs).map (·.d.inst) }

/-- The plan of a container. -/
def planOf (s : State) (c : LoadCmd) (xs : List Sect) : Plan :=
  let xs := xs.filter fun x => x.sized && (bodyFlaw x).isNone
  match c.patch with
  | none => fullPlan s.code xs
  | some b => patchPlan s b xs

def Plan.routed (p : Plan) (h : Nat) : Bool := h == p.home || (p.routes.lookup h).isSome
def Plan.bakery (p : Plan) (b : Nat) : Bakery := spGet Bakery.none p.baks b

/-- The Bakery to which an Oven, or a Stream Channel, is assigned (R95). -/
def Plan.ovenOwner (p : Plan) (n : Nat) : Option Nat := (p.baks.find? fun e => e.2.ovens.contains n).map (·.1)
def Plan.chanOwner (p : Plan) (k : Nat) : Option (Nat × Bakery) := p.baks.find? fun e => e.2.streams.contains k

/-- Whether what another instance `k` of a type claims comes before what instance `i` claims: loaded already, or earlier in
the container. -/
def Plan.before (p : Plan) (k i : Nat) : Bool := if p.patch.isSome then k != i else decide (k < i)

/-! ## Checks of every section (R94, R95, R96, R119) -/

/-- Types with INSTANCE 0 only, those of an Oven, and those that a Patch may carry. -/
def singleType (ty : Nat) : Bool := [1, 2, 4, 5, 7, 8, 9, 0xA, 0x12, 0x15, 0x16, 0x17, 0x1A].contains ty
def ovenType (ty : Nat) : Bool := decide (0xD ≤ ty ∧ ty ≤ 0x11)
def patchType (ty : Nat) : Bool := [3, 0xB, 0xC, 0xD, 0xE, 0xF, 0x10, 0x11, 0x13, 0x19].contains ty

/-- An INSTANCE out of its type's range (R3, R94; DEDUCED, log entry 31 for the causes). -/
def instFlaw (s : State) (x : Sect) : Option Flaw :=
  let n := x.d.inst
  let ty := x.d.ty
  firstFlaw [
    flawIf (singleType ty && n != 0) cBody (x.dirAt 2),
    flawIf ((ty == 0xB || ty == 0xC || ty == 0x13) && decide (15 < n)) cAbsent (x.dirAt 2),
    flawIf (ovenType ty && decide (ovenCount s.code ≤ n)) cAbsent (x.dirAt 2),
    flawIf (ty == 0x14 && decide (3 < n)) cAbsent (x.dirAt 2),
    flawIf (ty == 0x19 && decide (255 < n)) cAbsent (x.dirAt 2)]

/-- A section that the Patch may not carry (R115, R119). -/
def scopeFlaw (p : Plan) (x : Sect) : Option Flaw :=
  match p.patch with
  | none => none
  | some b => firstFlaw [
      flawIf (!(patchType x.d.ty) || (x.d.ty == 3 && x.d.inst != b + 1)) cPatchScope (x.dirAt 0),
      flawIf (x.owner != some b) cPatchScope (x.dirAt 0x10)]

/-- OWNER against BAKERY_MASK and the BAKERY sections (R95, R96; DEDUCED, log entry 39). R95 binds a section "of any other type"
by its Oven or Stream Channel: a PACE section has neither as its INSTANCE, so its OWNER is held to BAKERY_MASK alone in a
full Recipe (DESIGN CHOICE, log entry 39). -/
def ownerFlaw (p : Plan) (x : Sect) : Option Flaw :=
  let ty := x.d.ty
  let bad := match x.owner with
    | none => ty == 0xB || ty == 0xC
    | some b => !(p.mask.testBit b) || ((ty == 0xB || ty == 0xC) && b != x.d.inst) ||
        (ovenType ty && p.ovenOwner x.d.inst != some b) || (ty == 0x13 && (p.chanOwner x.d.inst).map (·.1) != some b)
  flawIf bad cOwnership (x.dirAt 0x10)

/-! ## Images (R98, R281) -/

/-- The Star-local address of a DRAM image, and its Star. -/
def imageLocal (x : Sect) : Nat := imageTarget x % 2 ^ 37
def imageHome (x : Sect) : Nat := imageTarget x % 2 ^ 40 / 2 ^ 37

def dramImageFlaw (s : State) (p : Plan) (x : Sect) : Option Flaw :=
  let a := imageTarget x % 2 ^ 40
  let at_ := x.d.off + 0x10
  firstFlaw [
    flawIf (decide (p.visible < imageLocal x + imageLen x)) cAbsent at_,
    flawIf (imageHome x != p.home) cNotLocal at_,
    flawIf (!(p.wins.any fun w => w.owner == x.owner && decide (w.base ≤ a) && decide (a + imageLen x ≤ w.base + w.size)))
      cOwnership at_]

/-! ## The checks of each type (R115) -/

/-- The faults of a section under the rules of its type. -/
def typeFlaw (s : State) (p : Plan) (xs : List Sect) (x : Sect) : Option Flaw :=
  let n := x.d.inst
  let starters := match xs.find? fun y => y.d.ty == 0x11 && y.d.inst == n with
    | some y => y.ents.map fun e => (starterEntry e).num
    | none => if p.patch.isSome then (s.oven n).starters.map (·.num) else []
  let allRacks := match p.patch with
    | none => p.racks
    | some b => p.racks ++ match secOf 0xC xs with
      | some y => y.ents.map (rackEntry b)
      | none => s.fab.racks.filter fun e => e.2.bakery == b
  let ends (g : Rack → Option (Nat × Nat × Nat)) : List (Nat × Nat) :=
    allRacks.filterMap fun e => match g e.2 with | some (m, q) => if m = n then some q else none | none => none
  match x.d.ty with
  | 1 => oneEntry x
  | 2 => powerFlaw x p.procs
  | 3 => paceFlaw s x (p.bakery (n - 1)).ovens ((p.gens.map (·.1)).filter (genPresent s.code)) (p.mask.testBit (n - 1))
  | 4 => pcieFlaw x
  | 5 => sidebandFlaw x
  | 6 => awtFlaw s p.visible x
  | 7 => contextsFlaw x p.vfs
  | 8 => oneEntry x
  | 9 => windowsFlaw x p.home p.visible p.vfs p.routed
  | 0xA => meridianFlaw x p.home p.visible p.mask p.wins
  | 0xB => (bakeryFlaw s x).orElse fun _ => claimFlaw x ((p.baks.filter fun e => p.before e.1 n).map (·.2))
  | 0xC => racksFlaw s x (p.racks.filter fun e => p.before e.2.bakery n) (p.bakery n).ovens p.home p.routes
  | 0xD => formatFlaw x
  | 0xE => curvesFlaw x
  | 0xF => programFlaw x (ends (·.prod)) (ends (·.cons)) starters
  | 0x10 => flawIf (decide (0x200000 < imageTarget x + imageLen x)) cLimit (x.d.off + 0x10)
  | 0x11 => startersFlaw x
  | 0x12 => formatFlaw x
  | 0x13 =>
    let others := p.chans.filter fun e => e.1 != n && !(decide (n < e.1) && p.own.contains e.1)
    streamFlaw s x (p.chanOwner n) (others.map (·.2)) (p.groups.map fun e => (e.1, e.2.gen)) p.wins
  | 0x14 => timingFlaw s x (p.chans.map (·.1)) ((p.groups.filter fun e => decide (e.2.gen < n)).map (·.1))
  | 0x15 => videoFlaw s x p.gens (p.chans.map (·.2))
  | 0x16 => orbitFlaw x
  | 0x17 => nightwatchFlaw x
  | 0x18 => procFlaw x (((secsOf 0x18 xs).filter fun y => decide (y.d.inst < n)).map fun y => y.count - 1).sum
  | 0x19 => dramImageFlaw s p x
  | _ => none

/-- The structural checks of one section. -/
def sectFlaw (s : State) (p : Plan) (xs : List Sect) (x : Sect) : Option Flaw :=
  match entrySize x.d.ty with
  | none => some (cUnknownType, x.dirAt 0)
  | some es =>
    (match es with
      | some n => flawIf (x.esize != n) cBody (x.d.off + 8)
      | none => imageFlaw x).orElse fun _ =>
    (instFlaw s x).orElse fun _ =>
    (scopeFlaw p x).orElse fun _ =>
    (ownerFlaw p x).orElse fun _ => typeFlaw s p xs x

/-- The first section that a check fails, with its fault. -/
def firstReject (g : Sect → Option Flaw) : List Sect → Option Reject
  | [] => none
  | x :: xs => match g x with
    | some (c, o) => some ⟨c, x.idx, o⟩
    | none => firstReject g xs

/-! ## Pass 1 (R112) -/

/-- A fault outside every section (R114). -/
def headReject (f : Option Flaw) : Option Reject := f.map fun (c, o) => ⟨c, 0xFFFF, o⟩

/-- A full Recipe without GLOBAL (R117). -/
def globalFlaw (c : LoadCmd) (xs : List Sect) : Option Flaw :=
  flawIf (c.patch.isNone && (secOf 1 xs).isNone) cLimit 0x16

/-- The first failure of pass 1, in the order of R112. -/
def pass1 (s : State) (c : LoadCmd) (bytes : List Byte) : Option Reject :=
  (headReject (headerFlaw s c bytes)).orElse fun _ =>
  let dir := dirOf bytes
  let sig := leAt 0xC 4 bytes
  (dirFlaw dir.length sig [] 0 dir).orElse fun _ =>
  let xs := sections dir bytes
  (firstReject bodyFlaw xs).orElse fun _ =>
  (headReject (globalFlaw c xs)).orElse fun _ =>
  let p := planOf s c xs
  (firstReject (sectFlaw s p xs) xs).orElse fun _ =>
  (headReject (signatureFlaw s sig bytes)).orElse fun _ =>
  firstReject (fun x => if x.d.ty = 0x1A then keyfuseFlaw s (recipeHead s bytes) x else none) xs

end Sys2Proof.Machine
end

