-- ==== Sys2Proof/Machine/Pace.lean ====
section
/-! DEFINITION. Pace, the governor of VDD_HEARTH (R54–R87). Voltages are in mV, powers in 0.125 W. -/
namespace Sys2Proof.Machine

/-- Pace with a change. -/
def onPace (g : PaceState → PaceState) (s : State) : State := { s with pace := g s.pace }

/-- An event bit is set: PACE_EVT_SEQ advances, on vector 3 (R83, R84). -/
def paceEvent (f : Fld) (s : State) : State := advanceSeq Fld.PACE_EVT_SEQ_SEQ 3 (s.fset f 1)

/-! ## The voltage of a tick (R61–R71) -/

/-- The typical rate T(V) of R52 and R62 in Mhc/s × 15. -/
def typRate15 (mv : Nat) : Nat :=
  if mv ≤ 600 then 14250
  else if mv ≤ 675 then 14250 + (mv - 600) * 46
  else if mv ≤ 750 then 17700 + (mv - 675) * 44
  else if mv ≤ 825 then 21000 + (mv - 750) * 44
  else if mv < 900 then 24300 + (mv - 825) * 36
  else 27000

/-- Whether a voltage gives an active Oven its required rate (R61, R62). -/
def satisfied (p : PaceSnap) (vNow v : Nat) (d : PaceDemand) : Bool :=
  decide (256000 * d.work * typRate15 vNow ≤ d.rate * typRate15 (v - p.vdroop) * d.period * (256 - p.guard))

/-- The voltage grid of R51. -/
def vGrid : List Nat := (List.range 61).map fun k => 600 + 5 * k

/-- V_dl, and whether it satisfies every active Oven (R63). -/
def vDeadline (p : PaceSnap) (vNow : Nat) : Nat × Bool :=
  match vGrid.find? fun v => p.demands.all (satisfied p vNow v) with
  | some v => (v, true)
  | none => (900, false)

/-- The floor (R64). -/
def vFloor (p : PaceSnap) : Nat :=
  let m := 600 + 5 * p.vmin
  if p.background then max m (600 + 5 * p.vbg) else m

/-- Whether P(V) lies within the effective ceiling (R65–R67; DEDUCED, log entry 28). -/
def withinCeil (q : PaceState) (vNow v : Nat) : Bool :=
  decide (2048 * q.products.sum * v ^ 3 ≤ q.snap.ceil * q.products.length * vNow ^ 3 * 100000) || q.products.isEmpty

/-- V_cap (R66). -/
def vCap (q : PaceState) (vNow : Nat) : Nat := (vGrid.reverse.find? (withinCeil q vNow)).getD 600

/-- The wanted voltage of a mode before the limits, and its BINDING (R69, R71). -/
def modeWant (p : PaceSnap) (vNow : Nat) : Nat × Nat :=
  match p.mode with
  | 0 =>
    if p.demands.isEmpty then (vFloor p, 0)
    else
      let (d, all) := vDeadline p vNow
      if d < vFloor p then (vFloor p, 0) else (d, if all then 1 else 5)
  | 1 => (900, 5)
  | _ => (600 + 5 * p.vfix, 4)

/-- The command of a tick and BINDING (R66–R71). At 0.600 V R68 has no further effect (R66). -/
def paceCommand (q : PaceState) (vNow : Nat) : Nat × Nat :=
  let p := q.snap
  let (want, why) := modeWant p vNow
  let v := min want (vCap q vNow)
  let beyond := !(withinCeil q vNow vNow)
  let w := if beyond then min v (max 600 (vNow - 5)) else v
  let why := if w < want then 2 else why
  let w := if q.throttling then min w (vNow - 10) else w
  let why := if q.throttling then 3 else why
  let w := max w (vNow - (if q.throttling then 10 else 5))
  let w := min w (vNow + 25)
  let w := min (max w 600) 900
  (if vNow < w then w / 5 * 5 else if w < vNow then (w + 4) / 5 * 5 else w, why)

/-- The Bakeries that a voltage leaves short (R63). -/
def shortMask (p : PaceSnap) (vNow v : Nat) : Nat :=
  (List.range 16).foldl (fun n b =>
    if p.demands.any fun d => d.bakery == b && !(satisfied p vNow v d) then n + 2 ^ b else n) 0

/-! ## AVSBus (R72–R74, R164) -/

/-- Cmd × 16 + CmdDataType of a transaction, and the data it carries (R72). -/
def AvsTx.code : AvsTx → Nat × Nat
  | .writeV mv => (0x00, mv)
  | .readV => (0x30, 0)
  | .readI => (0x32, 0)
  | .readT => (0x33, 0)
  | .readS => (0x3E, 0)

/-- The first transaction that is left goes out, to the rail that RAIL selects (R72). -/
def avsSend (s : State) : State :=
  match s.pace.txq with
  | t :: _ => s.out (.avs s.pace.snap.rail t.code.1 t.code.2)
  | [] => s

/-- HEARTH_VOK becomes 1 at a read-back of 0.600 V or more (R164). -/
def voltGood (mv : Nat) (s : State) : State :=
  if !s.pwr.vok && decide (600 ≤ mv) then { s with pwr := { s.pwr with vok := true } } else s

/-- P_AVG and its register, rounded down (R65). -/
def showPower (s : State) : State :=
  let q := s.pace
  s.fset Fld.PACE_POWER_P_AVG (min 2047 (8 * q.products.sum / (100000 * max 1 q.products.length)))

/-- SHORT takes a value (R63, R80). -/
def setShort (m : Nat) (s : State) : State :=
  let old := s.fget Fld.PACE_SHORT_SHORT
  let s := (s.fset Fld.PACE_SHORT_SHORT m).fset Fld.PACE_STATUS_SHORT_ANY (if m = 0 then 0 else 1)
  if (List.range 16).any fun b => m.testBit b && !(old.testBit b) then paceEvent Fld.PACE_EVENTS_SHORTFALL s else s

/-- BINDING takes a value (R71, R83). -/
def setBinding (b : Nat) (s : State) : State :=
  let old := s.fget Fld.PACE_STATUS_BINDING
  let s := s.fset Fld.PACE_STATUS_BINDING b
  if b = 2 ∧ old ≠ 2 then paceEvent Fld.PACE_EVENTS_CEIL_BOUND s else s

/-- SHORT in a tick that computes no voltage: the bits stay but for the Bakeries whose Ovens are all satisfied, those of a Bakery
without an active Oven among them (R80; DEDUCED, log entry 28). -/
def keepShort (m : Nat) (s : State) : State := setShort (s.fget Fld.PACE_SHORT_SHORT &&& m) s

/-- The Bakeries that ask for a rate in a tick. -/
def askMask (p : PaceSnap) : Nat :=
  (List.range 16).foldl (fun n b => if p.demands.any fun d => d.bakery == b && decide (0 < d.work) then n + 2 ^ b else n) 0

/-- BINDING in a tick without V_now, which has no V_dl: what the mode and R75 leave (DESIGN CHOICE, log entry 28). -/
def bindingIdle (q : PaceState) : Nat :=
  if q.throttling then 3 else match q.snap.mode with | 0 => 0 | 1 => 5 | _ => 4

/-- The rail current of a tick has been read, or that has failed, or the tick reads none: the target voltage is computed, and a
voltage write comes next if the command differs from V_now (R70). -/
def paceDecide (s : State) : State :=
  match s.pace.vNow with
  | none => keepShort (askMask s.pace.snap) (setBinding (bindingIdle s.pace) s)
  | some vn =>
    if s.pace.hold then keepShort (shortMask s.pace.snap vn vn) (setBinding 6 s)
    else
      let (v, why) := paceCommand s.pace vn
      let s := setShort (shortMask s.pace.snap vn v) (setBinding why s)
      if v = vn then s else onPace (fun q => { q with txq := .writeV v :: q.txq }) s

/-- A transaction has succeeded (R65, R70, R74, R164). The temperature word is read as signed, and REG_TEMP of one below 0 °C is
0 (DESIGN CHOICE, log entry 28). -/
def avsOk (t : AvsTx) (data : Nat) (s : State) : State :=
  match t with
  | .writeV mv => (onPace (fun q => { q with vNow := some mv }) s).fset Fld.PACE_VOLT_VCMD mv
  | .readV =>
    let s := voltGood data (s.fset Fld.PACE_VOLT_VREAD data)
    if s.pace.vNow.isNone then onPace (fun q => { q with vNow := some data }) s
    else if s.pace.hold then
      (onPace (fun q => { q with vNow := some data, hold := false, failing := 0 }) s).fset Fld.PACE_STATUS_REG_FAULT 0
    else s
  | .readI =>
    let s := if s.pace.hold then s else
      showPower (onPace (fun q => { q with products := ((q.vNow.getD 0 * data) :: q.products).take 10 }) s)
    paceDecide s
  | .readT => s.fset Fld.PACE_TEMP_REG_TEMP (min 1023 (divNearestEven (max 0 (signedOf 16 data) * 2) 5).toNat)
  | .readS => s.fset Fld.PACE_REGSTAT_STATUS data

/-- The tick's transactions have ended: the third consecutive failing tick sets REG_FAULT (R74). -/
def paceEnd (s : State) : State :=
  let q := s.pace
  if !q.counts then s
  else
    let n := if q.failed then q.failing + 1 else 0
    if 3 ≤ n then
      paceEvent Fld.PACE_EVENTS_REG_FAULT
        ((onPace (fun q => { q with hold := true, failing := 0 }) s).fset Fld.PACE_STATUS_REG_FAULT 1)
    else onPace (fun q => { q with failing := n }) s

/-- The next transaction of the tick goes out, or the tick ends. -/
def avsNext (s : State) : State := if s.pace.txq.isEmpty then paceEnd s else avsSend s

/-- An attempt has answered or timed out (R74). -/
def avsAttempt (good : Bool) (data : Nat) (s : State) : State :=
  match s.pace.txq with
  | [] => s
  | t :: rest =>
    let drop (s : State) : State := onPace (fun q => { q with txq := rest, tried := 0 }) s
    if good then avsNext (avsOk t data (drop s))
    else
      let s := s.fsat Fld.PACE_REGSTAT_FAIL_CNT
      if s.pace.tried < 3 then avsSend (onPace (fun q => { q with tried := q.tried + 1 }) s)
      else
        let s := onPace (fun q => { q with failed := true }) (drop s)
        avsNext (match t with
          | .readI => paceDecide s
          | _ => s)

def execAvsAttemptDone (good : Bool) (data : BitVec 16) (s : State) : Host.Outcome State Fault Refusal :=
  ok (fun s => if s.on 158 then avsAttempt good data.toNat s else s) s

/-- HEARTH_EN falls: no more transactions, no hold; the next rise starts from a first read-back (R74, R164). P_avg stands
(R65). -/
def paceEnLow (s : State) : State :=
  let s := onPace (fun q => { q with
    txq := [], tried := 0, failed := false, counts := false, failing := 0, hold := false, vNow := none }) s
  if s.on 158 then s.fset Fld.PACE_STATUS_REG_FAULT 0 else s

/-- HEARTH_EN rises: P_avg starts again (R65). -/
def paceEnHigh (s : State) : State :=
  let s := onPace (fun q => { q with products := [] }) s
  if s.on 158 then showPower s else s

/-! ## The tick (R54–R60, R67, R75, R77, R78) -/

/-- RISE_CUT at the end of a window (R78), and the window that follows. -/
def riseWindow (s : State) : State :=
  let q := s.pace
  let first := q.winFirst.getD q.winLast
  let cut := s.fget Fld.PACE_COOL_RISE_CUT
  let cut' := if q.winFull ≠ 0 ∧ first + 2 ≤ q.winLast then min 128 (cut + s.fget Fld.PACE_COOLCFG_RISE_STEP)
    else if s.fget Fld.PACE_COOL_FULL_FANS = 0 ∨ q.winLast + 2 ≤ first then cut - 1 else cut
  onPace (fun q => { q with winStart := q.winStart + 1000, winFull := 15, winFirst := none })
    (s.fset Fld.PACE_COOL_RISE_CUT cut')

/-- The window's 1,000 tick boundaries have passed, skipped ones included, and the tick of the last one has been taken. -/
def windowOver (q : PaceState) : Bool :=
  decide (q.winStart + 1000 < q.bounds) || (decide (q.winStart + 1000 = q.bounds) && !q.due)

def execRiseCutWindow (s : State) : Host.Outcome State Fault Refusal :=
  ok (fun s => if s.on 158 && windowOver s.pace then riseWindow s else s) s

/-- The Sentinels and sensors are sampled (R54–R57): PACE_SENT, and Tj_max with the lowest source that reads it. PACE_SENT of an
Oven that leaves ON between ticks reads zero from the next tick on (DESIGN CHOICE, log entry 28). -/
def paceSample (sent : List (Nat × Nat)) (crust : List Nat) (s : State) : State :=
  let put (s : State) (n : Nat) : State :=
    if s.on n then
      let (r, t) := sent.getD n (0, 0)
      ((s.fset (Fld.PACE_SENT_RATE n) (min 4095 r)).fset (Fld.PACE_SENT_TEMP n) (min 1023 t)).fset (Fld.PACE_SENT_VALID n) 1
    else s.setReg (Reg.PACE_SENT n) 0
  let s := (List.range 48).foldl put s
  let temps := ((List.range 48).filterMap fun n =>
      if s.on n then some (n, s.fget (Fld.PACE_SENT_TEMP n)) else none) ++
    (List.range 4).map fun i => (48 + i, min 1023 (crust.getD i 0))
  let (src, tj) := temps.foldl (fun (m : Nat × Nat) (e : Nat × Nat) => if m.2 < e.2 then e else m) (temps.headD (48, 0))
  (s.fset Fld.PACE_TEMP_TJ_MAX tj).fset Fld.PACE_TEMP_HOT_SRC src

/-- Throttling begins at 100 °C and ends at 98 °C (R75). -/
def paceThrottle (s : State) : State :=
  let tj := s.fget Fld.PACE_TEMP_TJ_MAX
  if !s.pace.throttling && decide (400 ≤ tj) then
    paceEvent Fld.PACE_EVENTS_THROTTLE_ON
      ((onPace (fun q => { q with throttling := true }) s).fset Fld.PACE_STATUS_THROTTLE 1)
  else if s.pace.throttling && decide (tj ≤ 392) then
    paceEvent Fld.PACE_EVENTS_THROTTLE_OFF
      ((onPace (fun q => { q with throttling := false }) s).fset Fld.PACE_STATUS_THROTTLE 0)
  else s

/-- Whether a job has not yet completed: it waits, or runs (R60, R64). -/
def Job.unfinished (j : Job) : Bool := j.phase == .waiting || j.phase == .ticket || j.phase == .running

/-- Whether a Bakery holds a Frame job that has been submitted and not yet completed (R60, R82). A copy is no job of a Bakery's
Ovens, and does not count (DESIGN CHOICE, log entry 28). -/
def frameActive (s : State) (b : Nat) : Bool :=
  !(spGet Bakery.none s.fab.baks b).quiesced &&
    s.ctx.jobs.any fun j => j.unfinished && j.cls == 0 && j.copy.isNone && j.bakery == some b

/-- The active Ovens of a tick: Oven and Bakery (R60, R85). -/
def activeOvens (s : State) : List (Nat × Nat) :=
  (List.range 16).flatMap fun b =>
    if s.fget (Fld.PACE_BREF_EN b) = 1 && frameActive s b then
      (spGet Bakery.none s.fab.baks b).ovens.map fun n => (n, b)
    else []

/-- The cut of R67 in 1/256 of CEIL_RCP. -/
def coolCut (s : State) : Nat :=
  (List.range 4).countP (fun c => (s.fget Fld.PACE_COOL_FAULT_FANS).testBit c) * s.fget Fld.PACE_COOLCFG_FAN_CUT +
    s.fget Fld.PACE_COOL_RISE_CUT

/-- CEIL_EFF × 256 (R67, R79). -/
def ceilEff (s : State) : Nat :=
  let rcp := s.fget Fld.PACE_CEIL_CEIL_RCP
  max (120 * 256) (min rcp (s.fget Fld.PACE_CEIL_CEIL_HOST) * 256 - coolCut s * rcp)

/-- The inputs of the tick (R59): a powered-down Oven contributes nothing (R57; DEDUCED, log entry 28). Prompt and Bulk work is
jobs and copies (R64 says jobs: DESIGN CHOICE, log entry 28). -/
def paceSnap (s : State) : PaceSnap :=
  { mode := s.fget Fld.PACE_CTRL_MODE, vmin := s.fget Fld.PACE_VSET_VMIN, vbg := s.fget Fld.PACE_VSET_VBG
    vfix := s.fget Fld.PACE_VSET_VFIX, guard := s.fget Fld.PACE_MARGIN_GUARD, vdroop := s.fget Fld.PACE_AVS_VDROOP
    rail := s.fget Fld.PACE_AVS_RAIL, ceil := ceilEff s, background := s.ctx.jobs.any fun j => j.unfinished && j.cls != 0
    demands := (activeOvens s).filterMap fun (n, b) =>
      if s.on n then some ⟨b, s.fget (Fld.PACE_SENT_RATE n), s.fget (Fld.PACE_WORK_WORK n),
        (otgPeriod s (s.fget (Fld.PACE_BREF_GEN b))).toNat⟩
      else none }

/-- What took effect since the latest tick takes effect now: acknowledgements and Orbit's report (R59, R84). -/
def paceLatch (s : State) : State :=
  let s := s.pace.acks.foldl (fun s v => if v = s.reg Reg.PACE_EVT_SEQ then s.setReg Reg.PACE_EVENTS 0 else s) s
  let s := (s.fset Fld.PACE_COOL_FAULT_FANS s.pace.report.1).fset Fld.PACE_COOL_FULL_FANS s.pace.report.2
  onPace (fun q => { q with acks := [] }) s

/-- The window of R78 takes in a tick. -/
def paceWindow (s : State) : State :=
  let tj := s.fget Fld.PACE_TEMP_TJ_MAX
  onPace (fun q => { q with
    winFull := q.winFull &&& s.fget Fld.PACE_COOL_FULL_FANS, winFirst := some (q.winFirst.getD tj), winLast := tj }) s

/-- The effective ceiling of the tick, and COOL_CUT when the cut has changed (R67). -/
def paceCeil (s : State) : State :=
  let cut := coolCut s
  let s := s.fset Fld.PACE_POWER_CEIL_EFF (ceilEff s / 256)
  if cut = s.pace.cut then s else paceEvent Fld.PACE_EVENTS_COOL_CUT (onPace (fun q => { q with cut := cut }) s)

/-- The transactions of the tick are set out, and the first goes out (R72, R74). A tick that begins under the hold is no failing
tick, the one in which a read-back ends the hold included (DESIGN CHOICE, log entry 28). -/
def paceIssue (s : State) : State :=
  let n := s.pace.ticks + 1
  let l := if !s.pwr.pins.hearthEn then []
    else if s.pace.vNow.isNone then [AvsTx.readV]
    else [.readI, .readV] ++ (if n % 10 = 0 then [.readT, .readS] else [])
  avsSend (onPace (fun q => { q with
    ticks := n, txq := l, tried := 0, failed := false, counts := q.vNow.isSome && !q.hold && !l.isEmpty }) s)

/-- A tick (R58), which the latest boundary has started: the samples are the command's. A window that is over is judged first,
on the reports that it took (R78). -/
def paceTick (sent : List (Nat × Nat)) (crust : List Nat) (s : State) : State :=
  if !(s.on 158) || !s.pace.due then s
  else
    let s := if windowOver s.pace then riseWindow s else s
    let s := paceLatch (onPace (fun q => { q with due := false }) s)
    let s := paceThrottle (paceSample sent crust s)
    let s := orbTick (s.fget Fld.PACE_TEMP_TJ_MAX) s
    let s := paceCeil (paceWindow s)
    let s := s.fset Fld.PACE_STATUS_ACTIVE (if (activeOvens s).isEmpty then 0 else 1)
    let s := onPace (fun q => { q with snap := paceSnap s, report := orbReport s }) s
    let s := paceIssue s
    if s.pace.vNow.isNone then paceDecide s else s

def execPaceTick (sent : List (Nat × Nat)) (crust : List Nat) (s : State) : Host.Outcome State Fault Refusal :=
  ok (paceTick sent crust) s

/-- A write of PACE_EVT_ACK, which takes effect at the start of the next tick (R59, R84). -/
def actPaceAck (v : Word) (s : State) : State := onPace (fun q => { q with acks := q.acks ++ [v] }) s

def execPaceEvtAck (f : HostFn) (seq : Word) (s : State) : Host.Outcome State Fault Refusal :=
  ok (hostWrite f Reg.PACE_EVT_ACK (actPaceAck seq)) s

end Sys2Proof.Machine
end

