-- ==== Sys2Proof/Machine/Sideband.lean ====
section
/-! DEFINITION. Sideband target, SPI pass-through, GPIO and boundary scan (R454–R468). -/
namespace Sys2Proof.Machine

/-- The outcome of an I3C, GPIO or TAP command: nothing happens while CRUST_AON is not powered (R454, R465, R577). -/
def okAon (f : State → State) (s : State) : Host.Outcome State Fault Refusal :=
  ok (fun s => if s.on 111 then f s else s) s

/-- SBD_EVT_SEQ advances, on vector 28 (R468). -/
def sbdEvent (s : State) : State := advanceSeq Fld.SBD_EVT_SEQ_SEQ 28 s

/-! ## In-band interrupts (R458) -/

/-- EVTSEQ has advanced: an IBI with data byte 0x01, merged into a pending one. -/
def ibiEvt (s : State) : State :=
  if s.fget Fld.SBD_SB_STATUS_IBI_EN = 1 && !s.side.ibiEvt then
    State.out (.ibi 1) { s with side := { s.side with ibiEvt := true } }
  else s

/-- FROMSEQ has advanced: an IBI with data byte 0x02, merged into a pending one. -/
def ibiFrom (s : State) : State :=
  if s.fget Fld.SBD_SB_STATUS_IBI_EN = 1 && !s.side.ibiFrom then
    State.out (.ibi 2) { s with side := { s.side with ibiFrom := true } }
  else s

/-! ## I3C common command codes (R454, R455) -/

/-- The target takes a dynamic address and is in I3C mode (R454). -/
def takeDa (addr : BitVec 7) (s : State) : State :=
  State.out (.sideband true []) ((s.fset Fld.SBD_SB_STATUS_DA addr.toNat).fset Fld.SBD_SB_STATUS_I3C 1)

/-- The target does not acknowledge. -/
def sbNack (s : State) : State := s.out (.sideband false [])

/-- The answer of the target in I3C mode; it is not addressed by a dynamic address in I²C mode (R454). -/
def sbReply (data : List Byte) (s : State) : State :=
  if s.fget Fld.SBD_SB_STATUS_I3C = 1 then s.out (.sideband true data) else sbNack s

def execEntdaa (addr : BitVec 7) (s : State) : Host.Outcome State Fault Refusal :=
  okAon (fun s => if s.fget Fld.SBD_SB_STATUS_DA = 0 then takeDa addr s else sbNack s) s

def execSetdasa (sa addr : BitVec 7) (s : State) : Host.Outcome State Fault Refusal :=
  okAon (fun s => if s.fget Fld.SBD_SB_STATUS_DA = 0 && sa == s.staticAddr then takeDa addr s else sbNack s) s

def execSetnewda (addr : BitVec 7) (s : State) : Host.Outcome State Fault Refusal :=
  okAon (fun s => if s.fget Fld.SBD_SB_STATUS_DA = 0 then sbNack s else takeDa addr s) s

/-- RSTDAA returns the target to I²C mode at its static address (R454, R455). -/
def execRstdaa (s : State) : Host.Outcome State Fault Refusal :=
  okAon (fun s => State.out (.sideband true [])
    ((s.fset Fld.SBD_SB_STATUS_DA 0).fset Fld.SBD_SB_STATUS_I3C 0)) s

def execEnec (s : State) : Host.Outcome State Fault Refusal :=
  okAon (fun s => State.out (.sideband true []) (s.fset Fld.SBD_SB_STATUS_IBI_EN 1)) s

/-- DISEC disables IBIs; a pending one is no longer retried (R458). -/
def execDisec (s : State) : Host.Outcome State Fault Refusal :=
  okAon (fun s => State.out (.sideband true [])
    { s.fset Fld.SBD_SB_STATUS_IBI_EN 0 with side := { s.side with ibiEvt := false, ibiFrom := false } }) s

/-- The provisional ID (R454), most significant byte first. -/
def provisionalId (addrSel : Bool) : List Byte :=
  (leBytes 6 (0x0E5A * 2 ^ 33 + 0x4601 * 2 ^ 16 + (if addrSel then 2 ^ 12 else 0))).reverse

def execGetpid (s : State) : Host.Outcome State Fault Refusal :=
  okAon (fun s => sbReply (provisionalId s.pwr.addrSel) s) s

def execGetbcr (s : State) : Host.Outcome State Fault Refusal := okAon (sbReply [0x06]) s

def execGetdcr (s : State) : Host.Outcome State Fault Refusal := okAon (sbReply [0x00]) s

/-- GETSTATUS: the spec names the answer and gives no value of it; its two bytes are free (DESIGN CHOICE, log entry 4). -/
def execGetstatus (s : State) : Host.Outcome State Fault Refusal :=
  okAon (fun s => let (w, s) := s.free; sbReply (leBytes 2 w.toNat) s) s

def execGetmwl (s : State) : Host.Outcome State Fault Refusal :=
  okAon (fun s => sbReply (leBytes 2 s.side.mwl).reverse s) s

def execGetmrl (s : State) : Host.Outcome State Fault Refusal :=
  okAon (fun s => sbReply (leBytes 2 s.side.mrl).reverse s) s

def execSetmwl (n : BitVec 16) (s : State) : Host.Outcome State Fault Refusal :=
  okAon (fun s => State.out (.sideband true []) { s with side := { s.side with mwl := n.toNat } }) s

def execSetmrl (n : BitVec 16) (s : State) : Host.Outcome State Fault Refusal :=
  okAon (fun s => State.out (.sideband true []) { s with side := { s.side with mrl := n.toNat } }) s

/-! ## The sideband map (R456, R457) -/

/-- TRIG: a start request for a Procedure that SB_TRIG_MASK allows (R457). -/
def execSbTrig (proc : Fin 64) (arg : BitVec 16) (s : State) : Host.Outcome State Fault Refusal :=
  okAon (fun s =>
    if s.side.trigMask.testBit proc.val then startRequest proc.val 0x42 (BitVec.ofNat 32 arg.toNat) s
    else s.fsat Fld.SBD_SB_TRIGDROP_COUNT) s

/-- TOHOST: SBD_SB_FROMSB takes the message, and its SEQ and SBD_EVT_SEQ advance (R456, R468). -/
def execSbTohost (msg : Word) (s : State) : Host.Outcome State Fault Refusal :=
  okAon (fun s => sbdEvent ((s.setReg Reg.SBD_SB_FROMSB msg).fadd Fld.SBD_SB_FROMSB_SEQ_SEQ 1)) s

/-- The action of SBD_SB_TOSB: FROMHOST takes the message and FROMSEQ advances (R456, R458). -/
def actTosb (msg : Word) (s : State) : State :=
  ibiFrom ({ s with side := { s.side with fromHost := msg } }.fadd Fld.SBD_SB_TOSB_SEQ_SEQ 1)

def execSbTosb (f : HostFn) (msg : Word) (s : State) : Host.Outcome State Fault Refusal :=
  ok (hostWrite f Reg.SBD_SB_TOSB (actTosb msg)) s

/-- A pending IBI is tried again; an accepted one is no longer pending (R458). -/
def execIbiRetry (accepted : Bool) (s : State) : Host.Outcome State Fault Refusal :=
  okAon (fun s =>
    if s.side.ibiEvt then State.out (.ibi 1) { s with side := { s.side with ibiEvt := !accepted } }
    else if s.side.ibiFrom then State.out (.ibi 2) { s with side := { s.side with ibiFrom := !accepted } }
    else s) s

/-! ## SPI pass-through (R460) -/

/-- A load or pass 3 from the flash runs (R460). -/
def flashLoading (s : State) : Bool :=
  match s.rcp.run with
  | some r => r.kind == 0 || (r.kind == 3 && s.fget Fld.RCP_STATUS_SOURCE != 3)
  | none => false

/-- The bytes of SBD_SPI_DATA (R468). -/
def spiBytes (s : State) (n : Nat) : List Byte :=
  ((List.range 64).flatMap fun k => leBytes 4 (s.reg (Reg.SBD_SPI_DATA k)).toNat).take n

/-- The action of SBD_SPI_GO: one flash command, or a drop (R460). -/
def actSpiGo (len seq : Nat) (s : State) : State :=
  if s.side.spiBusy.isSome || flashLoading s then s.fsat Fld.SBD_SPI_DROPS_COUNT
  else
    let n := min len 256
    let rd := s.fget Fld.SBD_SPI_CMD_READ = 1
    let ab := match s.fget Fld.SBD_SPI_CMD_ADDR_BYTES with | 0 => 0 | 1 => 3 | _ => 4
    let addr := (leBytes ab (s.reg Reg.SBD_SPI_ADDR).toNat).reverse
    State.out (.spi (s.fget Fld.SBD_SPI_CMD_OPCODE) addr (s.fget Fld.SBD_SPI_CMD_DUMMY)
        (if rd then [] else spiBytes s n) (if rd then n else 0))
      { s with side := { s.side with spiBusy := some (seq, rd, n) } }

def execSpiGo (f : HostFn) (len : BitVec 9) (seq : BitVec 16) (s : State) : Host.Outcome State Fault Refusal :=
  ok (hostWrite f Reg.SBD_SPI_GO (actSpiGo len.toNat seq.toNat)) s

/-- The words of SBD_SPI_DATA with bytes read from the flash put from byte 0. -/
def putSpiBytes (data : List Byte) (s : State) : State :=
  let all := data ++ ((List.range 64).flatMap fun k => leBytes 4 (s.reg (Reg.SBD_SPI_DATA k)).toNat).drop data.length
  (List.range 64).foldl (fun s k => s.setReg (Reg.SBD_SPI_DATA k) (BitVec.ofNat 32 (leAt (4 * k) 4 all))) s

/-- A pass-through command completes: the data of a read, SBD_SPI_RESULT, and SBD_EVT_SEQ (R460, R468). -/
def execSpiPassthroughDone (data : List Byte) (s : State) : Host.Outcome State Fault Refusal :=
  okAon (fun s =>
    match s.side.spiBusy with
    | none => s
    | some (seq, rd, n) =>
      let s := { s with side := { s.side with spiBusy := none } }
      let s := if rd then putSpiBytes (data.take n) s else s
      sbdEvent ((s.fset Fld.SBD_SPI_RESULT_SEQ seq).fset Fld.SBD_SPI_RESULT_DONE 1)) s

/-! ## GPIO (R462–R464) -/

/-- Whether EDGECFG selects the edge of a GPIO to a level (R464). -/
def edgeSelected (s : State) (i : Nat) (level : Bool) : Bool :=
  let c := (s.reg Reg.SBD_GPIO_EDGECFG).toNat / 4 ^ i % 4
  if level then c.testBit 0 else c.testBit 1

/-- What follows a change of pin levels from `old`: Zenith's input 6 changes, and a selected edge begins its 1 µs of
stability; an edge undone before that no longer counts (R179, R464). -/
def gpioChanged (old : Nat) (s : State) : State :=
  let new := gpioLevels s
  if old = new then s
  else
    let edges := (List.range 16).foldl (fun l i =>
      if old.testBit i == new.testBit i then l
      else
        let l := spDel i l
        if edgeSelected s i (new.testBit i) then spPut i s.mono l else l) s.side.edgeAt
    { s with side := { s.side with edgeAt := edges } }

/-- A change of the GPIO registers or pins. -/
def gpioUpdate (g : State → State) (s : State) : State := gpioChanged (gpioLevels s) (g s)

/-- The actions of SBD_GPIO_SET and SBD_GPIO_CLR (R463). -/
def actGpioSet (b : Nat) (s : State) : State :=
  gpioUpdate (fun s => s.fset Fld.SBD_GPIO_OUT_OUT (s.fget Fld.SBD_GPIO_OUT_OUT ||| b)) s
def actGpioClr (b : Nat) (s : State) : State :=
  gpioUpdate (fun s => s.fset Fld.SBD_GPIO_OUT_OUT (s.fget Fld.SBD_GPIO_OUT_OUT &&& (0xFFFF - b))) s

def execGpioSet (f : HostFn) (bits : BitVec 16) (s : State) : Host.Outcome State Fault Refusal :=
  ok (hostWrite f Reg.SBD_GPIO_SET (actGpioSet bits.toNat)) s

def execGpioClr (f : HostFn) (bits : BitVec 16) (s : State) : Host.Outcome State Fault Refusal :=
  ok (hostWrite f Reg.SBD_GPIO_CLR (actGpioClr bits.toNat)) s

/-- An edge that has been stable for 1 µs counts (R464). -/
def execGpioEdge (i : Fin 16) (s : State) : Host.Outcome State Fault Refusal :=
  okAon (fun s =>
    match s.side.edgeAt.lookup i.val with
    | none => s
    | some t =>
      if s.mono < t + 1000 then s
      else
        let s := { s with side := { s.side with edgeAt := spDel i.val s.side.edgeAt } }
        sbdEvent (s.fset Fld.SBD_GPIO_EVT_EDGE (putBit i.val true (s.fget Fld.SBD_GPIO_EVT_EDGE)))) s

/-- The action of SBD_EVT_ACK: the present SEQ clears SBD_GPIO_EVT (R464). -/
def actSbdEvtAck (v : Word) (s : State) : State :=
  if v = s.reg Reg.SBD_EVT_SEQ then s.setReg Reg.SBD_GPIO_EVT 0 else s

def execSbdEvtAck (f : HostFn) (seq : Word) (s : State) : Host.Outcome State Fault Refusal :=
  ok (hostWrite f Reg.SBD_EVT_ACK (actSbdEvtAck seq)) s

/-- A GPIO's external level changes (R462, R464). -/
def execGpioInputChange (i : Fin 16) (level : Bool) (s : State) : Host.Outcome State Fault Refusal :=
  ok (gpioUpdate fun s => { s with side := { s.side with gpioExt := putBit i.val level s.side.gpioExt } }) s

/-! ## Boundary scan (R465) -/

/-- The TAP takes an instruction. -/
def setTap (t : TapInstr) (s : State) : State := { s with side := { s.side with tap := t } }

def execTapBypass (s : State) : Host.Outcome State Fault Refusal :=
  okAon (fun s => State.out (.tap [false]) (setTap .bypass s)) s

/-- IDCODE selects the identification register, which reads 0x0460_15CF on every ordering code. -/
def execTapIdcode (s : State) : Host.Outcome State Fault Refusal :=
  okAon (fun s => State.out (.tap ((List.range 32).map fun i => Nat.testBit 0x046015CF i)) (setTap .idcode s)) s

def execTapSamplePreload (preload : List Bool) (s : State) : Host.Outcome State Fault Refusal :=
  okAon (fun s => setTap .sample { s with side := { s.side with chain := preload } }) s

/-- EXTEST: the chain drives its pins, which leave their functions; the functions keep running. -/
def execTapExtest (preload : List Bool) (s : State) : Host.Outcome State Fault Refusal :=
  okAon (fun s => setTap .extest { s with side := { s.side with chain := preload } }) s

def execTapClamp (s : State) : Host.Outcome State Fault Refusal :=
  okAon (fun s => State.out (.tap [false]) (setTap .clamp s)) s

def execTapHighz (s : State) : Host.Outcome State Fault Refusal :=
  okAon (fun s => State.out (.tap [false]) (setTap .highz s)) s

/-- TRST_N or the reset sequence of TMS: the pins of the chain return to their functions. -/
def execTapReset (s : State) : Host.Outcome State Fault Refusal := okAon (setTap .idcode) s

/-- Whether boundary scan has taken the chain's pins from their functions (R465). -/
def pinsTaken (s : State) : Bool := s.side.tap == .extest || s.side.tap == .clamp || s.side.tap == .highz

end Sys2Proof.Machine
end

