-- ==== Sys2Proof/Machine/Stops.lean ====
section
/-! DEFINITION. Jobs and passes stopped from outside: FLR, drain limits, Bakery resets (R121, R169, R170, R214, R242). -/
namespace Sys2Proof.Machine

/-- Whether a request belongs to an Oven's pass. -/
def ofOven (n : Nat) (q : MemReq) : Bool :=
  match q.op with
  | .fetch k _ _ _ _ => k == n
  | .flush k _ _ _ _ => k == n
  | _ => false

/-- An Oven leaves a job: its pass stops where it is, with the requests it has waiting, or the job no longer waits for it. -/
def ovenLeaves (id n : Nat) (s : State) : State :=
  let o := s.oven n
  let s := onOven n (fun o => { o with jobs := o.jobs.filter fun k => k != id }) s
  if o.job = some id then
    let s := onOven n (fun o => { o with job := none, disp := [], loops := [], ended := false, taint := false, stopped := true }) s
    { s with fab := { s.fab with reqs := s.fab.reqs.filter fun q => !(ofOven n q) } }
  else s

/-- Every Oven leaves a job. -/
def ovensLeave (id : Nat) (s : State) : State := (s.ovens.map (·.1)).foldl (fun s n => ovenLeaves id n s) s

/-- A job stopped without a record: its channel sees it fail, a Slicer stages it no more, and its reservations are gone (R169,
R214). -/
def killJob (j : Job) (s : State) : State :=
  let s := ovensLeave j.id s
  let s := match j.stream with | some k => onSJob k j.id (fun x => { x with failed := true, finished := false }) s | none => s
  dropJob j.id { s with mem := { s.mem with stage := s.mem.stage.filter fun e => e.2.job != j.id } }

/-- A running job stopped with an outcome (R121, R170). -/
def stopJob (j : Job) (o d : Nat) (s : State) : State :=
  completeJob j.id (onJob j.id (fun j => { j with forced := some (o, d) }) (ovensLeave j.id s))

/-! ## A function's contexts (R169, R350, R381) -/

/-- A context returns to its reset values, but for its owner, with its rings and its due message (R169, R381). -/
def resetCtx (c : Nat) (s : State) : State :=
  let w := s.reg (Reg.CTX_OWNER c)
  let s := (s.resetRegs (Reg.CTX_SQ_BASE_LO c) (Reg.CTX_SQ_BASE_LO c + 64)).setReg (Reg.CTX_OWNER c) w
  { s with ctx := { s.ctx with
      fetchQ := s.ctx.fetchQ.filter (fun e => e.ctx != c)
      laps := spDel c s.ctx.laps
      msgDue := s.ctx.msgDue.filter fun k => k != c } }

/-- A mailbox returns to its reset values, but for its owner (R350, R370). -/
def resetMailbox (m : Nat) (s : State) : State :=
  (s.resetRegs (Reg.MBX_DATA m 0) (Reg.MBX_DATA m 0 + 64)).resetRegs (Reg.MBX_STAT m) (Reg.MBX_STAT m + 8)

/-- The contexts that a function owns. -/
def ownedCtxs (s : State) (f : HostFn) : List Nat := (List.range 1024).filter fun c => ctxOwner s c == some f

/-- The contexts of a function are reset, their jobs stopped, the mailboxes assigned to them reset (R169, R350). -/
def resetContexts (f : HostFn) (s : State) : State :=
  let cs := ownedCtxs s f
  let s := (s.ctx.jobs.filter fun j => cs.contains j.ctx).foldl (fun s j => killJob j s) s
  let s := cs.foldl (fun s c => resetCtx c s) s
  let ms := (List.range 256).filter fun m =>
    s.fget (Fld.MBX_OWNER_OWNED m) = 1 && cs.contains (s.fget (Fld.MBX_OWNER_CTX m))
  let s := ms.foldl (fun s m => resetMailbox m s) s
  proceedAll s.ctx.jobs.length s

end Sys2Proof.Machine
end

