-- ==== Sys2Proof/Machine/Loader.lean ====
section
/-! DEFINITION. The loader: loads, passes 1 to 3, Patches, and the quiescing and draining of a Bakery (R107–R128). -/
namespace Sys2Proof.Machine

/-! ## Results (R113, R114, R126, R127) -/

/-- The state with the running command changed. -/
def onRun (g : RcpRun → RcpRun) (s : State) : State := { s with rcp := { s.rcp with run := s.rcp.run.map g } }

/-- STATE of RCP_STATUS. -/
def setRcp (v : Nat) (s : State) : State := s.fset Fld.RCP_STATUS_STATE v

/-- A command has ended: RCP_RESULT is written, and RCP_EVT_SEQ advances on vector 1 (R126, R127, R369). -/
def rcpResult (cause : Nat) (r : RcpRun) (s : State) : State :=
  advanceSeq Fld.RCP_EVT_SEQ_SEQ 1
    (((s.fset Fld.RCP_RESULT_CAUSE cause).fset Fld.RCP_RESULT_KIND r.kind).fset Fld.RCP_RESULT_SEQ r.seq)

/-- RCP_REJECT and RCP_REJECT_OFF. -/
def setReject (sect off : Nat) (s : State) : State :=
  (s.fset Fld.RCP_REJECT_SECTION sect).fset Fld.RCP_REJECT_OFF_OFFSET off

/-- A rejection: its four effects (R114). -/
def rejectWith (r : RcpRun) (x : Reject) (s : State) : State :=
  rcpResult x.cause r (setReject x.sect x.off (logFault 5 0 0x41A x.sect x.cause x.off s))

/-- A success (DEDUCED, log entry 30 for RCP_REJECT). -/
def succeed (cause : Nat) (r : RcpRun) (s : State) : State := rcpResult cause r (setReject 0 0 s)

/-- STATE of a Bakery: Zenith's input 5 follows (R126, R179). -/
def setBakState (b v : Nat) (s : State) : State := (s.fset (Fld.RCP_BAKERY_STATE b) v)

/-- The command is over, in a STATE. -/
def endRun (v : Nat) (s : State) : State := setRcp v { s with rcp := { s.rcp with run := none } }

/-! ## Starting a command (R110, R111, R120, R123) -/

/-- What is known of a Recipe before its header is read: the header itself is read on one lane at 25 MHz (R110 gives no
clock for it: DESIGN CHOICE, log entry 30). -/
def noHead : RecipeHead := ⟨0, 0, 0, 0, 0, 0, 25⟩

/-- A command as it starts. -/
def newRun (kind seq : Nat) : RcpRun :=
  { kind, seq, copy := 0, magic := false, byZen := false, bakery := 0, before := 0, phase := 0, drainAt := 0
    head := noHead, dir := [], image := [] }

/-- The flash offset of a copy (R110). -/
def copyBase (copy : Nat) : Nat := 0x2000000 * copy

/-- The mode of a read: at most the highest that SFDP announces, and x4 only where no QE bit stands in its way (R110, R459). -/
def flashMode (f : Sfdp) (mode : Nat) : Nat :=
  let m := min mode f.mode.val
  if m = 2 ∧ !f.quad then 1 else m

/-- A read of the flash: command 0x03 with 3-byte addresses at 25 MHz without SFDP, else the fast read of its mode, at a clock
reduced to the highest that SFDP announces, with 4-byte addresses above 16 MiB; where SFDP announces no commands with 4-byte
addresses, 0xB7 before the read and 0xE9 after it (R110, R459). -/
def flashRead (flash : Option Sfdp) (mode mhz off len : Nat) (s : State) : State :=
  match flash with
  | none => s.out (.flashRead 0x03 3 1 25 off len)
  | some f =>
    let m := flashMode f mode
    let go (op : Byte) (bytes : Nat) (s : State) : State := s.out (.flashRead op bytes (2 ^ m) (min mhz f.mhz) off len)
    let three : Byte := match m with | 0 => 0x0B | 1 => 0x3B | _ => 0x6B
    if f.mib ≤ 16 then go three 3 s
    else if f.four then go (match m with | 0 => 0x0C | 1 => 0x3C | _ => 0x6C) 4 s
    else State.out (.flashCmd 0xE9) (go three 4 (s.out (.flashCmd 0xB7)))

/-- MiB of the flash that can be reached: the first 16 without SFDP (R110). -/
def flashMib (flash : Option Sfdp) : Nat := match flash with | none => 16 | some f => f.mib

/-- Whether a command reads the flash: an automatic load, and pass 3 of a Recipe that came from there (R110, R112). -/
def fromFlash (s : State) (r : RcpRun) : Bool := r.kind == 0 || (r.kind == 3 && s.fget Fld.RCP_STATUS_SOURCE != 3)

/-- The copy that it reads there. -/
def flashCopy (s : State) (r : RcpRun) : Nat := if r.kind = 0 then r.copy else s.fget Fld.RCP_STATUS_SOURCE - 1

/-- The loader reads bytes of its source: of the flash, or of the Recipe in host memory over the boot port (R110, R111). -/
def readSource (r : RcpRun) (off len : Nat) (s : State) : State :=
  if fromFlash s r then flashRead s.rcp.flash r.head.spiMode r.head.spiMhz (copyBase (flashCopy s r) + off) len s
  else s.out (.hostRead s.bootPort 0 (s.fget Fld.RCP_SRC_LO_ADDR * 64 + 2 ^ 32 * s.fget Fld.RCP_SRC_HI_ADDR + off) len 0)

/-- What the source can have given: a flash gives no byte beyond those that can be reached (R110). -/
def sourceBytes (s : State) (r : RcpRun) (data : List Byte) : List Byte :=
  if fromFlash s r then data.take (flashMib s.rcp.flash * 0x100000 - copyBase (flashCopy s r)) else data

/-- A command begins a pass, in a STATE, with a read from the start of its source. -/
def beginRun (r : RcpRun) (v len : Nat) (s : State) : State :=
  readSource r 0 len (setRcp v { s with rcp := { s.rcp with run := some r } })

/-- AUTO_SPI_LOAD: the boot ROM starts the loader on the flash. It reads SFDP with command 0x5A on one lane at 25 MHz, and
with what `flash` says SFDP announced, the header (R110). -/
def autoLoad (flash : Option Sfdp) (s : State) : State :=
  if s.pwr.autoLoadDue && s.pwr.romRunning then
    let s : State := { s with pwr := { s.pwr with autoLoadDue := false } }
    if s.fget Fld.RCP_STATUS_STATE = 0 then
      beginRun (newRun 0 0) 1 128 (State.out (.sfdpRead 0x5A 0 1 25) { s with rcp := { s.rcp with flash := flash } })
    else s
  else s

def execAutoSpiLoad (flash : Option Sfdp) (s : State) : Host.Outcome State Fault Refusal := ok (autoLoad flash) s

/-- LOAD (R111). -/
def startLoad (seq : Nat) (s : State) : State := beginRun (newRun 1 seq) 1 (s.fget Fld.RCP_SRC_LEN_LEN) s

/-- PATCH: the Bakery reads PATCHING from here on, and PATCH_REQ arrives (R120, R121, R126, R179). -/
def startPatch (b seq : Nat) (s : State) : State :=
  let r := { newRun 2 seq with bakery := b, before := s.fget (Fld.RCP_BAKERY_STATE b) }
  raiseZen 16 (setBakState b 2 (beginRun r 4 (s.fget Fld.RCP_SRC_LEN_LEN) s))

/-! ## Pass 3 (R112, R113, R128) -/

/-- What pass 3 re-applies: DRAM images, and NIGHTWATCH while Nightwatch is UNCONFIGURED (R112). -/
def deferredDue (s : State) (d : DirEntry) : Bool := d.ty == 0x19 || (d.ty == 0x17 && s.nw.mode == 0)

/-- Pass 3 is complete. One that a Procedure started is no command of RCP_CMD, and writes no RCP_RESULT when it succeeds; its
failure is a rejection, with KIND 3 and SEQ 0 (DESIGN CHOICE, log entry 30). -/
def deferredOk (r : RcpRun) (s : State) : State :=
  let s := raiseZen 3 ((endRun 3 s).fset Fld.RCP_STATUS_DEFERRED_DONE 1)
  if r.byZen then s else succeed 0 r s

/-- Pass 3 starts; with nothing to read it is complete at once (R112). -/
def startDeferred (r : RcpRun) (s : State) : State :=
  let s := s.fset Fld.RCP_STATUS_DEFERRED_DONE 0
  let due := s.rcp.dir.filter (deferredDue s)
  if due.isEmpty then deferredOk r s
  else
    let r := { r with dir := s.rcp.dir, head := { r.head with spiMode := s.rcp.spiMode, spiMhz := s.rcp.spiMhz } }
    let s := setRcp 5 { s with rcp := { s.rcp with run := some r } }
    due.foldl (fun s d => readSource r d.off d.len s) s

/-- LOAD_DEFERRED of a Procedure; it finds no loaded Recipe, or the loader busy, and does nothing (R123, R180). -/
def zenDeferred (s : State) : State :=
  if s.fget Fld.RCP_STATUS_STATE = 3 then startDeferred { newRun 3 0 with byZen := true } s else s

/-- The action of RCP_CMD (R123, R126). -/
def actRcpCmd (v : Word) (s : State) : State :=
  let st := s.fget Fld.RCP_STATUS_STATE
  let drop := s.fsat Fld.RCP_DROP_DROPPED
  let seq := bitsOf 31 16 v
  if st ≠ 0 ∧ st ≠ 3 then drop
  else match bitsOf 1 0 v with
  | 0 => s
  | 1 => if st = 0 then startLoad seq s else drop
  | 2 => if st = 3 then startPatch (bitsOf 7 4 v) seq s else drop
  | _ => if st = 3 then startDeferred (newRun 3 seq) s else drop

/-- A value of RCP_CMD. -/
def rcpCmdWord (cmd bakery seq : Nat) : Word := BitVec.ofNat 32 (cmd + 16 * bakery + 65536 * seq)

def execLoad (f : HostFn) (seq : BitVec 16) (s : State) : Host.Outcome State Fault Refusal :=
  ok (hostWrite f Reg.RCP_CMD (actRcpCmd (rcpCmdWord 1 0 seq.toNat))) s

def execPatch (f : HostFn) (bakery : Fin 16) (seq : BitVec 16) (s : State) : Host.Outcome State Fault Refusal :=
  ok (hostWrite f Reg.RCP_CMD (actRcpCmd (rcpCmdWord 2 bakery.val seq.toNat))) s

def execDeferred (f : HostFn) (seq : BitVec 16) (s : State) : Host.Outcome State Fault Refusal :=
  ok (hostWrite f Reg.RCP_CMD (actRcpCmd (rcpCmdWord 3 0 seq.toNat))) s

/-! ## Pass 1 (R110, R112, R117) -/

/-- Whether a second copy is there to be tried (R110). -/
def secondCopy (s : State) (r : RcpRun) : Bool := r.kind == 0 && r.copy == 0 && decide (64 ≤ flashMib s.rcp.flash)

/-- The loader turns to the second copy. -/
def nextCopy (r : RcpRun) (s : State) : State := beginRun { r with copy := 1, head := noHead } 1 128 s

/-- A failure before pass 2: a load leaves EMPTY, a Patch its Bakery as it was (R110, R113, R121). -/
def failEarly (r : RcpRun) (cause : Nat) (s : State) : State :=
  if secondCopy s r then nextCopy r s
  else if r.kind = 2 then (setBakState r.bakery r.before (endRun 3 s)).fset (Fld.RCP_BAKERY_LAST_CAUSE r.bakery) cause
  else endRun (if r.kind = 3 then 3 else 0) s

/-- A flash copy has no MAGIC: it is rejected, with NO_RECIPE when it is the last copy and none has held one (R90, R114, R117;
log entry 30). -/
def noMagic (r : RcpRun) (s : State) : State :=
  let cause := if secondCopy s r || r.magic then cMagic else cNoRecipe
  failEarly r cause (rejectWith r ⟨cause, 0xFFFF, 0⟩ s)

/-- What pass 1 checks a command's source against. -/
def loadCmd (s : State) (r : RcpRun) : LoadCmd :=
  ⟨if r.kind = 2 then some r.bakery else none, if r.kind = 0 then none else some (s.fget Fld.RCP_SRC_LEN_LEN)⟩

/-- The rest of a Recipe in the flash is read as its header says (R110). -/
def readRest (r : RcpRun) (data : List Byte) (s : State) : State :=
  if r.kind = 0 then readSource { r with head := recipeHead s data } 128 (min (leAt 8 4 data) 0x2000000 - 128) s else s

/-- Pass 1 has read a source: pass 2 begins, or the first failure is a rejection (R112, R114). -/
def verify (r : RcpRun) (data : List Byte) (s : State) : State :=
  let data := sourceBytes s r data
  if r.kind = 0 ∧ leAt 0 4 data ≠ 0x50435246 then noMagic r s
  else
    let r := { r with magic := true }
    let s := readRest r data s
    match pass1 s (loadCmd s r) data with
    | some x => failEarly r x.cause (rejectWith r x s)
    | none =>
      let r := { r with phase := 1, head := recipeHead s data, dir := dirOf data }
      if r.kind = 2 then { s with rcp := { s.rcp with run := some r } } else beginRun r 2 r.head.total s

/-- The command that runs, in a phase. -/
def State.runIn (s : State) (phase : Nat) : Option RcpRun := s.rcp.run.filter fun r => r.phase == phase

/-- LOAD_VERIFIED: pass 1 of a load or Patch ends, with the bytes that the source gave. -/
def loadVerified (data : List Byte) (s : State) : State :=
  match s.runIn 0 with
  | some r => if r.kind = 3 then s else verify r data s
  | none => s

def execLoadVerified (data : List Byte) (s : State) : Host.Outcome State Fault Refusal := ok (loadVerified data) s

/-! ## Applying sections (R86, R112, R121, R128) -/

/-- A DRAM image written by the loader (R97, R112, R121): a write of the loader's own master ID, which it alone observes. -/
def writeImage (x : Sect) (s : State) : State :=
  (writeBytes (Who.plain 0x41A) (imageTarget x % 2 ^ 40) (imageData x) false [] ⟨[], .ok⟩ s).2

/-- The pieces of `n` bytes of a Pantry from an offset in its granules of 32 bytes: offset and length. -/
def pantryPieces (a n : Nat) : List (Nat × Nat) :=
  (List.range ((a + n + 31) / 32 - a / 32)).map fun i =>
    let lo := max a ((a / 32 + i) * 32)
    (lo, min (a + n) ((a / 32 + i + 1) * 32) - lo)

/-- A PANTRY image. A Patch's is a write of the loader for each granule, under the loaded tables: a denied one is dropped and
logged, and the others go on (R376, R378; DEDUCED, log entry 39). -/
def writePantry (patch : Bool) (x : Sect) (s : State) : State :=
  let n := x.d.inst
  let t := imageTarget x
  if patch then
    (pantryPieces t (imageLen x)).foldl (fun s p =>
      if s.permits (2 + n) 0x41A true p.1 p.2 then s.putPantry n p.1 (slice (p.1 - t) p.2 (imageData x))
      else denyMem (Who.plain 0x41A) true (2 + n) p.1 s) s
  else s.putPantry n t (imageData x)

/-- The Ovens that a container leaves to a Bakery: those of its BAKERY section, where it has one (R86, R119). -/
def ovensOf (xs : List Sect) (b : Nat) (s : State) : List Nat :=
  match (secsOf 0xB xs).find? fun x => x.d.inst == b with
  | some x => (bakeryOf x).ovens
  | none => (s.bakery b).ovens

/-- One section applied, of those of a container. -/
def applySect (patch : Bool) (all : List Sect) (x : Sect) (s : State) : State :=
  match x.d.ty with
  | 1 => applyGlobal x s
  | 2 => applyPower x s
  | 3 => applyPace (ovensOf all (x.d.inst - 1) s) x s
  | 4 => applyPcie x s
  | 5 => gpioUpdate (applySideband x) s
  | 7 => applyContexts x s
  | 8 => applyMemory x s
  | 9 => applyWindows x s
  | 0xA => applyMeridian x s
  | 0xB => applyBakery x s
  | 0xC => applyRacks x s
  | 0xD => applyFormats x s
  | 0xE => applyCurves x s
  | 0xF => applyProgram x s
  | 0x10 => writePantry patch x s
  | 0x11 => applyStarters patch x s
  | 0x12 => applySlicer x s
  | 0x13 => applyStream x s
  | 0x14 => applyTiming x s
  | 0x15 => applyVideo x s
  | 0x16 => applyOrbit x s
  | 0x17 => applyNw (nwCfg x) s
  | 0x18 => applyProc x s
  | 0x19 => if patch then writeImage x s else s
  | _ => s

/-- Sections of a container applied in directory order, each body's CRC checked again first; the first that fails stops them
(R112). -/
def applyAll (patch : Bool) (all : List Sect) : List Sect → State → State × Option Sect
  | [], s => (s, none)
  | x :: xs, s =>
    if x.d.ty = 0x1A ∨ (x.d.ty = 0x19 ∧ !patch) then applyAll patch all xs s
    else if x.crcOk then applyAll patch all xs (applySect patch all x s)
    else (s, some x)

/-- A changed source: the CRC field of the section's directory entry (R113). -/
def changed (x : Sect) : Reject := ⟨cSourceChanged, x.idx, x.dirAt 0xC⟩

/-! ## Commit (R108, R109, R112, R176, R378, R443, R498, R531) -/

/-- The Circle map and the access tables of a Recipe (R375–R380). -/
def awtOf (s : State) (xs : List Sect) : AwtTables :=
  { circles := match secOf 7 xs with | some x => circlesOf x | none => []
    tables := (secsOf 6 xs).map fun x =>
      (x.d.inst, x.ents.map (awtEntry x.d.inst (awtTop s (visibleOf s.code s.inlineEcc) x.d.inst))) }

/-- The registers of the loader at commit (R126). -/
def commitRegs (r : RcpRun) (s : State) : State :=
  let s := s.setPair Reg.RCP_BUILD_LO Reg.RCP_BUILD_HI r.head.build
  let s := (s.fset Fld.RCP_ROLLBACK_RECIPE r.head.rollback).fset Fld.RCP_FUSE_SIGNED_BY r.head.slot
  let s := s.fset Fld.RCP_STATUS_SOURCE (if r.kind = 0 then r.copy + 1 else 3)
  let mask := s.fget Fld.GLB_STATUS_BAKERY_MASK
  (List.range 16).foldl (fun s b => s.setReg (Reg.RCP_BAKERY b) (if mask.testBit b then 1 else 0)) s

/-- What the sections set going at commit: links leave DISABLED, ports and fan channels begin, Nightwatch without a section
is UNCONFIGURED (R315, R428, R498, R531). -/
def commitBlocks (xs : List Sect) (s : State) : State :=
  let s := (List.range 4).foldl (fun s l => setLinkState l (idleState s l) s) s
  let s := (List.range 4).foldl (fun s g => portBegin g s) (syncReach s)
  let s := if s.on 157 then orbBegin s else s
  if (secOf 0x17 xs).isNone && s.pwr.sup.vddNw then unconfigure s else s

/-- The Recipe is committed: LOADED, and Zenith's COMMIT; a wake that waits unposted is raised too (R112, R176). -/
def commitFull (r : RcpRun) (xs : List Sect) (cause : Nat) (s : State) : State :=
  let primary := match secOf 1 xs with | some x => globalPort (x.ent 0) | none => s.bootPort
  let s : State := { s with awt := some (awtOf s xs), pcie := { s.pcie with primary := some primary }
                            rcp := { s.rcp with dir := r.dir, spiMode := r.head.spiMode, spiMhz := r.head.spiMhz } }
  let s := s.fset Fld.MEM_SIZE_VISIBLE_MIB (visibleOf s.code s.inlineEcc / 0x100000)
  let s := commitBlocks xs (commitRegs r s)
  succeed cause r (wakeAtCommit (raiseZen 2 ((endRun 3 s))))

/-- KEYFUSE applied last: its CAUSE, with a record when a fuse word does not read back; none while words remain to be burnt
(R106, R107). -/
def burnSection (r : RcpRun) (x : Sect) (fuses : List Nat) (s : State) : State × Option Nat :=
  let (f, done) := burnFuses ((x.ents.map (fuseOp r.head.rollback)).flatMap fuseWords) fuses s.rcp
  let s := { s with rcp := f }
  match done with
  | none => (s, none)
  | some true => (s, some 0)
  | some false => (logFault 5 0 0x41A x.idx cFuseFail 0 s, some cFuseFail)

/-- Every other section of a full Recipe is applied: its fuses are burnt, and it is committed once they are. Until then
nothing is committed, and the loader stays at its fuses (R107, R112). -/
def finishLoad (r : RcpRun) (xs : List Sect) (fuses : List Nat) (s : State) : State :=
  match secOf 0x1A xs with
  | none => commitFull r xs 0 s
  | some k => match burnSection r k fuses s with
    | (s, some cause) => commitFull r xs cause s
    | (s, none) => { s with rcp := { s.rcp with run := some r } }

/-- A full load undone: every block written returns to its reset state (R113). Nothing but the source has acted since the
blocks were at reset; the GPIO settings and Nightwatch alone may differ from it, when their sections were written. -/
def undoLoad (done : List Sect) (before after : State) : State :=
  let s := if done.any fun x => x.d.ty == 5 then
    gpioUpdate (fun s => (s.resetRegs Reg.SBD_GPIO_DIR (Reg.SBD_GPIO_DIR + 4)).resetRegs Reg.SBD_GPIO_OD (Reg.SBD_GPIO_OD + 4)
      |>.resetRegs Reg.SBD_GPIO_OUT (Reg.SBD_GPIO_OUT + 4)
      |>.resetRegs Reg.SBD_GPIO_EDGECFG (Reg.SBD_GPIO_EDGECFG + 4)) before
    else before
  if (done.any fun x => x.d.ty == 0x17) && after.nw.cfg != before.nw.cfg then nwReset s else s

/-- Pass 2 of a full load fails: EMPTY, as R113 says; the failure of flash copy 0 in pass 2 does not try copy 1 (R110 step 4
speaks of a rejected copy: DEDUCED, log entry 39). -/
def failLoad (r : RcpRun) (x : Reject) (done : List Sect) (before after : State) : State :=
  rejectWith r x (endRun 0 (undoLoad done before after))

/-- Pass 2 of a load has read its source: its sections are applied, and then its fuses are burnt. -/
def applyLoad (r : RcpRun) (data : List Byte) (fuses : List Nat) (s : State) : State :=
  let data := sourceBytes s r data
  let xs := sections r.dir data
  match applyAll false xs xs s, (secOf 0x1A xs).filter fun k => !k.crcOk with
  | (t, some x), _ => failLoad r (changed x) (xs.filter fun y => decide (y.idx < x.idx)) s t
  | (t, none), some k => failLoad r (changed k) xs s t
  | (t, none), none => finishLoad { r with phase := 3, image := data } xs fuses t

/-- COMMIT: pass 2 of a load has read its source, or its fuses are being burnt; `fuses` are what the fuse words burnt since
read back as, in order. -/
def commit (data : List Byte) (fuses : List Nat) (s : State) : State :=
  match s.rcp.run with
  | none => s
  | some r =>
    if 1 < r.kind then s
    else if r.phase = 1 then applyLoad r data fuses s
    else if r.phase = 3 then finishLoad r (sections r.dir r.image) fuses s
    else s

def execCommit (data : List Byte) (fuses : List Nat) (s : State) : Host.Outcome State Fault Refusal := ok (commit data fuses) s

/-! ## DEFERRED_DONE (R112, R113) -/

/-- The images and the NIGHTWATCH section of pass 3, in directory order (R112). -/
def applyDeferred : List Sect → State → State × Option Sect
  | [], s => (s, none)
  | x :: xs, s =>
    if x.crcOk then applyDeferred xs (if x.d.ty = 0x19 then writeImage x s else applyNw (nwCfg x) s)
    else (s, some x)

/-- Pass 3 has read its source. -/
def deferredDone (data : List Byte) (s : State) : State :=
  match s.runIn 0 with
  | none => s
  | some r =>
    if r.kind ≠ 3 then s
    else match applyDeferred ((sections r.dir (sourceBytes s r data)).filter fun x => deferredDue s x.d) s with
      | (s, none) => deferredOk r s
      | (s, some x) => rejectWith r (changed x) (endRun 3 s)

def execDeferredDone (data : List Byte) (s : State) : Host.Outcome State Fault Refusal := ok (deferredDone data) s

/-! ## Quiesce and drain of a Bakery (R121, R170, R385) -/

/-- The jobs of a Bakery that are in its submission rings, or wait for admission, are cancelled: they complete CANCELLED_PATCH
whenever they reach admission (R121). -/
def cancelRings (b : Nat) (s : State) : State :=
  let mine (c : Nat) : Bool := s.ctxBakery c == some b
  { s with ctx := { s.ctx with
      fetchQ := s.ctx.fetchQ.map fun e => if mine e.ctx then { e with cancel := true } else e
      jobs := s.ctx.jobs.map fun j => if j.phase == .waiting && j.bakery == some b then { j with cancel := true } else j } }

/-- Step 2: triggers are dropped, and jobs that have not been admitted complete CANCELLED_PATCH. -/
def quiesce (b : Nat) (s : State) : State :=
  let s := (cancelRings b s).onBakery b fun k => { k with quiesced := true }
  let s := (s.bakery b).streams.foldl (fun s k =>
    onChan k (fun c => if c.st = 3 then c else { c with st := 3, before := c.st }) s) s
  proceedAll s.ctx.jobs.length s

/-- Whether a job of the Bakery still runs. -/
def draining (s : State) (b : Nat) : Bool := (bakeryJobs s b).any fun j => j.phase == .ticket || j.phase == .running

/-- DRAIN_MS has passed since the drain began. -/
def drainOver (s : State) (since : Nat) : Bool :=
  decide (since + s.fget Fld.RCP_PATCHCFG_DRAIN_MS * 1000000 ≤ s.mono)

/-- The jobs of a Bakery that still run are stopped, CANCELLED_PATCH. -/
def stopBakery (b : Nat) (s : State) : State :=
  ((bakeryJobs s b).filter fun j => j.phase == .ticket || j.phase == .running).foldl (fun s j => stopJob j 7 b s) s

/-- Step 5: channels accept triggers again, a running one with its instance fresh; pass numbers start again (R153, R240,
R385). -/
def resume (b : Nat) (chans : List Nat) (s : State) : State :=
  let s := s.onBakery b fun k => { k with quiesced := false, passes := 0 }
  let s := (s.bakery b).ovens.foldl (fun s n => s.fset (Fld.OVN_PASS_PASSES n) 0) s
  let s := chans.foldl (fun s k => onChan k (fun c =>
    if c.st = 3 then
      { c with st := c.before, busy := false, queue := [], came := [], inst := if c.before = 2 then some c.table.begin else none }
    else c) s) s
  proceedAll s.ctx.jobs.length s

/-- PATCH_QUIESCE: step 2 of a verified Patch, and the drain begins (R121). -/
def patchQuiesce (s : State) : State :=
  match s.runIn 1 with
  | some r => if r.kind = 2 then quiesce r.bakery (onRun (fun r => { r with phase := 2, drainAt := s.mono }) s) else s
  | none => s

def execPatchQuiesce (s : State) : Host.Outcome State Fault Refusal := ok patchQuiesce s

/-- DRAIN_TIMEOUT: jobs that still run at DRAIN_MS, of a Patch's Bakery or one being reset, are stopped (R121, R170). -/
def drainTimeout (s : State) : State :=
  let s := match s.runIn 2 with
    | some r => if drainOver s r.drainAt then stopBakery r.bakery s else s
    | none => s
  match s.pwr.bakReset with
  | some r => if drainOver s r.since then stopBakery r.bakery s else s
  | none => s

def execDrainTimeout (s : State) : Host.Outcome State Fault Refusal := ok drainTimeout s

/-! ## PATCH_APPLY (R113, R121) -/

/-- Pass 2 of a Patch fails: the Bakery stays stopped, FAILED (R113). -/
def failPatch (r : RcpRun) (x : Reject) (s : State) : State :=
  rejectWith r x ((setBakState r.bakery 3 (endRun 3 s)).fset (Fld.RCP_BAKERY_LAST_CAUSE r.bakery) x.cause)

/-- A Patch is complete: Racks refilled, the Bakery RUNNING (R121, R126). -/
def patchDone (r : RcpRun) (chans : List Nat) (s : State) : State :=
  let b := r.bakery
  let s := resume b chans (refillRacks b s)
  let s := (s.fset (Fld.RCP_BAKERY_PATCHES b) (satInc 8 (s.fget (Fld.RCP_BAKERY_PATCHES b)))).fset
    (Fld.RCP_BAKERY_LAST_CAUSE b) 0
  succeed 0 r (setBakState b 1 (endRun 3 s))

/-- PATCH_APPLY: once no job of the Bakery runs, pass 2 of the Patch (R121). -/
def patchApply (data : List Byte) (s : State) : State :=
  match s.runIn 2 with
  | none => s
  | some r =>
    if draining s r.bakery then s
    else
      let chans := (s.bakery r.bakery).streams
      match applyAll true (sections r.dir data) (sections r.dir data) s with
      | (s, some x) => failPatch r (changed x) s
      | (s, none) => patchDone r (chans ++ (s.bakery r.bakery).streams) s

def execPatchApply (data : List Byte) (s : State) : Host.Outcome State Fault Refusal := ok (patchApply data) s

/-! ## SOURCE_FAULT (R113) -/

/-- A read error from the source, at a section and an offset: what came before it has been read as `data` says. -/
def sourceFault (data : List Byte) (sect off : Nat) (s : State) : State :=
  match s.rcp.run with
  | none => s
  | some r =>
    let x : Reject := ⟨cSourceFault, sect, off⟩
    let part := (sections r.dir data).filter fun y => decide (y.idx < sect)
    if r.kind = 3 then
      match applyDeferred (part.filter fun y => deferredDue s y.d) s with
      | (s, some y) => rejectWith r (changed y) (endRun 3 s)
      | (s, none) => rejectWith r x (endRun 3 s)
    else if r.phase = 0 then failEarly r cSourceFault (rejectWith r x s)
    else if r.kind < 2 then
      if r.phase ≠ 1 then s
      else match applyAll false part part s with
      | (t, some y) => failLoad r (changed y) (part.filter fun z => decide (z.idx < y.idx)) s t
      | (t, none) => failLoad r x part s t
    else if r.phase = 2 && !(draining s r.bakery) then
      match applyAll true part part s with
      | (s, some y) => failPatch r (changed y) s
      | (s, none) => failPatch r x s
    else s

def execSourceFault (data : List Byte) (sect : BitVec 16) (off : Nat) (s : State) : Host.Outcome State Fault Refusal :=
  ok (sourceFault data sect.toNat off) s

end Sys2Proof.Machine
end

