-- ==== Sys2Proof/Machine/Pcie.lean ====
section
/-! DEFINITION. PCI Express ports: configuration space, resets, links, MSI-X tables, BAR4 (R440–R453, R551–R558, R575). -/
namespace Sys2Proof.Machine

/-! ## Configuration space (R443, R448, R555, R558) -/

/-- The bits of a configuration word that a host write stores, and those it clears by ones; offsets of R555, bit positions
of the PCI Express specification (PRESUMED, log entry 25). -/
def cfgMasks (vf : Bool) (off : Nat) : Nat × Nat :=
  if off = 0x04 then (if vf then 0x4 else 0x546, 0)
  else if off = 0x0C then (if vf then 0 else 0xFF, 0)
  else if off = 0x10 ∧ !vf then (0xFE000000, 0)
  else if off = 0x18 ∧ !vf then (0xFFC00000, 0)
  else if off = 0x20 ∧ !vf then (0xF0000000, 0)
  else if (off = 0x14 ∨ off = 0x1C ∨ off = 0x24) ∧ !vf then (0xFFFFFFFF, 0)
  else if off = 0x3C then (if vf then 0 else 0xFF, 0)
  else if off = 0x44 then (if vf then 0 else 0x3, 0)
  else if off = 0x50 then (0xC0000000, 0)
  else if off = 0x78 then (if vf then 0 else 0x79FF, 0xF0000)
  else if off = 0x80 then (if vf then 0 else 0x1C3, 0)
  else if off = 0x98 then (if vf then 0 else 0x100F, 0)
  else if off = 0xA0 then (if vf then 0 else 0xFFFF, 0)
  else if vf then (0, 0)
  else if off = 0x104 ∨ off = 0x110 then (0, 0xFFFFFFFF)
  else if off = 0x108 ∨ off = 0x10C ∨ off = 0x114 then (0xFFFFFFFF, 0)
  else if off = 0x118 then (0x140, 0)
  else if off = 0x150 then (0x19, 0)
  else if off = 0x158 then (0xFFFF, 0)
  else if off = 0x168 then (0xFFFFFFFF, 0)
  else if off = 0x16C then (0xFE000000, 0)
  else if off = 0x174 then (0xFFC00000, 0)
  else if off = 0x17C then (0xF0000000, 0)
  else if off = 0x170 ∨ off = 0x178 ∨ off = 0x180 then (0xFFFFFFFF, 0)
  else if off = 0x190 then (0x3F00, 0)
  else if off = 0x1A0 ∨ off = 0x1A4 then (0xFFFFFFFF, 0)
  else (0, 0)

/-- VF_COUNT as NumVFs is clamped to it (R443). -/
def vfLimit (s : State) (p : PPort) : Nat :=
  match s.pcie.primary with
  | some q => if p = q then s.pcie.vfCount else 0
  | none => 0

/-- A stored word clamped to its legal values (R443, R448, R555, R558, R8). -/
def cfgClamp (s : State) (f : HostFn) (off : Nat) (old v : Word) : Word :=
  if off = 0x158 then withBits 15 0 (min (bitsOf 15 0 v) (vfLimit s f.port)) v
  else if off = 0x168 then 1
  else if off = 0x190 then withBits 13 8 (clampNat 8 14 (bitsOf 13 8 v)) v
  else if off = 0x98 then
    let c := bitsOf 3 0 v
    withBits 3 0 (if c = 1 ∨ c = 2 ∨ c = 5 ∨ c = 6 then c else 0) (if f.port = .b then withBits 12 12 0 v else v)
  else if off = 0x44 then (if bitsOf 1 0 v = 1 ∨ bitsOf 1 0 v = 2 then withBits 1 0 (bitsOf 1 0 old) v else v)
  else v

/-- The bytes of a word that byte enables select. -/
def byteMask (be : Nat) : Nat :=
  (if be.testBit 0 then 0xFF else 0) + (if be.testBit 1 then 0xFF00 else 0) + (if be.testBit 2 then 0xFF0000 else 0) +
    (if be.testBit 3 then 0xFF000000 else 0)

/-- What a configuration write stores: writable bits take the data, W1C bits are cleared by ones, all else stays. -/
def cfgStore (s : State) (f : HostFn) (off be : Nat) (data : Word) : Word :=
  let (rw, w1c) := cfgMasks (decide (f.vf.val ≠ 0)) off
  let m := byteMask be
  let old := s.cfgWord f off
  let put := rw &&& m
  let clr := w1c &&& m &&& data.toNat
  let n := old.toNat
  cfgClamp s f off old (BitVec.ofNat 32 (((n - (n &&& put)) + (data.toNat &&& put)) - (n &&& clr)))

/-- The size of a function's MSI-X table (R368, R556). -/
def msixSize (s : State) (f : HostFn) : Nat :=
  if f.vf.val ≠ 0 then max 1 (ownedCtxs s f).length else if f.port = s.primaryPort then 1088 else 64

/-- Messages pending on unmasked vectors of a function that may send them go out (R367). -/
def flushPending (f : HostFn) (s : State) : State :=
  if s.msixOn f then
    (s.pcie.msix.filter fun e => e.1 / 2048 == fnIndex f && e.2.pend && !e.2.mask).foldl
      (fun s e => messageDue f (e.1 % 2048) (s.setMsix f (e.1 % 2048) { e.2 with pend := false })) s
  else s

/-- A function's configuration space and MSI-X table return to their reset values; AER's words, which are sticky, stay
(R168, R450). -/
def resetFnConfig (f : HostFn) (s : State) : State :=
  let i := fnIndex f
  let gone (k : Nat) : Bool := decide (k / 4096 = i) && !(decide (0x104 ≤ k % 4096 ∧ k % 4096 < 0x140))
  { s with pcie := { s.pcie with
      cfg := s.pcie.cfg.filter (fun e => !(gone e.1))
      msix := s.pcie.msix.filter (fun e => e.1 / 2048 != i) } }

/-! ## Resets of functions (R169, R443, R450, R575) -/

/-- One function is reset: its jobs, contexts, mailboxes, configuration space. -/
def resetFn (f : HostFn) (s : State) : State := resetFnConfig f (resetContexts f s)

/-- The VFs that exist on a port. -/
def existingVfs (s : State) (p : PPort) : List HostFn :=
  (List.finRange 32).filterMap fun v => let f : HostFn := ⟨p, v⟩; if v.val ≠ 0 && s.fnExists f then some f else none

/-- VF Enable cleared: every VF is reset as by an FLR, and is gone (R575). -/
def dropVfs (p : PPort) (s : State) : State :=
  let vfs := existingVfs s p
  let s := vfs.foldl (fun s f => resetFn f s) s
  s.setCfgWord (pfOf p) 0x150 (withBits 0 0 0 (s.cfgWord (pfOf p) 0x150))

/-- Whether a configuration request finds no configuration space yet: its port's domains are ON (R166). -/
def cfgPending (s : State) (p : PPort) : Bool := !s.pwr.cfgBuilt && s.on (portDomains p).1 && s.on (portDomains p).2

/-- The outcome of a command that is a configuration request: until the configuration space is built, the port answers it with
Configuration Request Retry Status (R166). -/
def okConfig (f : HostFn) (g : State → State) (s : State) : Host.Outcome State Fault Refusal :=
  ok (fun s => if cfgPending s f.port then s.out (.retryStatus f) else g s) s

/-- An FLR: of a PF, with every VF of it (R169, R443). -/
def flr (f : HostFn) (s : State) : State :=
  if !(s.portUp f.port) || !(s.fnExists f) then s
  else if f.vf.val = 0 then resetFn f (dropVfs f.port s)
  else resetFn f s

def execFlr (f : HostFn) (s : State) : Host.Outcome State Fault Refusal := okConfig f (flr f) s

/-- Every function of a port is reset (R450). -/
def resetPort (p : PPort) (s : State) : State := resetFn (pfOf p) (dropVfs p s)

def execHotReset (p : PPort) (s : State) : Host.Outcome State Fault Refusal :=
  ok (fun s => if s.portUp p then resetPort p s else s) s

/-- VF Enable set or cleared (R443, R575). -/
def setVfEnable (p : PPort) (enable : Bool) (s : State) : State :=
  if !(s.portUp p) then s
  else if enable then s.setCfgWord (pfOf p) 0x150 (withBits 0 0 1 (s.cfgWord (pfOf p) 0x150))
  else dropVfs p s

def execVfEnableWrite (p : PPort) (enable : Bool) (s : State) : Host.Outcome State Fault Refusal :=
  okConfig (pfOf p) (setVfEnable p enable) s

/-- D3HOT: a PF enters D3hot (R449, R555). -/
def d3hot (f : HostFn) (s : State) : State :=
  if s.portUp f.port && decide (f.vf.val = 0) then s.setCfgWord f 0x44 (withBits 1 0 3 (s.cfgWord f 0x44)) else s

def execD3hot (f : HostFn) (s : State) : Host.Outcome State Fault Refusal := okConfig f (d3hot f) s

/-- CONFIG_WRITE: the word is stored, clamped; FLR, VF Enable and the power state act as they do by their own commands. -/
def configWrite (f : HostFn) (off be : Nat) (data : Word) (s : State) : State :=
  let off := off / 4 * 4
  if !(s.portUp f.port) || !(s.fnExists f) then s
  else if off = 0x78 ∧ be.testBit 1 ∧ data.toNat.testBit 15 then flr f s
  else
    let s := if off = 0x150 ∧ f.vf.val = 0 ∧ be.testBit 0 ∧ s.vfEnable f.port ∧ !(data.toNat.testBit 0) then dropVfs f.port s else s
    flushPending f (s.setCfgWord f off (cfgStore s f off be data))

def execConfigWrite (f : HostFn) (off : Nat) (be : BitVec 4) (data : Word) (s : State) :
    Host.Outcome State Fault Refusal := okConfig f (configWrite f off be.toNat data) s

/-! ## Links (R440, R450, R451, R468, R557) -/

/-- A port's link replaced; a change between L0 and any other state is an event (R468). -/
def setLink (p : PPort) (k : PLink) (s : State) : State :=
  let old := s.link p
  let s := { s with pcie := match p with | .a => { s.pcie with linkA := k } | .b => { s.pcie with linkB := k } }
  if old.l0 = k.l0 then s else sbdEvent s

/-- The reads in flight through a port end with zero and poison marking (R297, R450). -/
def endReads (p : PPort) (s : State) : State :=
  (s.mem.hostReads.filter fun h => h.port == p).foldl (fun s h =>
    let w := opWho s h.op
    let s := logHostRead w h.port 5 (opLocal h.op) (dropHostRead h s)
    resolveOp h.op ⟨List.replicate h.len 0, List.replicate h.len true, none, none⟩ s) s

/-- DL_DOWN: a link that was up goes down, other than by PERST_N. -/
def dlDown (p : PPort) (s : State) : State :=
  if (s.link p).up then
    let s := (setLink p ⟨false, 0, 0, false⟩ s).fadd (Fld.SBD_PCIE_DOWNS_COUNT (portNum p)) 1
    resetPort p (endReads p s)
  else s

def execDlDown (p : PPort) (s : State) : Host.Outcome State Fault Refusal := ok (dlDown p) s

/-- The highest generation and width that a port offers (R440, R557). -/
def portLimits (s : State) : PPort → Nat × Nat
  | .a => (s.pcie.maxGenA, 4)
  | .b => (s.pcie.maxGenB, 2)

/-- DL_UP: the link trains to L0, at most at its limits, unless THERMTRIP_N holds it idle (R172); windows may log a lost write again. -/
def dlUp (p : PPort) (gen width : Nat) (s : State) : State :=
  let (g, w) := portLimits s p
  if (s.link p).up || s.pwr.tripped || !(s.on (portDomains p).1) || !(s.on (portDomains p).2) then s
  else
    let other (k : Nat) : Bool := match s.mem.wins.find? (fun e => e.2.kind == 2 && e.2.hwin == k) with
      | some e => s.winPort e.2.func != p
      | none => false
    let s := { s with pcie := { s.pcie with lostLogged := s.pcie.lostLogged.filter other } }
    setLink p ⟨true, clampNat 1 g gen, clampNat 1 w width, true⟩ s

def execDlUp (p : PPort) (gen : Fin 6) (width : Fin 5) (s : State) : Host.Outcome State Fault Refusal :=
  ok (dlUp p gen.val width.val) s

/-- ASPM_L1_ENTRY and ASPM_L1_EXIT: the link leaves L0, and returns to it. -/
def aspm (p : PPort) (l0 : Bool) (s : State) : State :=
  let k := s.link p
  if k.up then setLink p { k with l0 := l0 } s else s

def execAspmL1Entry (p : PPort) (s : State) : Host.Outcome State Fault Refusal := ok (aspm p false) s

def execAspmL1Exit (p : PPort) (s : State) : Host.Outcome State Fault Refusal := ok (aspm p true) s

/-- SBD_PCIE_STATUS (R468). -/
def pcieStatus (s : State) (p : PPort) : Word :=
  let k := s.link p
  BitVec.ofNat 32 (k.gen + 16 * k.width + (if k.l0 then 256 else 0) + (if s.primaryPort = p then 512 else 0))

/-! ## Errors (R447; bit positions of AER, PRESUMED, log entry 25) -/

/-- A bit of the uncorrectable error status of a port's PF. -/
def aerError (p : PPort) (bit : Nat) (s : State) : State :=
  let f := pfOf p
  s.setCfgWord f 0x104 (withBits bit bit 1 (s.cfgWord f 0x104))

/-- UNSUPPORTED_REQUEST: the completion, and Unsupported Request Error. -/
def execUnsupportedRequest (f : HostFn) (s : State) : Host.Outcome State Fault Refusal :=
  ok (fun s => if s.portUp f.port then (aerError f.port 20 s).out (.unsupported f) else s) s

/-- POISONED_TLP_RECEIVED: the write to BAR0 or BAR2 is dropped. -/
def execPoisonedTlpReceived (f : HostFn) (s : State) : Host.Outcome State Fault Refusal :=
  ok (fun s => if s.barsDecode f then aerError f.port 12 s else s) s

/-- ECRC_ERROR: recorded where checking is enabled. -/
def execEcrcError (f : HostFn) (s : State) : Host.Outcome State Fault Refusal :=
  ok (fun s => if s.portUp f.port && decide (bitsOf 8 8 (s.cfgWord (pfOf f.port) 0x118) = 1) then aerError f.port 19 s else s) s

/-! ## The MSI-X table (R367, R446) -/

/-- An entry with its mask bit written: a pending message goes out when it clears (R367). -/
def setMask (f : HostFn) (v : Nat) (mask : Bool) (s : State) : State :=
  flushPending f (s.setMsix f v { s.msixEntry f v with mask })

/-- Whether a function's BAR0 reaches its MSI-X table (R446, R577). -/
def msixReach (s : State) (f : HostFn) (v : Nat) : Bool := s.barsDecode f && decide (v < msixSize s f)

def execMsixUnmask (f : HostFn) (v : Fin 2048) (s : State) : Host.Outcome State Fault Refusal :=
  ok (fun s => if msixReach s f v.val then setMask f v.val false s else s) s

/-! ## BAR4 (R444, R445, R551–R554) -/

/-- FUNC of a function (R290). -/
def funcOf (s : State) (f : HostFn) : Nat := if f.vf.val ≠ 0 then f.vf.val else if f.port = s.primaryPort then 0 else 32

/-- APBASE of a function. -/
def apBase (s : State) (f : HostFn) : Nat :=
  let k := funcOf s f
  s.fget (Fld.SBD_PCIE_AP_LO_APBASE k) * 2 ^ 21 + s.fget (Fld.SBD_PCIE_AP_HI_APBASE k) * 2 ^ 32

/-- The size of a function's BAR4. -/
def bar4Size (s : State) (f : HostFn) : Nat :=
  if f.vf.val ≠ 0 then 2 ^ 28 else 2 ^ (20 + bitsOf 13 8 (s.cfgWord f 0x190))

/-- BAR4_READ: block by block; denied blocks read zero, poison sets EP (R445, R553). -/
def bar4Read (f : HostFn) (off len : Nat) (err : List MemErr) (e : ExtReply) (s : State) : State :=
  if !(s.barsDecode f) then s
  else if bar4Size s f < off + len then (aerError f.port 20 s).out (.unsupported f)
  else
    let (r, s) := readBytes (Who.plain (s.masterOf f)) ((apBase s f + off) % 2 ^ 40) len err e s
    s.out (.readDone f 4 off r.data r.poison)

def execBar4Read (f : HostFn) (off len : Nat) (err : List MemErr) (e : ExtReply) (s : State) :
    Host.Outcome State Fault Refusal := ok (bar4Read f off len err e) s

/-- BAR4_WRITE: the enabled bytes, block by block; EP is performed with poison marking (R445, R447, R553). -/
def bar4Write (f : HostFn) (off : Nat) (data : List Byte) (en : Nat) (ep : Bool) (err : List MemErr) (e : ExtReply)
    (s : State) : State :=
  if !(s.barsDecode f) then s
  else if bar4Size s f < off + data.length then aerError f.port 20 s
  else (writeRuns (Who.plain (s.masterOf f)) (apBase s f + off) ep err e 0 (enabledRuns en 0 data []) s).2

def execBar4Write (f : HostFn) (off : Nat) (data : List Byte) (en : Nat) (ep : Bool) (err : List MemErr) (e : ExtReply)
    (s : State) : Host.Outcome State Fault Refusal := ok (bar4Write f off data en ep err e) s

end Sys2Proof.Machine
end

