-- ==== Sys2Proof/Machine/Power.lean ====
section
/-! DEFINITION. Power domains, supplies, resets, start-up, module pins and Bakery resets (R155–R176, R182–R186, R549, R576). -/
namespace Sys2Proof.Machine

/-! ## Dependencies (R155, R157) -/

/-- Hearth domains run from VDD_HEARTH. -/
def isHearth (d : Nat) : Bool := decide (d < 111)

/-- The domains that a domain depends on. -/
def domDeps (d : Nat) : List Nat :=
  if d < 48 then [96 + d / 8, 110]
  else if d < 110 then [110]
  else if d = 110 then [112]
  else if d = 111 then []
  else if d = 112 then [111]
  else if d = 114 then [112, 113]
  else if d = 116 then [112, 115]
  else if 153 ≤ d ∧ d < 157 then [d - 4]
  else if d < 159 then [112]
  else []

/-- The domains that depend on a domain. -/
def domUsers (d : Nat) : List Nat := (List.range 159).filter fun k => (domDeps k).contains d

/-- VDD_HEARTH good: present, and HEARTH_VOK (R155, R164; DEDUCED, log entry 34). -/
def hearthGood (s : State) : Bool := s.pwr.sup.hearth && s.pwr.vok

/-- Whether a domain is ON and stays so. -/
def settledOn (s : State) (d : Nat) : Bool := s.on d && !(s.pwr.moving.any (·.1 == d))

/-- Whether a domain is not ON, nor about to be. -/
def settledOff (s : State) (d : Nat) : Bool := !(s.on d) && !(s.pwr.moving.any (·.1 == d))

/-- Whether a domain may turn ON now: its dependencies, and at most 8 of its die at a time (R157). -/
def mayTurnOn (s : State) (d : Nat) : Bool :=
  (domDeps d).all (settledOn s) && (d != 110 || hearthGood s) &&
    decide ((s.pwr.moving.countP fun e => e.2 == .on && isHearth e.1 == isHearth d) < 8)

/-- Whether what a domain serves holds its turning OFF: jobs admitted to a Bakery that needs it, copies that a Slicer has
begun (R159). -/
def serving (s : State) (d : Nat) : Bool :=
  if d < 102 then
    (List.range 16).any fun b => (bakeryDomains s b).contains d && (bakeryJobs s b).any fun j => !j.ovens.isEmpty
  else if d < 110 then (slicerJobs s (d - 102)).any (·.started)
  else false

/-- Whether a requested transition may start (R157, R159). -/
def mayMove (s : State) (e : Nat × DomState) : Bool :=
  !(s.pwr.moving.any (·.1 == e.1)) &&
    (if e.2 = .on then mayTurnOn s e.1 else (domUsers e.1).all (settledOff s) && !(serving s e.1))

/-! ## What a domain holds (R156, R190, R576) -/

/-- The state with a domain's state set. -/
def setDom (d : Nat) (v : DomState) (s : State) : State := { s with pwr := { s.pwr with dom := spSet .off d v s.pwr.dom } }

/-- The registers whose domain a test names return to their reset values (R576). -/
def dropRegs (p : Nat → Bool) (s : State) : State := { s with regs := s.regs.filter fun e => !(p (regDomain e.1)) }

/-- The Racks that an Oven consumes lose their contents: each slot is free, and its credit is back (R156, R190; DEDUCED, log entry 39). -/
def emptyRacks (n : Nat) (s : State) : State :=
  s.fab.racks.foldl (fun s e =>
    let r := e.2
    match r.cons with
    | some (m, _, _) =>
      if m ≠ n then s
      else emptyRack e.1 r
        { r with slots := [], landed := [], pre := 0, credits := if r.prod.isSome then r.depth else r.credits } s
    | none => s) s

/-- An Oven's requests are gone, and its Rack ports are empty. -/
def ovenDark (n : Nat) (s : State) : State :=
  emptyRacks n { s with fab := { s.fab with reqs := s.fab.reqs.filter fun q => !(ofOven n q) } }

/-- An Oven in RET: tables, Curves, program and S bank are kept (R156). -/
def ovenRet (o : Oven) : Oven :=
  { o with tile0 := [], tile1 := [], bankA := [], job := none, pc := 0, ended := false, loops := [], disp := [], taint := false }

/-- What CRUST_NOC's registers show is gone with them: access tables, contexts, fabric, windows, links and ports as at reset
(R576; DEDUCED, log entry 35). -/
def nocOff (s : State) : State :=
  { s with
    awt := none, ctx := .reset, fab := .reset, mer := State.reset.mer, vid := .reset, str := ⟨s.str.chans, [], []⟩
    mem := { MemState.reset with
      dram := s.mem.dram, poison := s.mem.poison, pantry := s.mem.pantry, nextTag := s.mem.nextTag
      sdecs := s.mem.sdecs, sencs := s.mem.sencs } }

/-- The configuration space and MSI-X tables of a port's functions are gone (R166, R577). -/
def clearPort (p : PPort) (s : State) : State :=
  let mine (f : Nat) : Bool := decide (f / 32 = portNum p)
  { s with pcie := { s.pcie with
      cfg := s.pcie.cfg.filter fun e => !(mine (e.1 / 4096))
      msix := s.pcie.msix.filter fun e => !(mine (e.1 / 2048)) } }

/-- Whether a request is a line of a receive port. -/
def ofRx (p : Nat) (q : MemReq) : Bool := match q.op with | .rx v _ _ _ _ => v / 16 == p | _ => false

/-- A receive port turns OFF: its frames and its buffer are gone, and a change of its STATE is an event (R416, R418, R438). -/
def rxDark (p : Nat) (s : State) : State :=
  let s := if s.fget (Fld.VIN_PORT_STATUS_STATE p) = 0 then s else vinEvent s
  { s with
    vid := { s.vid with
      opened := s.vid.opened.filter (fun e => decide (e.1 / 16 ≠ p)), closed := s.vid.closed.filter fun e => decide (e.1 / 16 ≠ p) }
    fab := { s.fab with reqs := s.fab.reqs.filter fun q => !(ofRx p q) } }

/-- A receive port turns ON: VIN_PORT_STATUS reads its configuration (R438). -/
def rxBegin (p : Nat) (s : State) : State :=
  match s.vid.rx.lookup p with
  | some x => (s.fset (Fld.VIN_PORT_STATUS_PHY p) x.phy).fset (Fld.VIN_PORT_STATUS_LANES p) (x.lanes - 1)
  | none => s

/-- A Stream Channel group turns OFF: its channels stop, and their counts are gone with their registers (R384, R409, R576). -/
def groupDark (q : Nat) (s : State) : State :=
  (List.range 4).foldl (fun s i =>
    onChan (4 * q + i) (fun c => { c with issued := 0 }) (actStrStop (4 * q + i) s)) s

/-- A Slicer turns OFF: its staging buffer is lost, and a copy that was being staged begins again (R156, R299, R306). -/
def slicerDark (k : Nat) (s : State) : State := { s with mem := { s.mem with stage := spDel k s.mem.stage } }

/-- What happens to the blocks as a domain turns OFF, beside its registers. -/
def domOff (d : Nat) (s : State) : State :=
  if d < 48 then ovenDark d { s with ovens := spDel d s.ovens }
  else if d < 96 then { s with mem := { s.mem with pantry := spErase (pantryKey (d - 48) 0) (pantryKey (d - 47) 0) s.mem.pantry } }
  else if 102 ≤ d ∧ d < 110 then slicerDark (d - 102) s
  else if d = 112 then nocOff s
  else if d = 113 then clearPort .a (dlDown .a s)
  else if d = 114 then dlDown .a s
  else if d = 115 then clearPort .b (dlDown .b s)
  else if d = 116 then dlDown .b s
  else if d = 117 ∨ d = 118 then rxDark (d - 117) s
  else if 119 ≤ d ∧ d < 123 then portOff (d - 119) s
  else if d = 123 ∨ d = 124 then (dscPorts s d).foldl (fun s g => portOff g s) s
  else if 125 ≤ d ∧ d < 129 then actOtgStop (d - 125) s
  else if 129 ≤ d ∧ d < 133 then groupDark (d - 129) s
  else if 133 ≤ d ∧ d < 149 then channelOff (d - 133) s
  else if 149 ≤ d ∧ d < 153 then signalLost (d - 149) 1 s
  else if 153 ≤ d ∧ d < 157 then signalLost (d - 153) 1 s
  else if d = 158 then { s with pace := .reset }
  else s

/-- What happens as a domain turns ON, from a state. -/
def domOn (d : Nat) (old : DomState) (s : State) : State :=
  if 96 ≤ d ∧ d < 102 then landSlots s
  else if d = 117 ∨ d = 118 then rxBegin (d - 117) s
  else if 119 ≤ d ∧ d < 123 then portBegin (d - 119) s
  else if d = 123 ∨ d = 124 then (dscPorts s d).foldl (fun s g => portBegin g s) s
  else if 133 ≤ d ∧ d < 149 then (if old = .off then beginTraining (d - 133) s else s)
  else if d = 157 then orbBegin s
  else s

/-- What happens as a domain enters RET. -/
def domRet (d : Nat) (s : State) : State :=
  if d < 48 then ovenDark d (onOven d ovenRet s) else s

/-- A transition completes: the maps change, and the domain holds what its state keeps. -/
def moveDom (e : Nat × DomState) (s : State) : State :=
  let old := s.dom e.1
  match e.2 with
  | .on => domOn e.1 old (setDom e.1 .on s)
  | .off => dropRegs (fun d => d == e.1) (domOff e.1 (setDom e.1 .off s))
  | .ret => domRet e.1 (setDom e.1 .ret s)

/-! ## Requests (R8, R157, R179, R186) -/

/-- Whether a domain powers a fused-off resource (R1, R3, R186). -/
def domFused (c : OrderCode) (d : Nat) : Bool :=
  (decide (d < 96) && decide (ovenCount c ≤ d % 48)) || (!(lvdsPresent c) && (d == 122 || d == 128))

/-- Whether a domain has the state RET (R155). -/
def retCapable (d : Nat) : Bool := decide (d < 96) || decide (133 ≤ d ∧ d < 149)

/-- A value of REQ clamped to its legal range. -/
def reqState (c : OrderCode) (d v : Nat) : DomState :=
  if domFused c d then .off
  else match v with
    | 0 => .off
    | 1 => .on
    | _ => if retCapable d then .ret else .on

/-- REQ of a request. -/
def reqValue : DomState → Nat
  | .off => 0
  | .on => 1
  | .ret => 2

/-- The state a domain has, or will have once its transition under way completes. -/
def headed (s : State) (d : Nat) : DomState := (s.pwr.moving.lookup d).getD (s.dom d)

/-- Whether a request needs no transition (R157). -/
def needless (have_ want : DomState) : Bool := have_ == want || (have_ == .off && want == .ret)

/-- POWER_DONE, when nothing is pending (R179). -/
def powerDone (s : State) : State := if s.pwr.pend.isEmpty && s.pwr.moving.isEmpty then raiseZen 5 s else s

/-- A write of PWR_REQ: a request, which replaces a waiting one of its domain (R157, R186; DEDUCED, log entry 36). -/
def actPwrReq (d v : Nat) (s : State) : State :=
  if d = 111 ∨ 159 ≤ d then s
  else
    let want := reqState s.code d v
    let s := s.fset (Fld.PWR_REQ_REQ d) (reqValue want)
    let rest := s.pwr.pend.filter fun e => e.1 != d
    if needless (headed s d) want then powerDone { s with pwr := { s.pwr with pend := rest } }
    else { s with pwr := { s.pwr with pend := rest ++ [(d, want)] } }

def execPwrReqWrite (f : HostFn) (d : Fin 164) (req : Fin 4) (s : State) : Host.Outcome State Fault Refusal :=
  ok (hostWrite f (Reg.PWR_REQ d.val) (actPwrReq d.val req.val)) s

/-- DOMAIN_TRANSITION_START: the first request, in the order requested, that may start (R157; DEDUCED, log entry 36). -/
def transitionStart (d : Nat) (s : State) : State :=
  match s.pwr.pend.find? (mayMove s) with
  | some e =>
    if e.1 ≠ d then s
    else { s with pwr := { s.pwr with pend := s.pwr.pend.filter (fun x => x.1 != d), moving := s.pwr.moving ++ [e] } }
  | none => s

def execDomainTransitionStart (d : Fin 164) (s : State) : Host.Outcome State Fault Refusal := ok (transitionStart d.val) s

/-- DOMAIN_TRANSITION_DONE: the transitions under way complete (R160, R179). -/
def transitionDone (s : State) : State :=
  if s.pwr.moving.isEmpty then s
  else
    let es := s.pwr.moving
    powerDone (es.foldl (fun s e => moveDom e s) { s with pwr := { s.pwr with moving := [] } })

def execDomainTransitionDone (s : State) : Host.Outcome State Fault Refusal := ok transitionDone s

/-! ## VDD_HEARTH, HEARTH_EN and THERMTRIP_N (R156, R162, R164, R172) -/

/-- The domains that are not OFF among those of Hearth. -/
def litHearth (s : State) : List Nat := (s.pwr.dom.filter fun e => isHearth e.1).map (·.1)

/-- Every Hearth domain is OFF; one whose request is ON waits for VDD_HEARTH (R156). -/
def hearthDark (s : State) : State :=
  let s : State := { s with pwr := { s.pwr with moving := s.pwr.moving.filter fun e => !(isHearth e.1) } }
  let s := (litHearth s).foldl (fun s d => moveDom (d, .off) s) s
  let kept := s.pwr.pend.filter fun e => !(isHearth e.1) || e.2 == .on
  let again := (List.range 111).filter fun d => s.fget (Fld.PWR_REQ_REQ d) == 1 && !(kept.any (·.1 == d))
  { s with pwr := { s.pwr with pend := kept ++ again.map fun d => (d, .on) } }

/-- HEARTH_EN driven to a level: THERMTRIP_N holds it low until POR_N falls (R162, R172). Its rise starts P_avg again, and its
fall ends HEARTH_VOK and Pace's transactions (R65, R74, R164). -/
def driveHearthEn (level : Bool) (s : State) : State :=
  let v := level && !s.pwr.tripped
  if v = s.pwr.pins.hearthEn then s
  else
    let s : State := { s with pwr := { s.pwr with pins := { s.pwr.pins with hearthEn := v } } }
    if v then paceEnHigh s else paceEnLow { s with pwr := { s.pwr with vok := false } }

/-- VDD_HEARTH is removed (R156). -/
def hearthLost (s : State) : State := hearthDark { s with pwr := { s.pwr with vok := false } }

/-- The state with VDD_HEARTH present or not. -/
def setHearth (b : Bool) (s : State) : State := { s with pwr := { s.pwr with sup := { s.pwr.sup with hearth := b } } }

/-- Whether Crust is in service: POR_N is high and its state is defined (DEDUCED, log entry 7). -/
def crustLives (s : State) : Bool := s.pwr.pins.porN && !s.pwr.undef

def execVddHearthLoss (s : State) : Host.Outcome State Fault Refusal :=
  .next (if crustLives s then hearthLost (setHearth false s) else setHearth false s)

/-- VDD_HEARTH_RETURN: the requests that are ON are waiting already (R156). -/
def execVddHearthReturn (s : State) : Host.Outcome State Fault Refusal := .next (setHearth true s)

/-- VDD_CRUST, VIO or a memory supply leaves its range: while POR_N is high, Crust, Hearth and the memory dies are undefined
from here on (R161). -/
def execCrustSupplyFault (sup : CrustSupply) (s : State) : Host.Outcome State Fault Refusal :=
  match sup with
  | .vddCrust | .vio | .memory =>
    .next { s with pwr := { s.pwr with sup := { s.pwr.sup with crust := false }, undef := s.pwr.undef || s.pwr.pins.porN } }

/-- THERMTRIP: HEARTH_EN low, Hearth isolated, every PCIe, video and Meridian transmitter idle, Orbit's gates off (R172; DEDUCED, log entry 19). -/
def thermTrip (s : State) : State :=
  let s : State := { s with pwr := { s.pwr with tripped := true, pins := { s.pwr.pins with thermtripN := false } } }
  let s := hearthDark (driveHearthEn false s)
  let s := dlDown .b (dlDown .a s)
  let s := (List.range 4).foldl (fun s g => portOff g s) s
  orbTrip ((List.range 4).foldl (fun s l => signalLost l 1 s) s)

def execThermtrip (s : State) : Host.Outcome State Fault Refusal :=
  ok (fun s => if s.pwr.pins.porN && !s.pwr.tripped then thermTrip s else s) s

/-! ## POR_N and PERST_N (R108, R161–R168, R549, R576) -/

/-- Domain states while Crust is in reset: OFF but for Nightwatch's, and CRUST_AON where it is ON. -/
def resetDoms (aon : Bool) (s : State) : List (Nat × DomState) :=
  (if aon then [(111, DomState.on)] else []) ++ s.pwr.dom.filter fun e => decide (159 ≤ e.1)

/-- Power-on reset: everything but Nightwatch, the fuses and what the board drives is as at reset (R168). -/
def porReset (s : State) : State :=
  let z := State.reset
  { z with
    code := s.code, mono := s.mono, usCount := s.usCount, nw := s.nw
    regs := s.regs.filter fun e => decide (159 ≤ regDomain e.1)
    rcp := { z.rcp with slots := s.rcp.slots, rollback := s.rcp.rollback }
    side := { z.side with gpioExt := s.side.gpioExt }
    pwr := { z.pwr with
      sup := s.pwr.sup, undef := s.pwr.undef, dom := resetDoms false s
      pins := { s.pwr.pins with porN := false, hearthEn := false, thermtripN := true, moduleRdyN := true } }
    pending := s.pending, port := s.port, freeCtr := s.freeCtr }

def execPorNAssert (s : State) : Host.Outcome State Fault Refusal := .next (if s.pwr.pins.porN then porReset s else s)

/-- POR_N goes high: BOOTSEL and SB_ADDRSEL are sampled, CRUST_AON is ON, and the boot ROM is due. The supplies are the
board's obligation (R108, R155, R161, R165, R454). -/
def execPorNDeassert (bootsel : Fin 4) (addrSel : Bool) (s : State) : Host.Outcome State Fault Refusal :=
  .next (if s.pwr.pins.porN then s else
    { s with pwr := { s.pwr with
      pins := { s.pwr.pins with porN := true }, sup := { s.pwr.sup with crust := true }, undef := false
      bootsel := bootsel.val, addrSel := addrSel, romDue := true, dom := spSet .off 111 .on s.pwr.dom } })

/-- The registers of CRUST_AON that a PERST_N clears (R576). -/
def perstClears (off : Nat) : Bool :=
  off == Reg.GLB_STATUS || off == Reg.RCP_STATUS || off == Reg.RCP_BUILD_LO || off == Reg.RCP_BUILD_HI ||
    off == Reg.RCP_ROLLBACK || off == Reg.RCP_FUSE || off == Reg.PWR_BAKRST_DONE || off == Reg.ZEN_STATUS ||
    (List.range 16).any (fun b => off == Reg.RCP_BAKERY b) ||
    decide (Reg.PWR_REQ 0 ≤ off ∧ off ≤ Reg.PWR_REQ 163) || decide (Reg.ZEN_INST 0 ≤ off ∧ off ≤ Reg.ZEN_INST 7) ||
    decide (Reg.SBD_PCIE_AP_LO 0 ≤ off ∧ off ≤ Reg.SBD_PCIE_AP_HI 32) ||
    off == Reg.SBD_PCIE_STATUS 0 || off == Reg.SBD_PCIE_STATUS 1

/-- A PERST_N while POR_N is high: domains other than CRUST_AON turn OFF, and the Recipe is lost (R168, R576; DEDUCED, log entry 19). -/
def perstReset (s : State) : State :=
  let z := State.reset
  { z with
    code := s.code, mono := s.mono, usCount := s.usCount, nw := s.nw, flt := s.flt
    regs := s.regs.filter fun e =>
      decide (159 ≤ regDomain e.1) || (regDomain e.1 == 111 && !(perstClears e.1))
    side := { s.side with trigMask := 0 }
    orb := { z.orb with tripped := s.orb.tripped }
    rcp := { z.rcp with slots := s.rcp.slots, rollback := s.rcp.rollback }
    pwr := { s.pwr with
      romDue := false, romRunning := false, cfgBuilt := false, autoLoadDue := false, dom := resetDoms true s, pend := []
      moving := [], lastPerst := true, bakReset := none
      pins := { s.pwr.pins with perstN := false, moduleRdyN := true } }
    pending := s.pending, port := s.port, freeCtr := s.freeCtr }

/-- The level of PERST_N. -/
def setPerst (b : Bool) (s : State) : State := { s with pwr := { s.pwr with pins := { s.pwr.pins with perstN := b } } }

def execPerstNAssert (s : State) : Host.Outcome State Fault Refusal :=
  .next (if s.pwr.pins.perstN && crustLives s then perstReset s else setPerst false s)

/-- PERST_N goes high: the boot ROM is due again under the held BOOTSEL (R108, R165). -/
def execPerstNDeassert (s : State) : Host.Outcome State Fault Refusal :=
  .next (if s.pwr.pins.perstN then s
    else
      let s := setPerst true s
      if crustLives s then { s with pwr := { s.pwr with romDue := true } } else s)

/-- The boot ROM runs: domains 112 to 116 turn on, Epoch counts, and the loader is due under BOOTSEL (R108, R165, R186). -/
def bootRom (s : State) : State :=
  let p := s.pwr
  if p.romDue && p.pins.porN && p.pins.perstN then
    let s : State := { s with pwr := { p with romDue := false, romRunning := true, autoLoadDue := decide (p.bootsel < 2) } }
    [112, 113, 114, 115, 116].foldl (fun s d => moveDom (d, .on) (s.fset (Fld.PWR_REQ_REQ d) 1)) s
  else s

def execBootRomStart (s : State) : Host.Outcome State Fault Refusal := ok bootRom s

/-- CONFIG_SPACE_BUILT (R166). -/
def execConfigSpaceBuilt (s : State) : Host.Outcome State Fault Refusal :=
  ok (fun s => if s.pwr.romRunning then { s with pwr := { s.pwr with cfgBuilt := true } } else s) s

/-! ## Module pins (R162, R179, R182–R185) -/

/-- The level of MODULE_PRES_N. -/
def setPres (b : Bool) (s : State) : State := { s with pwr := { s.pwr with pins := { s.pwr.pins with modulePresN := b } } }

def execModulePresAssert (s : State) : Host.Outcome State Fault Refusal := .next (setPres false s)

/-- MODULE_PRES_N goes high: the Meridian transmitters are idle, and every link is lost (R183, R184). -/
def execModulePresRelease (s : State) : Host.Outcome State Fault Refusal :=
  .next (
    let s := setPres true s
    if crustLives s && s.on 112 then (List.range 4).foldl (fun s l => signalLost l 1 s) s else s)

/-- MODULE_EJECT_N falls: the 10 ms begin (R183). -/
def execModuleEjectNFall (s : State) : Host.Outcome State Fault Refusal :=
  .next (if s.pwr.pins.moduleEjectN then
    { s with pwr := { s.pwr with pins := { s.pwr.pins with moduleEjectN := false }, ejectAt := some s.mono } } else s)

/-- MODULE_EJECT_N has stayed low for 10 ms: MODULE_EJECT (R179). -/
def moduleEject (s : State) : State :=
  match s.pwr.ejectAt with
  | some t =>
    if s.on 111 && decide (t + 10000000 ≤ s.mono) then raiseZen 14 { s with pwr := { s.pwr with ejectAt := none } } else s
  | none => s

def execModuleEject (s : State) : Host.Outcome State Fault Refusal := ok moduleEject s

/-- MODULE_EJECT_N returns high; a Set that has begun goes on (R185). -/
def execModuleEjectNRise (s : State) : Host.Outcome State Fault Refusal :=
  .next { s with pwr := { s.pwr with pins := { s.pwr.pins with moduleEjectN := true }, ejectAt := none } }

/-! ## Bakery resets (R170, R186, R369) -/

/-- PWR_BAKRST_DONE is written, on vector 2. -/
def bakrstDone (b seq : Nat) (refused : Bool) (s : State) : State :=
  signalMisc 2 (((s.fset Fld.PWR_BAKRST_DONE_BAKERY b).fset Fld.PWR_BAKRST_DONE_REFUSED (if refused then 1 else 0)).fset
    Fld.PWR_BAKRST_DONE_SEQ seq)

/-- A write of PWR_BAKRST. -/
def actBakrst (v : Word) (s : State) : State :=
  let b := bitsOf 3 0 v
  let seq := bitsOf 31 16 v
  if s.fget (Fld.RCP_BAKERY_STATE b) ≠ 1 ∨ s.pwr.bakReset.isSome then bakrstDone b seq true s
  else quiesce b { s with pwr := { s.pwr with bakReset := some ⟨b, seq, s.mono⟩ } }

def execBakeryReset (f : HostFn) (bakery : Fin 16) (seq : BitVec 16) (s : State) : Host.Outcome State Fault Refusal :=
  ok (hostWrite f Reg.PWR_BAKRST (actBakrst (BitVec.ofNat 32 (bakery.val + 65536 * seq.toNat)))) s

/-- A Patch of the Bakery has quiesced it and has not resumed it. -/
def patchHolds (s : State) (b : Nat) : Bool := match s.runIn 2 with | some r => r.kind == 2 && r.bakery == b | none => false

/-- BAKERY_RESET_DONE: no job of the Bakery runs any more. Its Racks are emptied and re-credited, the A banks of its Ovens
cleared, and its channels accept triggers again, unless a Patch still holds them. -/
def bakeryResetDone (s : State) : State :=
  match s.pwr.bakReset with
  | none => s
  | some r =>
    if draining s r.bakery then s
    else
      let b := r.bakery
      let s := refillRacks b { s with pwr := { s.pwr with bakReset := none } }
      let s := (s.bakery b).ovens.foldl (fun s n => onOven n (fun o => { o with bankA := [] }) s) s
      let s := if patchHolds s b then s else resume b (s.bakery b).streams s
      bakrstDone b r.seq false s

def execBakeryResetDone (s : State) : Host.Outcome State Fault Refusal := ok bakeryResetDone s

end Sys2Proof.Machine
end

