-- ==== Sys2Proof/Machine/Slicers.lean ====
section
/-! DEFINITION. Slicers: units, traversal, overlap, staging, conversion, completion; and service at every shared target
(R206, R208, R299–R309, R376). -/
namespace Sys2Proof.Machine

/-! ## Overlap and traversal (R304–R307) -/

/-- Bytes of a copy. -/
def copyBytes (d : CopyDesc) : Nat := d.xlen * d.ycnt * d.zcnt

/-- Lowest address and one past the highest of a block, without wrap (R304). -/
def extent (base : Nat) (sy sz : Int) (d : CopyDesc) : Int × Int :=
  let y := ((d.ycnt : Int) - 1) * sy
  let z := ((d.zcnt : Int) - 1) * sz
  (base + min 0 y + min 0 z, base + max 0 y + max 0 z + d.xlen)

/-- Whether a copy overlaps: one HOME, and extents that intersect (R304). -/
def copyOverlaps (d : CopyDesc) : Bool :=
  let a := extent d.src d.sy d.sz d
  let b := extent d.dst d.dy d.dz d
  decide (d.src / 2 ^ 37 = d.dst / 2 ^ 37) && decide (a.1 < b.2) && decide (b.1 < a.2)

/-- Whether the source block is tiled (R305). -/
def copyTiled (d : CopyDesc) : Bool :=
  (decide (d.ycnt = 1) || decide ((d.xlen : Int) ≤ d.sy.natAbs)) &&
    (decide (d.zcnt = 1) || decide ((((d.ycnt : Int) - 1) * d.sy.natAbs + d.xlen) ≤ d.sz.natAbs))

/-- How a copy is performed (R304–R307). -/
inductive CopyMode where
  | forward
  /-- Traversed by the sign of Δ: descending in x, y, z. -/
  | ordered (x y z : Bool)
  | staged
  | unordered
  deriving DecidableEq, Repr

/-- The mode of a copy. -/
def copyMode (d : CopyDesc) : CopyMode :=
  let delta : Int := (d.dst : Int) - d.src
  let same (a : Int) : Bool := (decide (0 < delta) && decide (0 < a)) || (decide (delta < 0) && decide (a < 0))
  if !(copyOverlaps d) then .forward
  else if d.sy = d.dy && d.sz = d.dz && copyTiled d then .ordered (decide (0 < delta)) (same d.sy) (same d.sz)
  else if copyBytes d ≤ 0x40000 then .staged
  else .unordered

/-- A run of bytes within a row: source address, destination address, length. -/
structure Seg where
  src : Nat
  dst : Nat
  len : Nat
  deriving DecidableEq, Repr

/-- An address of a block, modulo 2⁴⁰ (R301). -/
def blockAddr (base : Nat) (z y : Int) (sz sy : Int) (x : Nat) : Nat := ((base + z * sz + y * sy + x) % 2 ^ 40).toNat

/-- The run of `n` bytes from position `p` of the traversal, within one row. -/
def segAt (d : CopyDesc) (dx dy dz : Bool) (p n : Nat) : Seg :=
  let row := p / d.xlen
  let y := row % d.ycnt
  let z := row / d.ycnt
  let x := p % d.xlen
  let yy : Int := if dy then (d.ycnt : Int) - 1 - y else y
  let zz : Int := if dz then (d.zcnt : Int) - 1 - z else z
  let x0 := if dx then d.xlen - (x + n) else x
  ⟨blockAddr d.src zz yy d.sz d.sy x0, blockAddr d.dst zz yy d.dz d.dy x0, n⟩

/-- The runs of `n` bytes from position `p`; `fuel` bounds them. -/
def segsOf (d : CopyDesc) (dx dy dz : Bool) : Nat → Nat → Nat → List Seg
  | 0, _, _ => []
  | fuel + 1, p, n =>
    if n = 0 then []
    else
      let k := min n (d.xlen - p % d.xlen)
      segAt d dx dy dz p k :: segsOf d dx dy dz fuel (p + k) (n - k)

/-- The runs of a part of a copy in its mode. -/
def copySegs (d : CopyDesc) (p n : Nat) : List Seg :=
  match copyMode d with
  | .ordered x y z => segsOf d x y z (n + 1) p n
  | _ => segsOf d false false false (n + 1) p n

/-! ## The bytes of a unit (R298, R302, R308, R376) -/

/-- The Slicer that serves, the job and its context, and how the Slicer's own accesses are made (R43, R205). -/
structure SCtx where
  k : Nat
  job : Nat
  ctx : Nat
  who : Who
  deriving DecidableEq, Repr

/-- A Slicer that serves a job. -/
def sctxOf (k : Nat) (j : Job) : SCtx := ⟨k, j.id, j.ctx, { Who.forJob j with m := 0x410 + k, job := false }⟩

/-- What an access's surroundings report as it goes: errors block by block, and the answers from outside. -/
structure Feed where
  errs : List MemErr
  e : ExtReply
  deriving DecidableEq, Repr

/-- What is left of them after `n` bytes from an address. -/
def Feed.after (f : Feed) (s : State) (a n : Nat) : Feed :=
  ⟨f.errs.drop (blockCount a n), if isExternal s a then { f.e with data := f.e.data.drop n } else f.e⟩

/-- The 4 KiB pages of a run, addresses modulo 2⁴⁰; `fuel` bounds them. -/
def pagesOf : Nat → Nat → Nat → List (Nat × Nat)
  | 0, _, _ => []
  | fuel + 1, a, n =>
    if n = 0 then []
    else
      let k := min n (4096 - a % 4096)
      (a, k) :: pagesOf fuel ((a + k) % 2 ^ 40) (n - k)

/-- Whether a Slicer's table lets the submitting context access bytes of a page (R376). -/
def pageOk (s : State) (c : SCtx) (write : Bool) (a n : Nat) : Bool := s.permits (50 + c.k) c.ctx write a n

/-- The check of a run at the Slicer's table: every page refused is a denial of the job (R376, R377). -/
def checkRun (c : SCtx) (write : Bool) : List (Nat × Nat) → State → State
  | [], s => s
  | (a, n) :: ps, s =>
    checkRun c write ps (if pageOk s c write a n then s
      else noteAccess c.job (refusedRes 0 (50 + c.k)) (denyMem (Who.ofJob c.ctx) write (50 + c.k) a s))

/-- The check of a unit before it is served: its sources, then its destinations (R376). -/
def checkSegs (c : SCtx) (gs : List Seg) (s : State) : State :=
  let s := gs.foldl (fun s g => checkRun c false (pagesOf (g.len + 1) g.src g.len) s) s
  gs.foldl (fun s g => checkRun c true (pagesOf (g.len + 1) g.dst g.len) s) s

/-- The read of a run's pages under the Slicer's ID; a page that the check refused reads as zero (R43, R308). -/
def readRun (c : SCtx) : List (Nat × Nat) → Feed → State → List (Byte × Bool) × Feed × State
  | [], f, s => ([], f, s)
  | (a, n) :: ps, f, s =>
    let (r, s) :=
      if pageOk s c false a n then
        let (r, s) := readBytes c.who a n f.errs f.e s
        let s := noteAccess c.job r s
        (r, if r.poison && r.lost.isNone then onJob c.job (fun j => { j with poisoned := true }) s else s)
      else (refusedRes n (50 + c.k), s)
    let (d, f, s) := readRun c ps (f.after s a n) s
    (r.data.zip r.marks ++ d, f, s)

/-- The write of a run's pages, likewise, each byte with its marking; a page that the check refused is dropped (R298, R308). -/
def writeRun (c : SCtx) : List (Nat × Nat) → List (Byte × Bool) → Feed → State → Feed × State
  | [], _, f, s => (f, s)
  | (a, n) :: ps, d, f, s =>
    let s :=
      if pageOk s c true a n then
        let (r, s) := writeMarked c.who a ((d.take n).map (·.1)) ((d.take n).map (·.2)) f.errs f.e s
        noteAccess c.job r s
      else s
    writeRun c ps (d.drop n) (f.after s a n) s

/-- Conversion of codes (R302). -/
def convert (s : State) (conv : Option (Nat × Nat)) (b : Byte) : Byte :=
  match conv with
  | none => b
  | some (dec, enc) =>
    encodeDy (spGet EncTable.zero s.mem.sencs enc) ((satLane (opLane (spGet 0 s.mem.sdecs (dec * 256 + b.toNat)))).1, -24)

/-- The reads of a list of runs, in order. -/
def readRuns (c : SCtx) : List Seg → Feed → State → List (Byte × Bool) × Feed × State
  | [], f, s => ([], f, s)
  | g :: gs, f, s =>
    let (d, f, s) := readRun c (pagesOf (g.len + 1) g.src g.len) f s
    let (r, f, s) := readRuns c gs f s
    (d ++ r, f, s)

/-- The writes of a list of runs, in order. -/
def writeSegs (c : SCtx) : List Seg → List (Byte × Bool) → Feed → State → State
  | [], _, _, s => s
  | g :: gs, d, f, s =>
    let (f, s) := writeRun c (pagesOf (g.len + 1) g.dst g.len) (d.take g.len) f s
    writeSegs c gs (d.drop g.len) f s

/-- Remote Stars that a list of runs touches (R344). -/
def noteRuns (job : Nat) (gs : List Seg) (s : State) : State :=
  gs.foldl (fun s g =>
    let at_ (a : Nat) (s : State) : State := match destOf s a with | .remote h _ => noteHome job h s | _ => s
    at_ g.dst (at_ g.src s)) s

/-- The reads of `n` bytes of a copy from position `p`, once they and their destinations are checked. -/
def readPart (c : SCtx) (d : CopyDesc) (p n : Nat) (f : Feed) (s : State) : List (Byte × Bool) × Feed × State :=
  let gs := copySegs d p n
  readRuns c gs f (checkSegs c gs (noteRuns c.job gs s))

/-- The writes of `n` bytes of a copy from position `p`. -/
def writePart (c : SCtx) (d : CopyDesc) (p n : Nat) (x : List (Byte × Bool)) (f : Feed) (s : State) : State :=
  writeSegs c (copySegs d p n) (x.map fun e => (convert s d.conv e.1, e.2)) f s

/-! ## Service (R206, R300) -/

/-- The copy that a Slicer stages, with its buffer (R306). -/
def slicerStage (s : State) (k : Nat) : Option Stage := s.mem.stage.lookup k

/-- The copies of a Slicer that have units left, in order of admission; a Slicer asked to leave ON begins no copy (R159), and
one that stages serves no other (R306). -/
def openCopies (s : State) (k : Nat) : List Job :=
  (slicerJobs s k).filter fun j => j.phase == .running &&
    (match j.copy with | some d => decide (j.unit < copyBytes d) | none => false) && (j.started || !(leaving s (102 + k))) &&
    (match slicerStage s k with | some x => x.job == j.id | none => true)

/-- The next byte of a copy to be served: what has been read, while it is staged, else what has been written. -/
def nextByte (s : State) (k : Nat) (j : Job) (d : CopyDesc) : Nat :=
  if copyMode d = .staged then
    match slicerStage s k with
    | some x => if x.data.length < copyBytes d then x.data.length else j.unit
    | none => 0
  else j.unit

/-- The size of a copy's next service: a unit (R300). -/
def nextSize (s : State) (k : Nat) (j : Job) : Nat :=
  match j.copy with
  | some d => min 4096 (copyBytes d - nextByte s k j d)
  | none => 0

/-- The units that can be chosen: in one group and class, those of the earliest copy (R300). -/
def copyCands (s : State) (k : Nat) : List Cand :=
  let js := openCopies s k
  let cls (j : Job) : Nat := classIn (groupOf j.bakery) j.cls
  js.filterMap fun j =>
    if js.any fun i => decide (i.id < j.id) && i.bakery == j.bakery && i.cls == j.cls then none
    else some ⟨j.id, cls j, groupOf j.bakery, j.deadline.getD (2 ^ 64), j.id, 1, nextSize s k j, j.promoted⟩

/-- The state with a Slicer's staging buffer set. -/
def setStage (k : Nat) (x : Stage) (s : State) : State := { s with mem := { s.mem with stage := spPut k x s.mem.stage } }

/-- A unit of a copy is served: its next request begins to wait (R208). -/
def unitServed (k n : Nat) (j : Job) (d : CopyDesc) (s : State) : State :=
  onJob j.id (fun j => { j with
    unit := j.unit + n, started := true, since := s.epoch, unordered := j.unordered || copyMode d == .unordered })
    (s.fadd (Fld.CPY_UNITS_COUNT k) 1)

/-- A service of a staged copy: the next unit of the source enters the buffer, and once the whole source has, the next unit
of the destination is written from it (R306; DESIGN CHOICE, log entry 10, for what the two services are charged). -/
def stagedUnit (k : Nat) (j : Job) (d : CopyDesc) (n : Nat) (f : Feed) (s : State) : State :=
  let x := (slicerStage s k).getD ⟨j.id, [], []⟩
  if x.data.length < copyBytes d then
    let (r, _, s) := readPart (sctxOf k j) d x.data.length n f s
    let s := setStage k { x with data := x.data ++ r.map (·.1), marks := x.marks ++ r.map (·.2) } s
    onJob j.id (fun j => { j with started := true, since := s.epoch }) s
  else
    let s := writePart (sctxOf k j) d j.unit n (((x.data.zip x.marks).drop j.unit).take n) f s
    let s := unitServed k n j d s
    if copyBytes d ≤ j.unit + n then
      { s.fadd (Fld.CPY_STAGED_COUNT k) 1 with mem := { s.mem with stage := spDel k s.mem.stage } }
    else s

/-- A service of any other copy: the unit's reads, then its writes (R300). -/
def plainUnit (k : Nat) (j : Job) (d : CopyDesc) (n : Nat) (f : Feed) (s : State) : State :=
  let (r, f, s) := readPart (sctxOf k j) d j.unit n f s
  unitServed k n j d (writePart (sctxOf k j) d j.unit n r f s)

/-- COPY_UNIT: a Slicer serves the next unit it chooses (R300–R307, R311). -/
def copyUnit (k : Nat) (errs : List MemErr) (e : ExtReply) (s : State) : State :=
  if !(s.on (102 + k)) then s
  else
    let ch := choose s (20 + k) (copyCands s k)
    match ch.key?.bind s.job? with
    | none => s
    | some j =>
      match j.copy with
      | none => s
      | some d =>
        let n := nextSize s k j
        let s := (charge (20 + k) ch s).fset (Fld.CPY_STATUS_CTX k) j.ctx
        if copyMode d = .staged then stagedUnit k j d n ⟨errs, e⟩ s else plainUnit k j d n ⟨errs, e⟩ s

def execCopyUnit (k : Fin 8) (errs : List MemErr) (e : ExtReply) (s : State) : Host.Outcome State Fault Refusal :=
  ok (copyUnit k.val errs e) s

/-- Whether a master has a write that is held or out to another Star, not yet acknowledged (R288, R340). -/
def postedBy (s : State) (m : Nat) : Bool :=
  (s.mem.held.any fun x => x.op == .posted m) || s.mem.remote.any fun q => q.op == .posted m

/-- COPY_COMPLETE: the first copy of a Slicer with every byte written and acknowledged completes (R308, R309). -/
def copyComplete (k : Nat) (s : State) : State :=
  match (slicerJobs s k).find? fun j => j.phase == .running &&
      (match j.copy with | some d => decide (copyBytes d ≤ j.unit) | none => false) with
  | none => s
  | some j =>
    if postedBy s (0x410 + k) then s
    else
      let s := completeJob j.id (s.fset (Fld.CPY_STATUS_CTX k) 0)
      if ((s.job? j.id).map fun j => (jobOutcome j).1) = some 8 then s.fadd (Fld.CPY_UNORDERED_COUNT k) 1 else s

def execCopyComplete (k : Fin 8) (s : State) : Host.Outcome State Fault Refusal := ok (copyComplete k.val) s

/-- A Bulk copy's unit that has waited for BULK_AGE is promoted (R208). -/
def promoteCopy (k : Nat) (s : State) : State :=
  match (openCopies s k).find? fun j => j.cls == 2 && !j.promoted && decide (j.since + bulkAge s ≤ s.epoch) with
  | none => s
  | some j => onJob j.id (fun j => { j with promoted := true }) (s.fadd (Fld.FAB_TGT_PROMOTED_COUNT (20 + k)) 1)

/-- SERVICE_OPPORTUNITY at a shared target (R204, R206). -/
def serveTarget (t : Nat) (errs : List MemErr) (e : ExtReply) (s : State) : State :=
  if 20 ≤ t ∧ t < 28 then copyUnit (t - 20) errs e s else serveReq t errs s

def execServiceOpportunity (t : Fin 80) (errs : List MemErr) (e : ExtReply) (s : State) : Host.Outcome State Fault Refusal :=
  ok (serveTarget t.val errs e) s

def execBulkPromotion (t : Fin 80) (s : State) : Host.Outcome State Fault Refusal :=
  ok (fun s => if 20 ≤ t.val ∧ t.val < 28 then promoteCopy (t.val - 20) s else promoteReq t.val s) s

/-! ## Readings (R311) -/

/-- CPY_STATUS. -/
def cpyStatus (s : State) (k : Nat) : Word :=
  let n := (slicerJobs s k).length
  let st := if n = 0 then 0 else if !(s.on (102 + k)) then 3 else if (slicerStage s k).isSome then 2 else 1
  withBits 15 8 n (withBits 1 0 st (s.reg (Reg.CPY_STATUS k)))

end Sys2Proof.Machine
end

