-- ==== Sys2Proof/Machine/Bus.lean ====
section
/-! DEFINITION. Reads and writes of BAR0: what each register returns, and what a write to it does (R6–R8, R46–R48, R446, R494). -/
namespace Sys2Proof.Machine

/-! ## What a register returns (R6, R7) -/

/-- The key slots that satisfy a test, as RCP_FUSE shows them (R126). -/
def slotMask (p : FuseSlot → Bool) (s : State) : Nat :=
  (List.range 4).foldl (fun n k => if (s.rcp.slots[k]?).any p then n + 2 ^ k else n) 0

/-- NW_TABLE: HALTED is a table of the configuration without an instance (R500). -/
def nwTableReg (s : State) (t : Nat) : Word :=
  let defined := match s.nw.cfg with | some g => (g.tables.lookup t).isSome | none => false
  withBits 7 7 (if defined && (s.nw.tables.lookup t).isNone then 1 else 0) (s.reg (Reg.NW_TABLE t))

/-- The registers of the blocks between CTX and VOUT that mirror other state; `none`: the stored value. -/
def blockView (s : State) (off : Nat) : Option Word :=
  let at_ (base stride n : Nat) (g : Nat → Word) : Option Word :=
    if base ≤ off ∧ off < base + stride * n ∧ (off - base) % stride = 0 then some (g ((off - base) / stride)) else none
  let first (l : List (Option Word)) : Option Word := l.findSome? id
  if off < 0x80000 then none
  else if off < 0xa0000 then first [at_ (Reg.FAB_TGT_CAP 0) 4 80 (fabCapReg s), at_ (Reg.FAB_TGT_RESV 0) 4 80 (fabResvReg s),
    at_ (Reg.FAB_RACKSTAT 0) 8 1024 (rackStat s)]
  else if off < 0x100000 then none
  else if off < 0x200000 then at_ (Reg.CTX_STATUS 0) 64 1024 (ctxStatusReg s)
  else if off < 0x300000 then first [at_ (Reg.STR_STATUS 0) 4096 16 (strStatus s), at_ (Reg.OTG_STATUS 0) 256 4 (otgStatus s),
    at_ (Reg.OTG_PERIOD 0) 256 4 (otgPeriod s)]
  else if off < 0x380000 then first [at_ (Reg.MEM_CH 0) 4 16 (memCh s), at_ (Reg.MEM_WIN 0) 4 256 (memWin s)]
  else if off < 0x400000 then at_ (Reg.CPY_STATUS 0) 4096 8 (cpyStatus s)
  else if off < 0x490000 then none
  else if off < 0x500000 then first [at_ (Reg.VOUT_PORT_STATUS 0) 256 4 (voutStatus s),
    if off = Reg.VOUT_DSI_STAT then some (dsiStat s) else none]
  else if off < 0x580000 then none
  else if off < 0x600000 then first [nwView s off, at_ (Reg.NW_TABLE 0) 4 4 (nwTableReg s)]
  else if off < 0x800000 then at_ (Reg.SBD_PCIE_STATUS 0) 16 2 fun k => pcieStatus s (if k = 0 then .a else .b)
  else if 0x1000000 ≤ off then at_ 0x1000000 0x10000 48 (ovnStatus s)
  else none

/-- The value that a register holds as seen from the bus. -/
def viewReg (s : State) (off : Nat) : Word :=
  match blockView s off with
  | some v => v
  | none =>
    let v := readReg s off
    if off = Reg.RCP_STATUS then withBits 3 3 (if openKeys s then 1 else 0) v
    else if off = Reg.RCP_ROLLBACK then withBits 31 16 s.rcp.rollback v
    else if off = Reg.RCP_FUSE then withBits 7 4 (slotMask (·.revoked) s) (withBits 3 0 (slotMask (·.valid) s) v)
    else v

/-- Register `k` of the 64-byte sideband map, as a read finds it: mirrors of BAR0 registers, the latest message of the host,
and Epoch; the write-only registers and the last two read zero (R456). -/
def sbMapReg (s : State) (k : Nat) : Word :=
  match k with
  | 0 => viewReg s Reg.DEVICE_ID
  | 1 => viewReg s Reg.RCP_STATUS
  | 2 => viewReg s Reg.RCP_RESULT
  | 3 => viewReg s Reg.PACE_TEMP
  | 4 => viewReg s Reg.PACE_STATUS
  | 5 => viewReg s Reg.PWR_STATUS
  | 6 => viewReg s Reg.ZEN_EVT_SEQ
  | 7 => viewReg s Reg.ZEN_EVT_CODE
  | 10 => s.side.fromHost
  | 11 => viewReg s Reg.SBD_SB_TOSB_SEQ
  | 12 => BitVec.ofNat 32 s.epoch
  | 13 => BitVec.ofNat 32 (s.epoch / 2 ^ 32)
  | _ => 0

/-- The bytes of a read of the sideband map from a byte address, each register as it stands; addresses above 0x3F read zero
(R456). -/
def sbMapRead (s : State) (addr n : Nat) : List Byte :=
  (List.range n).map fun i =>
    let a := addr + i
    if 0x3F < a then 0 else (sbMapReg s (a / 4)).extractLsb' (8 * (a % 4)) 8

/-! ## What a write does (R6, R8) -/

/-- The stored fields of a register take a write (R6). -/
def actStore (off : Nat) (v : Word) (s : State) : State :=
  match regAt off with
  | some d => s.setReg off (storeFields d v (s.reg off))
  | none => s

/-- Blocks RCP, PWR, PACE and ZEN. -/
def writeCore (off : Nat) (v : Word) (s : State) : State :=
  if off = Reg.RCP_CMD then actRcpCmd v s
  else if off = Reg.PWR_BAKRST then actBakrst v s
  else if Reg.PWR_REQ 0 ≤ off ∧ off ≤ Reg.PWR_REQ 163 then actPwrReq ((off - Reg.PWR_REQ 0) / 4) (bitsOf 1 0 v) s
  else if off = Reg.PACE_EVT_ACK then actPaceAck v s
  else if off = Reg.ZEN_TRIG then startRequest (bitsOf 5 0 v) 0x40 (BitVec.ofNat 32 (bitsOf 31 16 v)) s
  else if off = Reg.ZEN_SIGNAL then raiseZen 0 s
  else actStore off v s

/-- Blocks FAB, MBX and CTX. -/
def writeCtx (off : Nat) (v : Word) (s : State) : State :=
  if Reg.MBX_ACK 0 ≤ off ∧ off ≤ Reg.MBX_ACK 255 then actMbxAck ((off - Reg.MBX_ACK 0) / 4) v s
  else if off < 0x100000 then actStore off v s
  else
    let c := (off - 0x100000) / 64
    if off = Reg.CTX_CTRL c then
      (match bitsOf 1 0 v with
       | 1 => actCtxEnable c s
       | 2 => actCtxDisable c s
       | _ => s)
    else if ctxState s c = 0 then actStore off v s
    else s

/-- Block STR: channels and generators. -/
def writeStr (off : Nat) (v : Word) (s : State) : State :=
  if off < 0x210000 then
    let k := (off - 0x200000) / 4096
    if off = Reg.STR_CTRL k then
      (match bitsOf 1 0 v with
       | 1 => actStrEnable k s
       | 2 => actStrStop k s
       | _ => s)
    else if off = Reg.STR_TRIG k then actStrTrig k v s
    else if off = Reg.STR_SIGNAL k then actStrSignal k v s
    else s
  else
    let g := (off - 0x210000) / 256
    if off = Reg.OTG_CTRL g then
      (match bitsOf 1 0 v with
       | 1 => actOtgStart g s
       | 2 => actOtgStop g s
       | _ => s)
    else if off = Reg.OTG_MODE g then actOtgMode g (bitsOf 1 0 v) s
    else if off = Reg.OTG_AT g then actOtgAt g v s
    else s

/-- Blocks MEM and MER: EN of an HWIN whose DEFINED is 0 reads 0 whatever is written (R310). -/
def writeMem (off : Nat) (v : Word) (s : State) : State :=
  if Reg.MEM_HWIN_CTRL 0 ≤ off ∧ off ≤ Reg.MEM_HWIN_CTRL 63 ∧ off % 16 = 8 then
    let k := (off - Reg.MEM_HWIN_CTRL 0) / 16
    s.fset (Fld.MEM_HWIN_CTRL_EN k) (if s.fget (Fld.MEM_HWIN_CTRL_DEFINED k) = 1 then bitsOf 0 0 v else 0)
  else if off = Reg.MER_SET then (if bitsOf 0 0 v = 1 then actSetGo (bitsOf 31 16 v) s else s)
  else if off = Reg.MER_RISE then
    actRise (bitsOf 1 0 v) ((s.fset Fld.MER_RISE_LINK (bitsOf 1 0 v)).fset Fld.MER_RISE_SEQ (bitsOf 31 16 v))
  else if Reg.MER_LINK_CTRL 0 ≤ off ∧ off ≤ Reg.MER_LINK_CTRL 3 ∧ (off - Reg.MER_LINK_CTRL 0) % 64 = 0 then
    actLinkCtrl ((off - Reg.MER_LINK_CTRL 0) / 64) (bitsOf 0 0 v == 1) s
  else actStore off v s

/-- VOUT_DSI_HDR: data types other than 0x05, 0x15 and 0x39 clamp to 0x05 (R439). -/
def dsiType (dt : Nat) : Nat := if dt = 0x15 ∨ dt = 0x39 then dt else 0x05

/-- Blocks VOUT and ORB. -/
def writeVideo (off : Nat) (v : Word) (s : State) : State :=
  if 0x490100 ≤ off ∧ off < 0x490500 ∧ off % 256 = 4 then
    let g := (off - 0x490100) / 256
    match bitsOf 1 0 v with
    | 1 => actRetrain g s
    | 2 => actHold g s
    | 3 => actRelease g s
    | _ => s
  else if off = Reg.VOUT_AUX_CMD then actAux (bitsOf 0 0 v) (bitsOf 2 1 v) (bitsOf 6 3 v) (bitsOf 31 16 v) s
  else if off = Reg.VOUT_DSI_HDR then (actStore off v s).fset Fld.VOUT_DSI_HDR_DT (dsiType (bitsOf 7 0 v))
  else if off = Reg.VOUT_DSI_PUSH then actDsiPush s
  else if 0x500100 ≤ off ∧ off < 0x500500 ∧ off % 256 = 0 then actOrbCmd ((off - 0x500100) / 256) v s
  else actStore off v s

/-- Block NW. -/
def writeNw (off : Nat) (v : Word) (s : State) : State :=
  if off = Reg.NW_CTRL then actNwCtrl v s
  else if off = Reg.NW_SIGNAL then actNwSignal v s
  else if off = Reg.NW_POST then actNwPost s
  else if off = Reg.NW_WAKE_ACK then actNwWakeAck v s
  else if off = Reg.NW_CLOSE then actNwClose v s
  else if off = Reg.NW_ENROL then actNwEnrol v s
  else actStore off v s

/-- Block SBD; the GPIO settings change pin levels (R462, R464). -/
def writeSbd (off : Nat) (v : Word) (s : State) : State :=
  if off = Reg.SBD_GPIO_SET then actGpioSet (bitsOf 15 0 v) s
  else if off = Reg.SBD_GPIO_CLR then actGpioClr (bitsOf 15 0 v) s
  else if off = Reg.SBD_GPIO_OUT ∨ off = Reg.SBD_GPIO_DIR ∨ off = Reg.SBD_GPIO_OD then gpioUpdate (actStore off v) s
  else if off = Reg.SBD_EVT_ACK then actSbdEvtAck v s
  else if off = Reg.SBD_SB_TOSB then actTosb v s
  else if off = Reg.SBD_SPI_GO then actSpiGo (bitsOf 8 0 v) (bitsOf 31 16 v) s
  else actStore off v s

/-- The effect of a granted write of a register. -/
def busAction (off : Nat) (v : Word) (s : State) : State :=
  if off < 0x80000 then writeCore off v s
  else if off < 0x200000 then writeCtx off v s
  else if off < 0x300000 then writeStr off v s
  else if off < 0x480000 then writeMem off v s
  else if off < 0x580000 then writeVideo off v s
  else if off < 0x600000 then writeNw off v s
  else writeSbd off v s

/-! ## The pre-roll window (R494) -/

/-- Whether an offset lies in the pre-roll window of the NW block. -/
def inPreroll (off : Nat) : Bool := decide (0x5c0000 ≤ off ∧ off < 0x600000)

/-- The buffer offset that an offset of the window stands for. -/
def prerollAt (s : State) (off : Nat) : Nat := s.fget Fld.NW_PR_PAGE_PAGE * 0x40000 + (off - 0x5c0000)

/-- How a read of the window is handled: two tables, and a wake window. -/
def prerollGate (s : State) (m off : Nat) : RegGate :=
  if !(s.permits 80 m false (off - 0x580000) 4) then .denied 80
  else if !s.nw.window || !(s.permits 58 m false (prerollAt s off) 4) then .denied 58
  else if !(s.regOn off) then .unpowered 80 (regDomain off)
  else .granted

/-- Four bytes of the buffer. -/
def prerollWord (s : State) (off : Nat) : Word := BitVec.ofNat 32 (leVal (spRange 0 s.nw.pre (prerollAt s off) 4))

/-! ## The function's own MSI-X table and PBA (R446) -/

/-- Whether an offset lies in the range of the table and the PBA. -/
def inMsix (off : Nat) : Bool := decide (0x1f00000 ≤ off ∧ off < 0x2000000)

/-- A word of the table or of the PBA. -/
def msixRead (s : State) (f : HostFn) (off : Nat) : Word :=
  if off < 0x1f80000 then
    let v := (off - 0x1f00000) / 16
    if v < msixSize s f then
      let e := s.msixEntry f v
      match off % 16 / 4 with
      | 0 => e.lo
      | 1 => e.hi
      | 2 => e.data
      | _ => if e.mask then 1 else 0
    else 0
  else
    let n := msixSize s f
    let w := (off - 0x1f80000) / 4 * 32
    BitVec.ofNat 32 ((List.range 32).foldl (fun a j =>
      if w + j < n && (s.msixEntry f (w + j)).pend then a + 2 ^ j else a) 0)

/-- A write of the table; the PBA is read-only. -/
def msixWrite (f : HostFn) (off : Nat) (v : Word) (s : State) : State :=
  let k := (off - 0x1f00000) / 16
  if off < 0x1f80000 && decide (k < msixSize s f) then
    let e := s.msixEntry f k
    match off % 16 / 4 with
    | 0 => s.setMsix f k { e with lo := withBits 1 0 0 v }
    | 1 => s.setMsix f k { e with hi := v }
    | 2 => s.setMsix f k { e with data := v }
    | _ => setMask f k (v.getLsbD 0) s
  else s

/-! ## REGISTER_WRITE (R46–R48, R353, R447) -/

/-- A write of one word of BAR0 by a master; a function may reach its own MSI-X table. -/
def busWrite (m : Nat) (fn : Option HostFn) (off : Nat) (v : Word) (s : State) : State :=
  if inPreroll off then denyAccess 58 m (faultFlags true false false true false) off s
  else if inMsix off then (match fn with | some f => msixWrite f off v s | none => s)
  else match regGate s m true off with
    | .granted => busAction off v s
    | g => gateFaults g m true off s

/-- Whether an access has a size and an alignment that BAR0 takes (R46). -/
def sizeOk (off size : Nat) : Bool := (size == 4 && off % 4 == 0) || (size == 8 && off % 8 == 0)

/-- An access of another size or alignment is logged, with the target of its block; none: 0xFFFF (R46, R535; DEDUCED, log
entry 9). At a fused-off resource nothing is logged and nothing counts (R3). -/
def sizeFault (m : Nat) (write : Bool) (off size : Nat) (s : State) : State :=
  if regFused s.code off then s
  else logFault 4 (faultFlags write false false true false) m (match blockOf off with | some (_, t) => t | none => 0xFFFF) size off s

/-- A write of BAR0: 64-bit ones as two of 32 bits, the lower address first (R46). -/
def bar0Write (f : HostFn) (off size : Nat) (data : BitVec 64) (s : State) : State :=
  let m := s.masterOf f
  if !(sizeOk off size) then sizeFault m true off size s
  else
    let s := busWrite m (some f) off (data.setWidth 32) s
    if size = 8 then busWrite m (some f) (off + 4) ((data >>> 32).setWidth 32) s else s

/-- What a word written to a page of BAR2 does there: the two doorbells, and nothing at any other offset (R353). -/
def doorbellWord (c off v : Nat) : State → State :=
  if off = 0 then actSqTail c v
  else if off = 4 then (if v.testBit 31 then actCqArm c v else actCqHead c v)
  else id

/-- A word written to a page of BAR2 (R353, R354). -/
def pageWrite (f : HostFn) (off v : Nat) (s : State) : State :=
  doorbell f (off / 0x1000) (off % 0x1000) (doorbellWord (off / 0x1000) (off % 0x1000) v) s

/-- A size fault of a write of BAR2 (R353, R535). -/
def pageSizeFault (m : Nat) (off size : Nat) (s : State) : State :=
  logFault 4 (faultFlags true false false true false) m 59 size off s

/-- A write of BAR2: 32 bits, or 64 at page offset 0 as SQ_TAIL and then CQ_HEAD (R353, R551). -/
def bar2Write (f : HostFn) (off size : Nat) (data : BitVec 64) (s : State) : State :=
  if size = 4 ∧ off % 4 = 0 then pageWrite f off (data.setWidth 32).toNat s
  else if size = 8 ∧ off % 0x1000 = 0 then
    pageWrite f (off + 4) (data >>> 32).toNat (pageWrite f off (data.setWidth 32).toNat s)
  else pageSizeFault (s.masterOf f) off size s

/-- A write of BAR0 or of BAR2; one outside the BAR is an Unsupported Request (R447). -/
def registerWrite (f : HostFn) (bar2 : Bool) (off size : Nat) (data : BitVec 64) (s : State) : State :=
  if !(s.barsDecode f) then s
  else if (if bar2 then 0x400000 else 0x2000000) ≤ off then aerError f.port 20 s
  else if bar2 then bar2Write f off size data s
  else bar0Write f off size data s

def execRegisterWrite (f : HostFn) (bar2 : Bool) (off size : Nat) (data : BitVec 64) (s : State) :
    Host.Outcome State Fault Refusal :=
  ok (registerWrite f bar2 off size data) s

/-! ## REGISTER_READ -/

/-- A read of one word of BAR0 by a function. -/
def busRead (f : HostFn) (off : Nat) (s : State) : Word × State :=
  let m := s.masterOf f
  if inPreroll off then
    match prerollGate s m off with
    | .granted => (prerollWord s off, s)
    | g => (0, gateFaults g m false off s)
  else if inMsix off then (msixRead s f off, s)
  else match regGate s m false off with
    | .granted => ((match regAt off with | some d => hostView d (viewReg s off) | none => 0), s)
    | g => (0, gateFaults g m false off s)

/-- A read of BAR0, and its completion. -/
def bar0Read (f : HostFn) (off size : Nat) (s : State) : State :=
  if !(sizeOk off size) then
    (sizeFault (s.masterOf f) false off size s).out (.readDone f 0 off (List.replicate size 0) false)
  else
    let (lo, s) := busRead f off s
    if size = 8 then
      let (hi, s) := busRead f (off + 4) s
      s.out (.readDone f 0 off (leBytes 4 lo.toNat ++ leBytes 4 hi.toNat) false)
    else s.out (.readDone f 0 off (leBytes 4 lo.toNat) false)

/-- A read of BAR2 returns zero and changes nothing, whatever its size and alignment (R353). -/
def bar2Read (f : HostFn) (off size : Nat) (s : State) : State :=
  s.out (.readDone f 2 off (List.replicate size 0) false)

/-- A read of BAR0 or of BAR2 (R46, R353, R447). -/
def registerRead (f : HostFn) (bar2 : Bool) (off size : Nat) (s : State) : State :=
  if !(s.barsDecode f) then s
  else if (if bar2 then 0x400000 else 0x2000000) ≤ off then (aerError f.port 20 s).out (.unsupported f)
  else if bar2 then bar2Read f off size s
  else bar0Read f off size s

def execRegisterRead (f : HostFn) (bar2 : Bool) (off size : Nat) (s : State) : Host.Outcome State Fault Refusal :=
  ok (registerRead f bar2 off size) s

/-! ## ZEN_TRIG and ZEN_SIGNAL (R177–R179, R187) -/

def execZenTrig (f : HostFn) (proc : Fin 64) (arg : BitVec 16) (s : State) : Host.Outcome State Fault Refusal :=
  ok (hostWrite f Reg.ZEN_TRIG (busAction Reg.ZEN_TRIG (BitVec.ofNat 32 (proc.val + 65536 * arg.toNat)))) s

def execZenSignal (f : HostFn) (val : Word) (s : State) : Host.Outcome State Fault Refusal :=
  ok (hostWrite f Reg.ZEN_SIGNAL (busAction Reg.ZEN_SIGNAL val)) s

end Sys2Proof.Machine
end

