-- ==== Sys2Proof/Machine/Faults.lean ====
section
/-! DEFINITION. The fault log's writer (R534–R538). -/
namespace Sys2Proof.Machine

/-- The slot of the record with a sequence number (R534). -/
def logSlot (seq : Nat) : Nat := (seq + 2 ^ 32 - 1) % 4096

/-- A word of a slot's record. -/
def logWord (s : State) (slot w : Nat) : Nat := (s.reg (Reg.FLT_REC slot w)).toNat

/-- Whether a fault merges into the latest written record (R538). -/
def logMerges (s : State) (e : FaultEntry) : Bool :=
  let seq := s.fget Fld.FLT_SEQ_SEQ
  let k := logSlot seq
  let t := logWord s k 6 + 2 ^ 32 * logWord s k 7
  decide (seq ≠ 0) && decide (logWord s k 1 = e.kind + 256 * e.flags + 65536 * e.master) &&
    decide (logWord s k 2 % 65536 = e.target) && decide (t ≤ e.t ∧ e.t < t + 100000) &&
    decide (logWord s k 2 / 65536 < 65535)

/-- The eight words of a record (R536). -/
def recordWords (seq : Nat) (e : FaultEntry) : List Nat :=
  [seq, e.kind + 256 * e.flags + 65536 * e.master, e.target, e.detail, e.addr, e.addr / 2 ^ 32 % 256, e.t, e.t / 2 ^ 32]

/-- The state with a record in a slot. -/
def putRecord (slot : Nat) (ws : List Nat) (s : State) : State :=
  (List.range 8).foldl (fun s w => s.setReg (Reg.FLT_REC slot w) (BitVec.ofNat 32 (ws.getD w 0))) s

/-- The log takes one fault: a merge, or a new record and vector 0 (R537, R538, R369). -/
def logOne (e : FaultEntry) (s : State) : State :=
  if logMerges s e then
    let k := logSlot (s.fget Fld.FLT_SEQ_SEQ)
    (s.setReg (Reg.FLT_REC k 2) (BitVec.ofNat 32 (logWord s k 2 + 65536))).fadd Fld.FLT_MERGED_COUNT 1
  else
    let seq := (s.fget Fld.FLT_SEQ_SEQ + 1) % 2 ^ 32
    advanceSeq Fld.FLT_SEQ_SEQ 0 (putRecord (logSlot seq) (recordWords seq e) s)

/-- FAULT_LOG_WRITE: the head of the queue is taken (R537). -/
def faultLogWrite (s : State) : State :=
  match s.flt.queue with
  | [] => s
  | e :: q => logOne e ({ s with flt := ⟨q⟩ }.fset Fld.FLT_QUEUE_LEVEL q.length)

def execFaultLogWrite (s : State) : Host.Outcome State Fault Refusal := ok faultLogWrite s

end Sys2Proof.Machine
end

