-- ==== Sys2Proof/Machine/Ovens.lean ====
section
/-! DEFINITION. LOADW, MAC and GLAZE (R219–R237). Each command advances the oldest dispatched instruction of its kind on
an Oven as far as its Racks let it go. -/
namespace Sys2Proof.Machine

/-! ## LOADW (R223, R228) -/

/-- Codes decoded into 64 rows of 64 weights. -/
def tileOf (o : Oven) (slot : Nat) (bs : List Byte) : List (List Word) :=
  (List.range 64).map fun i => (slice (64 * i) 64 bs).map fun b => spGet 0 o.decs (slot * 256 + b.toNat)

/-- A LOADW's effect on its tiles: a split one decodes its low plane through the low-code slot (R223, R228). -/
def loadTiles (s : State) (n : Nat) (d : DInstr) (o : Oven) : Oven :=
  let i := d.ins
  let bytes := s.pantryBytes n (pantryAt i.saddr 0 i.istride 0 d.iter) (if i.split then 8192 else 4096)
  if i.split then
    { o with tile0 := tileOf o (i.dec % 8) (bytes.take 4096), tile1 := tileOf o (i.dec / 16 % 8) (bytes.drop 4096) }
  else if i.tile = 0 then { o with tile0 := tileOf o (i.dec % 8) bytes }
  else { o with tile1 := tileOf o (i.dec % 8) bytes }

/-- LOADW: a tile, or both in split mode, is loaded, and the instruction finishes (R222, R223). -/
def loadw (n : Nat) (s : State) : State :=
  match headOf (s.oven n) fun d => d.ins.op == .loadw with
  | none => s
  | some (k, d) => dispatch n (finishDisp n k (onOven n (loadTiles s n d) s))

def execLoadw (n : Fin 48) (s : State) : Host.Outcome State Fault Refusal := ok (loadw n.val) s

/-! ## MAC (R225–R228) -/

/-- The decoded lanes of codes. -/
def decodeAll (o : Oven) (slot : Nat) (bs : List Byte) : List Word :=
  bs.map fun b => spGet 0 o.decs (slot * 256 + b.toNat)

/-- The passes of one wave: its activations with their tile, in order (R228). -/
def wavePasses (o : Oven) (i : OInstr) (bs : List Byte) : List (List Word × List (List Word)) :=
  if i.split then
    let h := decodeAll o (i.dec % 8) (bs.take 64)
    let l := decodeAll o (i.dec / 16 % 8) ((bs.drop 64).take 64)
    [(h, o.tile0), (h, o.tile1), (l, o.tile0), (l, o.tile1)]
  else [(decodeAll o (i.dec % 8) bs, if i.tile = 0 then o.tile0 else o.tile1)]

/-- Whether wave w is the instruction's first into its row (R225). -/
def firstIntoRow (i : OInstr) (w : Nat) : Bool :=
  !((List.range (min w 512)).any fun v => rowAt i.daddr i.dstep v == rowAt i.daddr i.dstep w)

/-- The row a wave adds into, cleared by its first wave under CLEAR. -/
def macRow (o : Oven) (i : OInstr) (w : Nat) : AccRow :=
  if i.clear && firstIntoRow i w then { AccRow.zero with bs := i.ascale } else bankRow o 0 (rowAt i.daddr i.dstep w)

/-- A row after the passes of a wave, with the saturations. -/
def wavesInto (r : AccRow) : List (List Word × List (List Word)) → AccRow × Nat
  | [] => (r, 0)
  | (xs, t) :: ps =>
    let (r, a) := waveRow t xs r
    let (r, b) := wavesInto r ps
    (r, a + b)

/-- The bytes of a MAC's wave from the Pantry. -/
def macBytes (s : State) (n : Nat) (d : DInstr) : List Byte :=
  s.pantryBytes n (pantryAt d.ins.saddr d.ins.sstep d.ins.istride d.w d.iter) (if d.ins.split then 128 else 64)

/-- One wave of a MAC: the row, OVN_ACCSAT, and OVN_HC (R226, R227, R250). -/
def macWave (n k : Nat) (d : DInstr) (bs : List Byte) (s : State) : State :=
  let o := s.oven n
  let ps := wavePasses o d.ins bs
  let (r, sat) := wavesInto (macRow o d.ins d.w) ps
  let s := onDisp n k (fun d => { d with started := true, w := d.w + 1, g0 := [] })
    (onOven n (putA (rowAt d.ins.daddr d.ins.dstep d.w) r) s)
  let hc := s.pair (Reg.OVN_HC_LO n) (Reg.OVN_HC_HI n) + ps.length
  countAccSat n sat (s.setPair (Reg.OVN_HC_LO n) (Reg.OVN_HC_HI n) hc)

/-- Waves of the MAC at a position, until it ends or its Rack runs dry; `fuel` bounds them. -/
def macLoop (n k : Nat) : Nat → State → State
  | 0, s => s
  | fuel + 1, s =>
    match (s.oven n).disp[k]? with
    | none => s
    | some d =>
      if d.ins.count ≤ d.w then finishDisp n k s
      else if macKind d.ins.src = 1 then
        let need := if d.ins.split then 4 else 2
        let (g, s) := gather n d.ins.src true need d.g0 s
        if g.length < need then onDisp n k (fun d => { d with started := d.started || !g.isEmpty, g0 := g }) s
        else macLoop n k fuel (macWave n k d (g.flatMap (·.data)) s)
      else macLoop n k fuel (macWave n k d (macBytes s n d) s)

/-- MAC: the array's instruction advances (R219, R222). -/
def mac (n : Nat) (s : State) : State :=
  match headOf (s.oven n) fun d => d.ins.op == .mac with
  | none => s
  | some (k, d) => dispatch n (macLoop n k (d.ins.count + 1) s)

def execMac (n : Fin 48) (s : State) : Host.Outcome State Fault Refusal := ok (mac n.val) s

/-! ## GLAZE (R230, R234–R237) -/

/-- A Curve slot of an Oven; one with no entry gives 0 (R140). -/
def curveOf (o : Oven) (k : Nat) : Curve := spGet Curve.zero o.curves k

/-- A lane-by-lane stage on a vector, with its saturations. -/
def stageVec (o : Oven) (sop : Nat) (sarg : Int) (x a2 a3 : List Int) : List Int × Nat :=
  let ls := (List.range 64).map fun j => stageLane (curveOf o) sop sarg (x.getD j 0) (a2.getD j 0) (a3.getD j 0)
  (ls.map (·.1), (ls.map (·.2)).sum)

/-- The stages before the first pooling stage (R236), and that stage. -/
def stagesBefore : List (Nat × Int) → List (Nat × Int)
  | [] => []
  | t :: ts => if t.1 = 8 || t.1 = 9 then [] else t :: stagesBefore ts
def poolStage (ts : List (Nat × Int)) : Option (Nat × Int) := ts.find? fun t => t.1 == 8 || t.1 == 9

/-- The stages of a list in order. -/
def runStages (o : Oven) (a2 a3 : List Int) : List (Nat × Int) → List Int → List Int × Nat
  | [], x => (x, 0)
  | (op, arg) :: ts, x =>
    let (x, a) := stageVec o op arg x a2 a3
    let (x, b) := runStages o a2 a3 ts x
    (x, a + b)

/-- A vector joins the pooling group: the running maximum, or the running sum (R235). -/
def poolJoin (op : Nat) (n : Nat) (acc x : List Int) : List Int :=
  if n = 0 then x
  else (List.range 64).map fun j =>
    if op = 8 then max (acc.getD j 0) (x.getD j 0) else acc.getD j 0 + x.getD j 0

/-- The vector of a pooling group of `n` (R235, R236). -/
def poolDone (op : Nat) (n : Nat) (acc : List Int) : List Int :=
  if op = 8 then acc else acc.map fun v => divNearestEven v n

/-- An output vector's bytes: raw lanes, or codes through the encode slot (R237). -/
def outBytes (o : Oven) (enc : Nat) (x : List Int) : List Byte :=
  if enc / 128 = 1 then x.flatMap fun v => leBytes 4 (unsignedOf 32 v)
  else x.map fun v => encodeDy (spGet EncTable.zero o.encs (enc % 8)) (v, -24)

/-- An output vector leaves: to the Pantry at once, to a Rack as slots that wait for credits, or nowhere (R230, R237). -/
def emitVec (n k : Nat) (d : DInstr) (x : List Int) (s : State) : State :=
  let i := d.ins
  let bs := outBytes (s.oven n) i.enc x
  let s := match dstKind i.dst with
    | 0 => s.putPantry n (pantryAt i.daddr i.dstep i.istride d.outw d.iter) bs
    | 1 =>
      let last := i.frameEnd && d.lastIter && decide (d.outw + 1 = outVectors i)
      let sl := toSlots bs i.user (bs.length / 32)
      let sl := if last then sl.dropLast ++ (sl.getLast?.map fun x => { x with frameEnd := true }).toList else sl
      onDisp n k (fun d => { d with emit := sl }) s
    | _ => s
  onDisp n k (fun d => { d with outw := d.outw + 1 }) s

/-- One input vector through the stages, and out when its group is complete (R234–R236). -/
def glazeVec (n k : Nat) (d : DInstr) (x : List Int) (a2 a3 : List Int) (s : State) : State :=
  let o := s.oven n
  let (y, sat) := runStages o a2 a3 (stagesBefore d.ins.stages) x
  let s := countLaneSat n sat s
  let s := onDisp n k (fun d => { d with started := true, w := d.w + 1, g0 := [], g1 := [], g2 := [] }) s
  match poolStage d.ins.stages with
  | none => emitVec n k d y s
  | some (op, p) =>
    let acc := poolJoin op d.poolN d.pool y
    if d.poolN + 1 = p.toNat ∨ d.w + 1 = d.ins.count then
      emitVec n k d (poolDone op (d.poolN + 1) acc) (onDisp n k (fun d => { d with poolN := 0, pool := [] }) s)
    else onDisp n k (fun d => { d with poolN := d.poolN + 1, pool := acc }) s

/-- An aux vector: the one held under AUXHOLD, or the next (R236). -/
def auxVec (s : State) (n : Nat) (d : DInstr) (l : Nat) (raw : Bool) (slot addr : Nat) (held : Option (List Int))
    (slots : List RSlot) : List Int × Nat :=
  match held with
  | some v => (v, 0)
  | none =>
    let w := if d.ins.auxhold then 0 else d.w
    vecAt s n l raw slot (pantryAt addr (auxStep l raw) d.ins.istride w d.iter) (rowAt addr 1 w) slots

/-- Slots an aux still needs. -/
def auxNeed (d : DInstr) (l : Nat) (raw : Bool) (held : Option (List Int)) : Nat :=
  if d.ins.auxhold && held.isSome then 0 else slotsNeeded l raw

/-- Vectors of the GLAZE at a position until it ends, a Rack runs dry or credits run out; `fuel` bounds them. -/
def glazeLoop (n k : Nat) : Nat → State → State
  | 0, s => s
  | fuel + 1, s =>
    match (s.oven n).disp[k]? with
    | none => s
    | some d =>
      let i := d.ins
      let (left, s) := pushAll n i.dst (passDeadline s n) d.emit s
      let s := onDisp n k (fun d => { d with emit := left }) s
      if !left.isEmpty then s
      else if i.count ≤ d.w then finishDisp n k s
      else
        let raw := i.dec / 128 == 1
        let need0 := slotsNeeded i.src raw
        let need1 := auxNeed d i.aux2 (aux2Raw i) d.hold1
        let need2 := auxNeed d i.aux3 (aux3Raw i) d.hold2
        let (g0, s) := gather n i.src true need0 d.g0 s
        let (g1, s) := gather n i.aux2 true need1 d.g1 s
        let (g2, s) := gather n i.aux3 true need2 d.g2 s
        if g0.length < need0 ∨ g1.length < need1 ∨ g2.length < need2 then
          onDisp n k (fun d => { d with started := d.started || !(g0 ++ g1 ++ g2).isEmpty, g0, g1, g2 }) s
        else
          let (x, a) := vecAt s n i.src raw (i.dec % 8) (pantryAt i.saddr i.sstep i.istride d.w d.iter)
            (rowAt i.saddr i.sstep d.w) g0
          let (a2, b) := auxVec s n d i.aux2 (aux2Raw i) (i.auxdec % 8) i.aux2addr d.hold1 g1
          let (a3, c) := auxVec s n d i.aux3 (aux3Raw i) (i.auxdec / 16 % 8) i.aux3addr d.hold2 g2
          let s := countLaneSat n (a + b + c) s
          let s := if i.auxhold then onDisp n k (fun d => { d with hold1 := some a2, hold2 := some a3 }) s else s
          glazeLoop n k fuel (glazeVec n k d x a2 a3 s)

/-- GLAZE: Glaze's instruction advances (R222, R235). -/
def glaze (n : Nat) (s : State) : State :=
  match headOf (s.oven n) fun d => d.ins.op == .glaze with
  | none => s
  | some (k, d) => dispatch n (glazeLoop n k (d.ins.count + 1) s)

def execGlaze (n : Fin 48) (s : State) : Host.Outcome State Fault Refusal := ok (glaze n.val) s

end Sys2Proof.Machine
end

