-- ==== Sys2Proof/Machine/Zenith.lean ====
section
/-! DEFINITION. State-table passes of Zenith, the Stream Channels and Nightwatch, and what their outputs do (R145–R153,
R177–R180, R389, R390, R485, R486). -/
namespace Sys2Proof.Machine

/-! ## Zenith's inputs and outputs (R179, R180) -/

/-- The bits of the numbers below `n` that satisfy a test. -/
def maskOf (n : Nat) (p : Nat → Bool) : Word :=
  BitVec.ofNat 32 ((List.range n).foldl (fun a k => if p k then a + 2 ^ k else a) 0)

/-- Inputs 0–7. -/
def zenInputs (s : State) (z : ZenInst) : List Word :=
  [BitVec.ofNat 32 z.cause, z.arg, if s.pwr.vok then 1 else 0,
    maskOf 16 fun c => s.fget (Fld.MEM_CH_TRAINED c) = 1,
    maskOf 4 (inService s),
    maskOf 16 fun b => s.fget (Fld.RCP_BAKERY_STATE b) = 1,
    BitVec.ofNat 32 (gpioLevels s),
    if s.pwr.pins.modulePresN then 0 else 1]

/-- HOST_EVENT: ZEN_EVT_CODE, and ZEN_EVT_SEQ advances on vector 4 (R187, R369). -/
def hostEvent (code : Word) (s : State) : State := advanceSeq Fld.ZEN_EVT_SEQ_SEQ 4 (s.setReg Reg.ZEN_EVT_CODE code)

/-- MODULE_RDY_N driven low, or released. -/
def moduleRdy (low : Bool) (s : State) : State :=
  { s with pwr := { s.pwr with pins := { s.pwr.pins with moduleRdyN := !low } } }

/-- An EMIT of a Procedure; an ARG above 1 of the two pins counts as 1 (R8; DEDUCED, log entry 42). -/
def zenEmit (dst : Nat) (arg : Word) (s : State) : State :=
  match dst with
  | 0 => startRequest (min arg.toNat 63) 0x41 arg s
  | 1 => zenDeferred s
  | 2 => hostEvent arg s
  | 3 => moduleRdy (arg != 0) s
  | 4 => driveHearthEn (arg != 0) s
  | 5 => nwHandover s
  | _ => nwStandby s

/-- What WRITE_DONE of a write waits for, in the state after it (R180, R336, R339): Rise on the link, the Set, or the write's
own completion (DEDUCED, log entry 20). -/
def writeWait (off : Nat) (v : Word) (s : State) : WriteWait :=
  if off = Reg.MER_RISE ∧ linkState s (bitsOf 1 0 v) ≠ 5 then .rise (bitsOf 1 0 v)
  else if off = Reg.MER_SET ∧ s.mer.set.isSome then .set
  else .issued

/-- A WRITE of a Procedure, under Zenith's master ID; one without a WRITE entry is done at once (R21, R180; DEDUCED, log entry 29). -/
def zenWrite (i dst : Nat) (arg : Word) (s : State) : State :=
  match s.zen.targets.lookup dst with
  | none => writeDone i s
  | some o =>
    let off := o / 4 * 4
    let s := busWrite 0x418 none off arg s
    onInst i (fun z => { z with write := writeWait off arg s }) s

/-! ## Passes (R151–R153) -/

/-- What a row that has fired asks of its engine: EMIT, with the locals as the row found them, or WRITE; DST is clamped to
the engine's ranges (R149). -/
def rowOut (emitMax writeMax : Nat) (emit : Nat → Word → List Word → State → State) (write : Nat → Word → State → State)
    (r : TRow) (locals : List Word) (s : State) : State :=
  if r.act = 8 then emit (min r.dst emitMax) r.arg locals s
  else if r.act = 9 then write (min r.dst writeMax) r.arg s
  else s

/-- The rows of a pass, one after another: each acts on its instance, and what it asks of its engine happens before the next
row fires, so an event that it raises is pending then, outside the snapshot (R151, R152). `get` and `put` reach the
instance; `fuel` counts the rows down. -/
def runRows (t : TTable) (inputs : List Word) (now : Nat) (get : State → Option TInst) (put : TInst → State → State)
    (out : TRow → List Word → State → State) : Nat → Nat → State → PassEnd × State
  | 0, _, s => (.limit, s)
  | fuel + 1, snap, s =>
    match get s with
    | none => (.idle, s)
    | some i =>
      match fireRow t (fun k => inputs.getD k 0) now snap i with
      | none => (.idle, s)
      | some (r, snap, x) =>
        let s := put x s
        if r.act = 10 then (if fuel = 0 then .haltLimit else .halt, s)
        else runRows t inputs now get put out fuel snap (out r i.locals s)

/-- A pass over a snapshot of the inputs, the timers and the events of an instance: at most 64 rows fire (R151, R152). -/
def runPass (t : TTable) (inputs : List Word) (now : Nat) (get : State → Option TInst) (put : TInst → State → State)
    (out : TRow → List Word → State → State) (i : TInst) (s : State) : PassEnd × State :=
  runRows t inputs now get put out 64 i.events (put (i.begun inputs now) s)

/-- The instance that a slot of Zenith runs. -/
def zenInst (i : Nat) (s : State) : Option TInst := (s.zen.insts.getD i none).map (·.inst)

/-- A pass of instance `i` of Zenith. HALT frees the instance. -/
def zenPass (i : Nat) (s : State) : State :=
  match s.zen.insts.getD i none with
  | none => s
  | some z =>
    match s.zen.procs.lookup z.proc with
    | none => s
    | some t =>
      let ins := zenInputs s z
      if !(z.inst.ready ins) then s
      else
        let (e, s) := runPass t ins s.usCount (zenInst i) (fun x => onInst i (fun z => { z with inst := x }))
          (rowOut 6 255 (fun d a _ => zenEmit d a) (zenWrite i)) z.inst s
        let s := if e.limited then s.fsat (Fld.ZEN_COUNT_STEPLIM z.proc) else s
        syncZen (if e.halts then { s with zen := { s.zen with insts := s.zen.insts.set i none } } else s)

/-- The inputs of a channel's table, as a list. -/
def strInputs (s : State) (k : Nat) (c : SChan) : List Word := (List.range 11).map (strInput s k c)

/-- The instance of a Stream Channel. -/
def strInst (k : Nat) (s : State) : Option TInst := (s.chan? k).bind (·.inst)

/-- A pass of a Stream Channel's table. -/
def strPass (k : Nat) (s : State) : State :=
  match s.chan? k with
  | none => s
  | some c =>
    match c.inst with
    | none => s
    | some i =>
      let ins := strInputs s k c
      if !(chanOn s k) || !(i.ready ins) then s
      else
        let (e, s) := runPass c.table ins s.usCount (strInst k) (fun x => onChan k (fun c => { c with inst := some x }))
          (rowOut 3 0 (fun d a ls => strEmit k ls d a) (fun _ _ s => s)) i s
        let s := if e.limited then s.fsat (Fld.STR_DROPS_STEPLIM k) else s
        if e.halts then onChan k (fun c => { c with inst := none }) s else s

/-- The inputs of the pattern tables, as a list. -/
def nwInputs (s : State) : List Word := (List.range 11).map (nwInput s)

/-- The instance of a pattern table, and the state with it replaced. -/
def nwInst (t : Nat) (s : State) : Option TInst := s.nw.tables.lookup t
def putNwInst (t : Nat) (x : TInst) (s : State) : State :=
  onNw (fun n => { n with tables := n.tables.map fun y => if y.1 = t then (t, x) else y }) s

/-- A pass of a pattern table. -/
def nwPass (t : Nat) (s : State) : State :=
  match s.nw.tables.lookup t, s.nw.cfg.bind fun g => g.tables.lookup t with
  | some i, some tab =>
    let ins := nwInputs s
    if !(i.ready ins) then s
    else
      let (e, s) := runPass tab ins s.nw.scount (nwInst t) (putNwInst t)
        (rowOut 1 0 (fun d a _ => nwEmit t d a) (fun _ _ s => s)) i s
      let s := nwTableRegs (if e.limited then s.fsat (Fld.NW_TABLE_STEPLIM t) else s)
      if e.halts then onNw (fun n => { n with tables := n.tables.filter fun y => y.1 != t }) s else s
  | _, _ => s

/-- STATE_TABLE_PASS; Nightwatch's tables need VDD_NW alone (R161). -/
def execStateTablePass (e : Engine) (s : State) : Host.Outcome State Fault Refusal :=
  match e with
  | .zenith i => ok (fun s => if s.on 111 then zenPass i.val s else s) s
  | .stream k => ok (strPass k.val) s
  | .nightwatch t => okNw (nwPass t.val) s

/-! ## Timers (R149, R154) -/

/-- Timer `k` of an instance expires, if its boundary has come. -/
def expireDue (now k : Nat) (i : TInst) : TInst := if i.due now k then i.expire k else i

/-- TIMER_EXPIRY. -/
def execTimerExpiry (e : Engine) (k : Fin 4) (s : State) : Host.Outcome State Fault Refusal :=
  match e with
  | .zenith i => ok (fun s => onInst i.val (fun z => { z with inst := expireDue s.usCount k.val z.inst }) s) s
  | .stream c => ok (fun s => onChan c.val (fun x => { x with inst := x.inst.map (expireDue s.usCount k.val) }) s) s
  | .nightwatch t => okNw (fun s => onNw (fun n => { n with
      tables := n.tables.map fun y => if y.1 = t.val then (y.1, expireDue n.scount k.val y.2) else y }) s) s

/-! ## WRITE_DONE and pending starts (R178–R180) -/

/-- WRITE_DONE: a write that waits only for itself. -/
def writeCompletes (i : Nat) (s : State) : State :=
  match s.zen.insts.getD i none with
  | some z => if z.write = .issued then writeDone i s else s
  | none => s

def execWriteDone (i : Fin 8) (s : State) : Host.Outcome State Fault Refusal := ok (writeCompletes i.val) s

/-- The oldest pending request whose Procedure does not run, taken out. -/
def takeReq (z : ZenState) : List ZenReq → Option (ZenReq × List ZenReq)
  | [] => none
  | r :: rs =>
    if z.runs r.proc then
      match takeReq z rs with
      | some (q, qs) => some (q, r :: qs)
      | none => none
    else some (r, rs)

/-- PROCEDURE_START: the oldest pending request that can start does, once an instance is free. -/
def procedureStart (s : State) : State :=
  if s.zen.freeInst.isNone then s
  else match takeReq s.zen s.zen.reqs with
    | some (r, rs) => startInst r { s with zen := { s.zen with reqs := rs } }
    | none => s

def execProcedureStart (s : State) : Host.Outcome State Fault Refusal := ok procedureStart s

end Sys2Proof.Machine
end

