-- ==== Sys2Proof/Machine/Dispatch.lean ====
section
/-! DEFINITION. The dispatch: one arm per command, each a direct call of its meaning. -/
namespace Sys2Proof.Machine

def exec (i : Instr) (s : State) : Host.Outcome State Fault Refusal :=
  match i with
  | .registerWrite f bar2 off size data => Sys2Proof.Machine.execRegisterWrite f bar2 off size data s
  | .vddNwRise => Sys2Proof.Machine.execVddNwRise s
  | .vddNwLoss => Sys2Proof.Machine.execVddNwLoss s
  | .porNAssert => Sys2Proof.Machine.execPorNAssert s
  | .porNDeassert bootsel addrSel => Sys2Proof.Machine.execPorNDeassert bootsel addrSel s
  | .perstNAssert => Sys2Proof.Machine.execPerstNAssert s
  | .perstNDeassert => Sys2Proof.Machine.execPerstNDeassert s
  | .bootRomStart => Sys2Proof.Machine.execBootRomStart s
  | .configSpaceBuilt => Sys2Proof.Machine.execConfigSpaceBuilt s
  | .autoSpiLoad flash => Sys2Proof.Machine.execAutoSpiLoad flash s
  | .load f seq => Sys2Proof.Machine.execLoad f seq s
  | .patch f bakery seq => Sys2Proof.Machine.execPatch f bakery seq s
  | .deferred f seq => Sys2Proof.Machine.execDeferred f seq s
  | .loadVerified data => Sys2Proof.Machine.execLoadVerified data s
  | .commit data fuses => Sys2Proof.Machine.execCommit data fuses s
  | .sourceFault data sect off => Sys2Proof.Machine.execSourceFault data sect off s
  | .deferredDone data => Sys2Proof.Machine.execDeferredDone data s
  | .patchQuiesce => Sys2Proof.Machine.execPatchQuiesce s
  | .drainTimeout => Sys2Proof.Machine.execDrainTimeout s
  | .patchApply data => Sys2Proof.Machine.execPatchApply data s
  | .pwrReqWrite f d req => Sys2Proof.Machine.execPwrReqWrite f d req s
  | .domainTransitionStart d => Sys2Proof.Machine.execDomainTransitionStart d s
  | .domainTransitionDone => Sys2Proof.Machine.execDomainTransitionDone s
  | .vddHearthLoss => Sys2Proof.Machine.execVddHearthLoss s
  | .crustSupplyFault sup => Sys2Proof.Machine.execCrustSupplyFault sup s
  | .thermtrip => Sys2Proof.Machine.execThermtrip s
  | .modulePresAssert => Sys2Proof.Machine.execModulePresAssert s
  | .modulePresRelease => Sys2Proof.Machine.execModulePresRelease s
  | .moduleEjectNFall => Sys2Proof.Machine.execModuleEjectNFall s
  | .moduleEject => Sys2Proof.Machine.execModuleEject s
  | .moduleEjectNRise => Sys2Proof.Machine.execModuleEjectNRise s
  | .bakeryReset f bakery seq => Sys2Proof.Machine.execBakeryReset f bakery seq s
  | .bakeryResetDone => Sys2Proof.Machine.execBakeryResetDone s
  | .zenTrig f proc arg => Sys2Proof.Machine.execZenTrig f proc arg s
  | .zenSignal f val => Sys2Proof.Machine.execZenSignal f val s
  | .procedureStart => Sys2Proof.Machine.execProcedureStart s
  | .stateTablePass e => Sys2Proof.Machine.execStateTablePass e s
  | .timerExpiry e k => Sys2Proof.Machine.execTimerExpiry e k s
  | .writeDone inst => Sys2Proof.Machine.execWriteDone inst s
  | .streamEnable f k => Sys2Proof.Machine.execStreamEnable f k s
  | .streamStop f k => Sys2Proof.Machine.execStreamStop f k s
  | .hostTrigger f k arg => Sys2Proof.Machine.execHostTrigger f k arg s
  | .streamSignal f k val => Sys2Proof.Machine.execStreamSignal f k val s
  | .ticketAck k err e => Sys2Proof.Machine.execTicketAck k err e s
  | .frameStart g => Sys2Proof.Machine.execFrameStart g s
  | .otgStart f g => Sys2Proof.Machine.execOtgStart f g s
  | .otgStop f g => Sys2Proof.Machine.execOtgStop f g s
  | .otgAtWrite f g at_ => Sys2Proof.Machine.execOtgAtWrite f g at_ s
  | .ctxEnable f c => Sys2Proof.Machine.execCtxEnable f c s
  | .ctxDisable f c => Sys2Proof.Machine.execCtxDisable f c s
  | .sqTailDoorbell f c v => Sys2Proof.Machine.execSqTailDoorbell f c v s
  | .cqHeadUpdate f c v => Sys2Proof.Machine.execCqHeadUpdate f c v s
  | .cqArm f c v => Sys2Proof.Machine.execCqArm f c v s
  | .descriptorFetched c err e => Sys2Proof.Machine.execDescriptorFetched c err e s
  | .waitingJobProceeds => Sys2Proof.Machine.execWaitingJobProceeds s
  | .passStart n => Sys2Proof.Machine.execPassStart n s
  | .loadw n => Sys2Proof.Machine.execLoadw n s
  | .mac n => Sys2Proof.Machine.execMac n s
  | .glaze n => Sys2Proof.Machine.execGlaze n s
  | .fetch n => Sys2Proof.Machine.execFetch n s
  | .flush n => Sys2Proof.Machine.execFlush n s
  | .loop n => Sys2Proof.Machine.execLoop n s
  | .ovenEnd n => Sys2Proof.Machine.execOvenEnd n s
  | .starterAffine n => Sys2Proof.Machine.execStarterAffine n s
  | .starterMix n => Sys2Proof.Machine.execStarterMix n s
  | .starterRebaseIf n => Sys2Proof.Machine.execStarterRebaseIf n s
  | .passEnd n => Sys2Proof.Machine.execPassEnd n s
  | .mailboxWrite c err e => Sys2Proof.Machine.execMailboxWrite c err e s
  | .completionRecordWrite c e => Sys2Proof.Machine.execCompletionRecordWrite c e s
  | .msixMessage c => Sys2Proof.Machine.execMsixMessage c s
  | .msixUnmask f v => Sys2Proof.Machine.execMsixUnmask f v s
  | .mbxAck f m seq => Sys2Proof.Machine.execMbxAck f m seq s
  | .bakeryStall bakery => Sys2Proof.Machine.execBakeryStall bakery s
  | .bulkPromotion t => Sys2Proof.Machine.execBulkPromotion t s
  | .serviceOpportunity t err e => Sys2Proof.Machine.execServiceOpportunity t err e s
  | .meterGain => Sys2Proof.Machine.execMeterGain s
  | .copyUnit k err e => Sys2Proof.Machine.execCopyUnit k err e s
  | .copyComplete k => Sys2Proof.Machine.execCopyComplete k s
  | .mr4Poll c rate => Sys2Proof.Machine.execMr4Poll c rate s
  | .powerDownEntry c => Sys2Proof.Machine.execPowerDownEntry c s
  | .channelTrained c => Sys2Proof.Machine.execChannelTrained c s
  | .memTrained => Sys2Proof.Machine.execMemTrained s
  | .hostReadCompletion tag e => Sys2Proof.Machine.execHostReadCompletion tag e s
  | .completionTimeout tag => Sys2Proof.Machine.execCompletionTimeout tag s
  | .linkTrained l => Sys2Proof.Machine.execLinkTrained l s
  | .linkIdent l constId home plink dev unit => Sys2Proof.Machine.execLinkIdent l constId home plink dev unit s
  | .refusedRetry l => Sys2Proof.Machine.execRefusedRetry l s
  | .gen2Fallback l errors => Sys2Proof.Machine.execGen2Fallback l errors s
  | .linkLost l => Sys2Proof.Machine.execLinkLost l s
  | .ackProgressTimeout l => Sys2Proof.Machine.execAckProgressTimeout l s
  | .replayExhausted l => Sys2Proof.Machine.execReplayExhausted l s
  | .linkDisable f l => Sys2Proof.Machine.execLinkDisable f l s
  | .flitReceived l x => Sys2Proof.Machine.execFlitReceived l x s
  | .msgRd l m => Sys2Proof.Machine.execMsgRd l m s
  | .msgWrf l m => Sys2Proof.Machine.execMsgWrf l m s
  | .msgWrm l m => Sys2Proof.Machine.execMsgWrm l m s
  | .msgRdc l m => Sys2Proof.Machine.execMsgRdc l m s
  | .msgWra l m => Sys2Proof.Machine.execMsgWra l m s
  | .msgSlot l m => Sys2Proof.Machine.execMsgSlot l m s
  | .msgRouteAnnounce l homes offset => Sys2Proof.Machine.execMsgRouteAnnounce l homes offset s
  | .msgWithdrawal l homes => Sys2Proof.Machine.execMsgWithdrawal l homes s
  | .msgSetNotice l dest leaver => Sys2Proof.Machine.execMsgSetNotice l dest leaver s
  | .msgSetOffer l dest x => Sys2Proof.Machine.execMsgSetOffer l dest x s
  | .msgRelocation l dest base size newBase => Sys2Proof.Machine.execMsgRelocation l dest base size newBase s
  | .msgSetFinal l dest leaver => Sys2Proof.Machine.execMsgSetFinal l dest leaver s
  | .epochSlew offset => Sys2Proof.Machine.execEpochSlew offset s
  | .rise f l seq => Sys2Proof.Machine.execRise f l seq s
  | .riseComplete l depths => Sys2Proof.Machine.execRiseComplete l depths s
  | .setGo f seq => Sys2Proof.Machine.execSetGo f seq s
  | .setWindowCopied => Sys2Proof.Machine.execSetWindowCopied s
  | .setComplete => Sys2Proof.Machine.execSetComplete s
  | .paceTick sent crust => Sys2Proof.Machine.execPaceTick sent crust s
  | .avsAttemptDone good data => Sys2Proof.Machine.execAvsAttemptDone good data s
  | .riseCutWindow => Sys2Proof.Machine.execRiseCutWindow s
  | .paceEvtAck f seq => Sys2Proof.Machine.execPaceEvtAck f seq s
  | .orbAuto f c => Sys2Proof.Machine.execOrbAuto f c s
  | .orbManual f c rpm => Sys2Proof.Machine.execOrbManual f c rpm s
  | .orbStop f c => Sys2Proof.Machine.execOrbStop f c s
  | .orbClear f c => Sys2Proof.Machine.execOrbClear f c s
  | .orbPendingCommand c => Sys2Proof.Machine.execOrbPendingCommand c s
  | .observeTransition c before after => Sys2Proof.Machine.execObserveTransition c before after s
  | .observeEnd c => Sys2Proof.Machine.execObserveEnd c s
  | .brakeEnd c => Sys2Proof.Machine.execBrakeEnd c s
  | .positionDone c trips => Sys2Proof.Machine.execPositionDone c trips s
  | .alignEnd c => Sys2Proof.Machine.execAlignEnd c s
  | .rampCommutation c => Sys2Proof.Machine.execRampCommutation c s
  | .rampFail c => Sys2Proof.Machine.execRampFail c s
  | .zeroCrossing c level seen => Sys2Proof.Machine.execZeroCrossing c level seen s
  | .commutation c => Sys2Proof.Machine.execCommutation c s
  | .syncLoss c => Sys2Proof.Machine.execSyncLoss c s
  | .ocTrip c isns => Sys2Proof.Machine.execOcTrip c isns s
  | .overcurrent c => Sys2Proof.Machine.execOvercurrent c s
  | .short c isns => Sys2Proof.Machine.execShort c isns s
  | .faultRetry c => Sys2Proof.Machine.execFaultRetry c s
  | .speedLoopUpdate c => Sys2Proof.Machine.execSpeedLoopUpdate c s
  | .measurementLapse c => Sys2Proof.Machine.execMeasurementLapse c s
  | .faultEnd c => Sys2Proof.Machine.execFaultEnd c s
  | .featureFrame => Sys2Proof.Machine.execFeatureFrame s
  | .alarmBlock => Sys2Proof.Machine.execAlarmBlock s
  | .channelDead c => Sys2Proof.Machine.execChannelDead c s
  | .channelAlive c => Sys2Proof.Machine.execChannelAlive c s
  | .tsyncCapture => Sys2Proof.Machine.execTsyncCapture s
  | .wakeDelivery => Sys2Proof.Machine.execWakeDelivery s
  | .windowTimeout => Sys2Proof.Machine.execWindowTimeout s
  | .nwClose f seq => Sys2Proof.Machine.execNwClose f seq s
  | .scrubDone => Sys2Proof.Machine.execScrubDone s
  | .nwPost f => Sys2Proof.Machine.execNwPost f s
  | .nwWakeAck f seq => Sys2Proof.Machine.execNwWakeAck f seq s
  | .nwSignal f val => Sys2Proof.Machine.execNwSignal f val s
  | .nwModeListen f => Sys2Proof.Machine.execNwModeListen f s
  | .nwModeFull f => Sys2Proof.Machine.execNwModeFull f s
  | .nwReset f => Sys2Proof.Machine.execNwReset f s
  | .nwEnrol f user kw seq => Sys2Proof.Machine.execNwEnrol f user kw seq s
  | .nwEnrolDelete f user kw seq => Sys2Proof.Machine.execNwEnrolDelete f user kw seq s
  | .enrolTimeout => Sys2Proof.Machine.execEnrolTimeout s
  | .crossingIsolation => Sys2Proof.Machine.execCrossingIsolation s
  | .pdmClockChange => Sys2Proof.Machine.execPdmClockChange s
  | .settleEnd => Sys2Proof.Machine.execSettleEnd s
  | .frameStartPacket p vc number corrected => Sys2Proof.Machine.execFrameStartPacket p vc number corrected s
  | .longPacket p vc dt data crcOk corrected => Sys2Proof.Machine.execLongPacket p vc dt data crcOk corrected s
  | .frameEndPacket p vc corrected => Sys2Proof.Machine.execFrameEndPacket p vc corrected s
  | .otherPacket p vc x => Sys2Proof.Machine.execOtherPacket p vc x s
  | .mipiFrameDone p vc => Sys2Proof.Machine.execMipiFrameDone p vc s
  | .hpdChange p level => Sys2Proof.Machine.execHpdChange p level s
  | .edpTrainingStart p => Sys2Proof.Machine.execEdpTrainingStart p s
  | .edpLinkLoss p => Sys2Proof.Machine.execEdpLinkLoss p s
  | .hpdIrq p lockLost => Sys2Proof.Machine.execHpdIrq p lockLost s
  | .trainingDone p success => Sys2Proof.Machine.execTrainingDone p success s
  | .trainingRetry p => Sys2Proof.Machine.execTrainingRetry p s
  | .portRetrain f g => Sys2Proof.Machine.execPortRetrain f g s
  | .portHold f g => Sys2Proof.Machine.execPortHold f g s
  | .portRelease f g => Sys2Proof.Machine.execPortRelease f g s
  | .auxNativeRead f p len seq => Sys2Proof.Machine.execAuxNativeRead f p len seq s
  | .auxNativeWrite f p len seq => Sys2Proof.Machine.execAuxNativeWrite f p len seq s
  | .auxI2cRead f p len seq => Sys2Proof.Machine.execAuxI2cRead f p len seq s
  | .auxI2cWrite f p len seq => Sys2Proof.Machine.execAuxI2cWrite f p len seq s
  | .auxComplete r data => Sys2Proof.Machine.execAuxComplete r data s
  | .auxDeferRetry => Sys2Proof.Machine.execAuxDeferRetry s
  | .dsiPush f => Sys2Proof.Machine.execDsiPush f s
  | .dsiInitEntry => Sys2Proof.Machine.execDsiInitEntry s
  | .scanoutLine g reads => Sys2Proof.Machine.execScanoutLine g reads s
  | .hotReset p => Sys2Proof.Machine.execHotReset p s
  | .dlDown p => Sys2Proof.Machine.execDlDown p s
  | .flr f => Sys2Proof.Machine.execFlr f s
  | .vfEnableWrite p enable => Sys2Proof.Machine.execVfEnableWrite p enable s
  | .configWrite f off be data => Sys2Proof.Machine.execConfigWrite f off be data s
  | .d3hot f => Sys2Proof.Machine.execD3hot f s
  | .bar4Read f off len err e => Sys2Proof.Machine.execBar4Read f off len err e s
  | .bar4Write f off data en ep err e => Sys2Proof.Machine.execBar4Write f off data en ep err e s
  | .unsupportedRequest f => Sys2Proof.Machine.execUnsupportedRequest f s
  | .entdaa addr => Sys2Proof.Machine.execEntdaa addr s
  | .setdasa sa addr => Sys2Proof.Machine.execSetdasa sa addr s
  | .setnewda addr => Sys2Proof.Machine.execSetnewda addr s
  | .rstdaa => Sys2Proof.Machine.execRstdaa s
  | .enec => Sys2Proof.Machine.execEnec s
  | .disec => Sys2Proof.Machine.execDisec s
  | .getpid => Sys2Proof.Machine.execGetpid s
  | .getbcr => Sys2Proof.Machine.execGetbcr s
  | .getdcr => Sys2Proof.Machine.execGetdcr s
  | .getstatus => Sys2Proof.Machine.execGetstatus s
  | .getmwl => Sys2Proof.Machine.execGetmwl s
  | .getmrl => Sys2Proof.Machine.execGetmrl s
  | .setmwl n => Sys2Proof.Machine.execSetmwl n s
  | .setmrl n => Sys2Proof.Machine.execSetmrl n s
  | .sbTrig proc arg => Sys2Proof.Machine.execSbTrig proc arg s
  | .sbTohost msg => Sys2Proof.Machine.execSbTohost msg s
  | .sbTosb f msg => Sys2Proof.Machine.execSbTosb f msg s
  | .ibiRetry accepted => Sys2Proof.Machine.execIbiRetry accepted s
  | .spiGo f len seq => Sys2Proof.Machine.execSpiGo f len seq s
  | .spiPassthroughDone data => Sys2Proof.Machine.execSpiPassthroughDone data s
  | .gpioSet f bits => Sys2Proof.Machine.execGpioSet f bits s
  | .gpioClr f bits => Sys2Proof.Machine.execGpioClr f bits s
  | .gpioEdge gpio => Sys2Proof.Machine.execGpioEdge gpio s
  | .sbdEvtAck f seq => Sys2Proof.Machine.execSbdEvtAck f seq s
  | .tapBypass => Sys2Proof.Machine.execTapBypass s
  | .tapIdcode => Sys2Proof.Machine.execTapIdcode s
  | .tapSamplePreload preload => Sys2Proof.Machine.execTapSamplePreload preload s
  | .tapExtest preload => Sys2Proof.Machine.execTapExtest preload s
  | .tapClamp => Sys2Proof.Machine.execTapClamp s
  | .tapHighz => Sys2Proof.Machine.execTapHighz s
  | .faultLogWrite => Sys2Proof.Machine.execFaultLogWrite s
  | .vddHearthReturn => Sys2Proof.Machine.execVddHearthReturn s
  | .vretLoss => Sys2Proof.Machine.execVretLoss s
  | .vretReturn => Sys2Proof.Machine.execVretReturn s
  | .linkDetect l => Sys2Proof.Machine.execLinkDetect l s
  | .meridianTrainDone l peerGen lanes => Sys2Proof.Machine.execMeridianTrainDone l peerGen lanes s
  | .mipiPortStateChange p st => Sys2Proof.Machine.execMipiPortStateChange p st s
  | .dlUp p gen width => Sys2Proof.Machine.execDlUp p gen width s
  | .aspmL1Entry p => Sys2Proof.Machine.execAspmL1Entry p s
  | .aspmL1Exit p => Sys2Proof.Machine.execAspmL1Exit p s
  | .poisonedTlpReceived f => Sys2Proof.Machine.execPoisonedTlpReceived f s
  | .ecrcError f => Sys2Proof.Machine.execEcrcError f s
  | .gpioInputChange gpio level => Sys2Proof.Machine.execGpioInputChange gpio level s
  | .sampleBoundary bits => Sys2Proof.Machine.execSampleBoundary bits s
  | .registerRead f bar2 off size => Sys2Proof.Machine.execRegisterRead f bar2 off size s
  | .tapReset => Sys2Proof.Machine.execTapReset s

end Sys2Proof.Machine
end

