-- ==== Sys2Proof/Safety.lean ====
section
/-! DEFINITION. What claims are stated in terms of: the invariant of a state, what a fuse may become, when a host command
reaches its register, and when a command completes. -/
namespace Sys2Proof.Machine

/-! ## The invariant -/

/-- DRAM, its poison marking and the Pantries are held in canonical form: addresses strictly rising, and nothing listed
that an unlisted address reads as. -/
def MemState.wf (m : MemState) : Bool :=
  spWf (fun _ => 0) m.dram && spWf (fun _ => false) m.poison && spWf (fun _ => 0) m.pantry

/-- The Procedure numbers of the running instances of Zenith. -/
def ZenState.running (z : ZenState) : List Nat := z.insts.filterMap fun o => o.map ZenInst.proc

/-- Zenith has 8 instances, at most one of each Procedure (R177). -/
def ZenState.wf (z : ZenState) : Bool := z.insts.length == 8 && decide z.running.Nodup

/-- The registers and the memory are in canonical form, Zenith keeps R177 and the fault log's queue R537. -/
def State.wf (s : State) : Bool :=
  spWf regReset s.regs && s.mem.wf && s.zen.wf && decide (s.flt.queue.length ≤ 64)

/-! ## Fuses (R103–R107) -/

/-- What may become of a key slot: hash bits only burn, a valid slot keeps its hash, and no fuse is unburnt. -/
def FuseSlot.grows (f g : FuseSlot) : Prop :=
  (∀ b, f.hash.testBit b = true → g.hash.testBit b = true) ∧ (f.valid = true → g.valid = true ∧ g.hash = f.hash) ∧
    (f.revoked = true → g.revoked = true)

/-- What may become of the fuses: every slot grows, and the rollback counter does not decrease (R104, R107). -/
def fusesGrow (r q : RcpState) : Prop :=
  q.slots.length = r.slots.length ∧ (∀ i, (r.slots.getD i ⟨0, false, false⟩).grows (q.slots.getD i ⟨0, false, false⟩)) ∧
    r.rollback ≤ q.rollback

/-- The fuses are as they were. -/
def sameFuses (r q : RcpState) : Prop := q.slots = r.slots ∧ q.rollback = r.rollback

/-! ## Frames -/

/-- Every register but those at the offsets listed holds what it held. -/
def regsBut (offs : List Nat) (s t : State) : Prop := ∀ o, o ∉ offs → t.reg o = s.reg o

/-- What the signalling of a vector may change of the registers: a port's count of lost messages (R450). -/
def msgRegs : List Nat := [Reg.SBD_PCIE_MSGLOST 0, Reg.SBD_PCIE_MSGLOST 1]

/-- What the detection of a fault of a kind changes of the registers (R537). -/
def fltRegs (kind : Nat) : List Nat := [Reg.FLT_COUNT kind, Reg.FLT_QUEUE, Reg.FLT_LOST]

/-! ## Passes of state tables (R151) -/

/-- The snapshot's events and an instance after `n` rows of a pass that act on the instance alone: none of them is an EMIT, a
WRITE or a HALT. `none`: fewer such rows fire. -/
def quietRows (t : TTable) (inputs : List Word) (now : Nat) : Nat → Nat × TInst → Option (Nat × TInst)
  | 0, p => some p
  | n + 1, p =>
    match fireRow t (fun k => inputs.getD k 0) now p.1 p.2 with
    | some (r, snap, x) => if 8 ≤ r.act ∧ r.act ≤ 10 then none else quietRows t inputs now n (snap, x)
    | none => none

/-- The same, from the begin of a pass. -/
def passRows (t : TTable) (inputs : List Word) (now n : Nat) (i : TInst) : Option (Nat × TInst) :=
  quietRows t inputs now n (i.events, i.begun inputs now)

/-- The row that fires next in a pass. -/
def nextRow (t : TTable) (inputs : List Word) (now : Nat) (p : Nat × TInst) : Option TRow :=
  (fireRow t (fun k => inputs.getD k 0) now p.1 p.2).map (·.1)

/-! ## Commands -/

/-- The outcomes of the machine. -/
abbrev Out := Host.Outcome State Fault Refusal

/-- A host write of a register at an offset is carried out: Crust is defined, the function's BARs decode, and the access
is granted (R48, R161, R449, R578). -/
def HostGranted (s : State) (f : HostFn) (off : Nat) : Prop :=
  s.pwr.undef = false ∧ s.barsDecode f = true ∧ regGate s (s.masterOf f) true off = .granted

/-- The register that a command writes on behalf of a host function, and the word it writes there; `none`: a command of
another kind. -/
def hostWord : Instr → Option (HostFn × Nat × Word)
  | .load f q => some (f, Reg.RCP_CMD, BitVec.ofNat 32 (1 + 65536 * q.toNat))
  | .patch f b q => some (f, Reg.RCP_CMD, BitVec.ofNat 32 (2 + 16 * b.val + 65536 * q.toNat))
  | .deferred f q => some (f, Reg.RCP_CMD, BitVec.ofNat 32 (3 + 65536 * q.toNat))
  | .pwrReqWrite f d v => some (f, Reg.PWR_REQ d.val, BitVec.ofNat 32 v.val)
  | .bakeryReset f b q => some (f, Reg.PWR_BAKRST, BitVec.ofNat 32 (b.val + 65536 * q.toNat))
  | .zenTrig f p a => some (f, Reg.ZEN_TRIG, BitVec.ofNat 32 (p.val + 65536 * a.toNat))
  | .zenSignal f v => some (f, Reg.ZEN_SIGNAL, v)
  | .streamEnable f k => some (f, Reg.STR_CTRL k.val, 1)
  | .streamStop f k => some (f, Reg.STR_CTRL k.val, 2)
  | .hostTrigger f k a => some (f, Reg.STR_TRIG k.val, a)
  | .streamSignal f k v => some (f, Reg.STR_SIGNAL k.val, v)
  | .otgStart f g => some (f, Reg.OTG_CTRL g.val, 1)
  | .otgStop f g => some (f, Reg.OTG_CTRL g.val, 2)
  | .otgAtWrite f g v => some (f, Reg.OTG_AT g.val, v)
  | .ctxEnable f c => some (f, Reg.CTX_CTRL c.val, 1)
  | .ctxDisable f c => some (f, Reg.CTX_CTRL c.val, 2)
  | .mbxAck f m q => some (f, Reg.MBX_ACK m.val, q)
  | .linkDisable f l => some (f, Reg.MER_LINK_CTRL l.val, 1)
  | .rise f l q => some (f, Reg.MER_RISE, BitVec.ofNat 32 (l.val + 65536 * q.toNat))
  | .setGo f q => some (f, Reg.MER_SET, BitVec.ofNat 32 (1 + 65536 * q.toNat))
  | .paceEvtAck f q => some (f, Reg.PACE_EVT_ACK, q)
  | .orbAuto f c => some (f, Reg.ORB_CMD c.val, 1)
  | .orbManual f c rpm => some (f, Reg.ORB_CMD c.val, BitVec.ofNat 32 (2 + 65536 * rpm.toNat))
  | .orbStop f c => some (f, Reg.ORB_CMD c.val, 3)
  | .orbClear f c => some (f, Reg.ORB_CMD c.val, 4)
  | .nwClose f q => some (f, Reg.NW_CLOSE, q)
  | .nwPost f => some (f, Reg.NW_POST, 1)
  | .nwWakeAck f q => some (f, Reg.NW_WAKE_ACK, q)
  | .nwSignal f v => some (f, Reg.NW_SIGNAL, v)
  | .nwModeListen f => some (f, Reg.NW_CTRL, 1)
  | .nwModeFull f => some (f, Reg.NW_CTRL, 2)
  | .nwReset f => some (f, Reg.NW_CTRL, 0x100)
  | .nwEnrol f u k q => some (f, Reg.NW_ENROL, enrolWord u k 1 q)
  | .nwEnrolDelete f u k q => some (f, Reg.NW_ENROL, enrolWord u k 2 q)
  | .portRetrain f g => some (f, Reg.VOUT_PORT_CMD g.val, 1)
  | .portHold f g => some (f, Reg.VOUT_PORT_CMD g.val, 2)
  | .portRelease f g => some (f, Reg.VOUT_PORT_CMD g.val, 3)
  | .auxNativeRead f p n q => some (f, Reg.VOUT_AUX_CMD, BitVec.ofNat 32 (p.val + 8 * n.val + 65536 * q.toNat))
  | .auxNativeWrite f p n q => some (f, Reg.VOUT_AUX_CMD, BitVec.ofNat 32 (p.val + 2 + 8 * n.val + 65536 * q.toNat))
  | .auxI2cRead f p n q => some (f, Reg.VOUT_AUX_CMD, BitVec.ofNat 32 (p.val + 4 + 8 * n.val + 65536 * q.toNat))
  | .auxI2cWrite f p n q => some (f, Reg.VOUT_AUX_CMD, BitVec.ofNat 32 (p.val + 6 + 8 * n.val + 65536 * q.toNat))
  | .dsiPush f => some (f, Reg.VOUT_DSI_PUSH, 1)
  | .sbTosb f m => some (f, Reg.SBD_SB_TOSB, m)
  | .spiGo f n q => some (f, Reg.SBD_SPI_GO, BitVec.ofNat 32 (n.toNat + 65536 * q.toNat))
  | .gpioSet f b => some (f, Reg.SBD_GPIO_SET, b.setWidth 32)
  | .gpioClr f b => some (f, Reg.SBD_GPIO_CLR, b.setWidth 32)
  | .sbdEvtAck f q => some (f, Reg.SBD_EVT_ACK, q)
  | _ => none

/-- The events that go on while Crust, Hearth and the memory dies are undefined after a supply fault: the reset pins, the
supplies, the module's pins, and what happens inside Nightwatch (R161). -/
def outlives : Instr → Bool
  | .vddNwRise | .vddNwLoss | .porNAssert | .porNDeassert .. | .perstNAssert | .perstNDeassert | .vddHearthLoss
  | .vddHearthReturn | .crustSupplyFault _ | .modulePresAssert | .modulePresRelease | .moduleEjectNFall | .moduleEjectNRise
  | .vretLoss | .vretReturn | .featureFrame | .alarmBlock | .channelDead _ | .channelAlive _ | .tsyncCapture | .wakeDelivery
  | .windowTimeout | .scrubDone | .enrolTimeout | .crossingIsolation | .pdmClockChange | .settleEnd | .sampleBoundary _
  | .stateTablePass (.nightwatch _) | .timerExpiry (.nightwatch _) _ => true
  | _ => false

/-- A command that Zenith, an engine or the world makes while Crust is defined (R161). -/
def Defined (s : State) : Prop := s.pwr.undef = false

end Sys2Proof.Machine
end

