-- ==== Sys2Proof/Certificates/Slice0/Obligations.lean ====
section
/-! DEFINITION. The obligations: what the provers are asked to prove of the machine. -/

open Sys2Proof Sys2Proof.Machine

/-- A STEP RUNS THE FRONT COMMAND: with `c` at the front, a step is `exec c` on the state with the rest of the queue. On an
empty queue 1 ns passes (the model's choice, DESIGN CHOICE, log entry 2): the machine's clocks advance, Epoch only while the
boot ROM has started and Crust is defined; beside them only registers (drop and wait counters), the fabric's latched voltage,
Stream Channels and Pace's boundary may change. -/
def Obligations.step_runs_front : Prop :=
  (∀ (c : Instr) (cs : List Instr) (s : State), step { s with pending := c :: cs } = exec c { s with pending := cs }) ∧
  ∀ (s : State), s.pending = [] → ∃ t, step s = .next t ∧ t.mono = s.mono + 1 ∧
    t.epoch = (if s.pwr.romRunning = true ∧ s.pwr.undef = false then (s.epoch + 1) % 2 ^ 64 else s.epoch) ∧
    t = { s with mono := t.mono, epoch := t.epoch, usCount := t.usCount, regs := t.regs, fab := t.fab, str := t.str, pace := t.pace }

/-- From every state that meets the invariant, not only those a run reaches, a step that answers a next state answers one
that meets it: Zenith never runs a Procedure twice nor more than 8 instances (R177), the fault log's queue never holds more
than 64 (R537), and registers, DRAM, poison marking and Pantries stay in canonical form. -/
def Obligations.step_keeps_invariant : Prop :=
  ∀ (s t : State), s.wf = true → step s = .next t → t.wf = true

/-- Over every step from every state: hash bits only burn, a slot whose valid fuse is burnt keeps its hash, a revoke fuse
stays burnt, and the rollback counter does not decrease (R103, R104, R107). Every command but COMMIT, which applies the
KEYFUSE section of a load, leaves every fuse as it is: no Patch, register write or reset touches one (R105, R107). -/
def Obligations.fuses_only_burn : Prop :=
  (∀ (s t : State), step s = .next t → fusesGrow s.rcp t.rcp) ∧
    ∀ (c : Instr) (s t : State), (∀ d f, c ≠ .commit d f) → exec c s = .next t → sameFuses s.rcp t.rcp

/-- Every command leaves the ordering code (R1, R4) and the queue of the commands that wait as they are. -/
def Obligations.commands_keep_code_and_queue : Prop :=
  ∀ (c : Instr) (s t : State), exec c s = .next t → t.code = s.code ∧ t.pending = s.pending

/-- The machine right after reset meets the invariant that every step keeps: registers and memory in canonical form, at most
one instance of each Procedure (R177), at most 64 faults queued (R537). It holds what the spec gives: every Crust and Hearth
domain OFF (R155, R168), Epoch 0 (R549), no access table loaded (R378), no Recipe loaded, the mailboxes empty (R370), no
job, no request, nothing queued. -/
def Obligations.reset_values : Prop :=
  State.reset.wf = true ∧ (∀ d, d < 159 → State.reset.dom d = .off) ∧ State.reset.epoch = 0 ∧ State.reset.awt = none ∧
    State.reset.fget Fld.RCP_STATUS_STATE = 0 ∧
    (∀ m, m < 256 → (∀ k, k < 16 → State.reset.reg (Reg.MBX_DATA m k) = 0) ∧ State.reset.fget (Fld.MBX_STAT_READY m) = 0 ∧
      State.reset.fget (Fld.MBX_STAT_POISON m) = 0 ∧ State.reset.fget (Fld.MBX_SEQ_SEQ m) = 0 ∧
      State.reset.fget (Fld.MBX_STAT_OVERWRITTEN m) = 0) ∧
    State.reset.ctx.jobs = [] ∧ State.reset.fab.reqs = [] ∧ State.reset.flt.queue = [] ∧ State.reset.pending = []

/-- A power-on reset: POR_N falls while it is high. Every Crust, Hearth and memory domain is OFF, their registers read their
reset values, HEARTH_EN is low, no Recipe is loaded, no access table is in force, no job, request, fault or waiting
transition is left, and Epoch is 0; Nightwatch, its registers, the fuses and the supplies are as they were. PERST_N falls
while POR_N is high: the domains other than CRUST_AON and Nightwatch's are OFF with their registers at reset, no Recipe and
no access table is left, the fault log and the fuses stay. PERST_N rises: the boot ROM is due again, and nothing else
changes. -/
def Obligations.resets : Prop :=
  ∀ (s : State), s.wf = true → s.pwr.pins.porN = true →
    (∃ t, exec .porNAssert s = .next t ∧ t.pwr.pins.porN = false ∧ t.pwr.pins.hearthEn = false ∧
      (∀ d, d < 159 → t.dom d = .off) ∧ (∀ o, regDomain o < 159 → t.reg o = regReset o) ∧
      (∀ o, 159 ≤ regDomain o → t.reg o = s.reg o) ∧ t.fget Fld.RCP_STATUS_STATE = 0 ∧ t.awt = none ∧ t.ctx.jobs = [] ∧
      t.fab.reqs = [] ∧ t.flt.queue = [] ∧ t.pwr.pend = [] ∧ t.pwr.moving = [] ∧ t.epoch = 0 ∧ t.nw = s.nw ∧
      sameFuses s.rcp t.rcp ∧ t.pwr.sup = s.pwr.sup) ∧
    (Defined s → s.pwr.pins.perstN = true → ∃ t, exec .perstNAssert s = .next t ∧ t.pwr.pins.perstN = false ∧
      t.dom 111 = .on ∧ (∀ d, d < 159 → d ≠ 111 → t.dom d = .off) ∧
      (∀ o, regDomain o < 159 → regDomain o ≠ 111 → t.reg o = regReset o) ∧ (∀ o, 159 ≤ regDomain o → t.reg o = s.reg o) ∧
      t.fget Fld.RCP_STATUS_STATE = 0 ∧ t.awt = none ∧ t.ctx.jobs = [] ∧ t.fab.reqs = [] ∧ t.pwr.pend = [] ∧ t.pwr.moving = [] ∧
      t.flt = s.flt ∧ t.nw = s.nw ∧ sameFuses s.rcp t.rcp ∧ t.pwr.sup = s.pwr.sup) ∧
    (Defined s → s.pwr.pins.perstN = false → exec .perstNDeassert s =
      .next { s with pwr := { s.pwr with pins := { s.pwr.pins with perstN := true }, romDue := true } })

/-- POR_N rises: BOOTSEL and SB_ADDRSEL are sampled (R108, R454), CRUST_AON is ON (R155), a Crust state that a supply fault
left undefined is defined again (R161), and the boot ROM is due (R165); the supplies being good is the board's obligation
(DESIGN CHOICE, log entry 1). VDD_HEARTH's return makes it present, and the waiting requests may start (R156); a Crust
supply out of its range while POR_N is high leaves Crust undefined (R161); MODULE_PRES_N low and MODULE_EJECT_N's fall and
rise change their levels and the 10 ms timer alone (R182, R183, R185). -/
def Obligations.supplies_and_module_pins : Prop :=
  ∀ (s : State),
    (∀ (b : Fin 4) (a : Bool), exec (.porNDeassert b a) s = .next (if s.pwr.pins.porN = true then s else { s with pwr := { s.pwr with
      pins := { s.pwr.pins with porN := true }
      sup := { s.pwr.sup with crust := true }
      undef := false
      bootsel := b.val
      addrSel := a
      romDue := true
      dom := spSet .off 111 .on s.pwr.dom } })) ∧
    exec .vddHearthReturn s = .next { s with pwr := { s.pwr with sup := { s.pwr.sup with hearth := true } } } ∧
    (∀ x, exec (.crustSupplyFault x) s = .next { s with pwr := { s.pwr with
      sup := { s.pwr.sup with crust := false }
      undef := s.pwr.undef || s.pwr.pins.porN } }) ∧
    exec .modulePresAssert s = .next { s with pwr := { s.pwr with pins := { s.pwr.pins with modulePresN := false } } } ∧
    exec .moduleEjectNFall s = .next (if s.pwr.pins.moduleEjectN then { s with pwr := { s.pwr with
      pins := { s.pwr.pins with moduleEjectN := false }
      ejectAt := some s.mono } } else s) ∧
    exec .moduleEjectNRise s = .next { s with pwr := { s.pwr with
      pins := { s.pwr.pins with moduleEjectN := true }
      ejectAt := none } }

/-- VDD_HEARTH removed in service: HEARTH_VOK is 0 and every Hearth domain is OFF, the others stay as they are; Nightwatch,
the loader with the fuses, and DRAM stay. THERMTRIP: HEARTH_EN is low and THERMTRIP_N low, every Hearth domain is OFF, both
PCIe links are down, and Orbit drives no gate any more; Nightwatch and the fuses stay. MODULE_PRES_N released: its level
changes, and then each of the four links loses its signal in turn, as LINK_LOST says; Nightwatch stays. -/
def Obligations.hearth_loss_thermtrip_pres_release : Prop :=
  ∀ (s : State), s.pwr.pins.porN = true → Defined s → spWf (fun _ => DomState.off) s.pwr.dom = true →
    (∃ t, exec .vddHearthLoss s = .next t ∧ t.pwr.sup.hearth = false ∧ t.pwr.vok = false ∧ (∀ d, d < 111 → t.dom d = .off) ∧
      (∀ d, 111 ≤ d → t.dom d = s.dom d) ∧ t.nw = s.nw ∧ t.rcp = s.rcp ∧ t.side = s.side ∧ t.mem.dram = s.mem.dram) ∧
    (s.pwr.tripped = false → ∃ t, exec .thermtrip s = .next t ∧ t.pwr.tripped = true ∧ t.pwr.pins.thermtripN = false ∧
      t.pwr.pins.hearthEn = false ∧ t.orb.tripped = true ∧ t.pcie.linkA.up = false ∧ t.pcie.linkB.up = false ∧
      (∀ d, d < 111 → t.dom d = .off) ∧ t.nw = s.nw ∧ t.rcp = s.rcp ∧ t.side = s.side) ∧
    (∀ u : State, u = { s with pwr := { s.pwr with pins := { s.pwr.pins with modulePresN := true } } } →
      (s.on 112 = false → exec .modulePresRelease s = .next u) ∧
      (s.on 112 = true → ∃ t0 t1 t2 t3, exec (.linkLost 0) u = .next t0 ∧ exec (.linkLost 1) t0 = .next t1 ∧
        exec (.linkLost 2) t1 = .next t2 ∧ exec (.linkLost 3) t2 = .next t3 ∧ exec .modulePresRelease s = .next t3 ∧
        t3.nw = s.nw ∧ t3.rcp = s.rcp ∧ t3.pwr = u.pwr))

/-- BOOT_ROM_START while the ROM is due and both resets are high: it turns domains 112 to 116 ON with their PWR_REQ at ON
(R165, R186), and the loader is due under BOOTSEL 0 and 1 (R108); every other register and domain is as it was. Otherwise it
changes nothing. CONFIG_SPACE_BUILT (R166) sets that alone, once the ROM runs. -/
def Obligations.boot_rom_and_configuration_space : Prop :=
  ∀ (s : State), s.wf = true → Defined s →
    (s.pwr.romDue = true → s.pwr.pins.porN = true → s.pwr.pins.perstN = true → ∃ t, exec .bootRomStart s = .next t ∧
      t = { s with pwr := t.pwr, regs := t.regs } ∧ t.pwr = { s.pwr with
        romDue := false, romRunning := true, autoLoadDue := decide (s.pwr.bootsel < 2), dom := t.pwr.dom } ∧
      (∀ d, t.dom d = if 112 ≤ d ∧ d ≤ 116 then .on else s.dom d) ∧
      (∀ d, 112 ≤ d → d ≤ 116 → t.fget (Fld.PWR_REQ_REQ d) = 1) ∧
      (∀ o, o < Reg.PWR_REQ 112 ∨ Reg.PWR_REQ 116 < o → t.reg o = s.reg o)) ∧
    ((s.pwr.romDue = false ∨ s.pwr.pins.porN = false ∨ s.pwr.pins.perstN = false) → exec .bootRomStart s = .next s) ∧
    exec .configSpaceBuilt s = .next (if s.pwr.romRunning then { s with pwr := { s.pwr with cfgBuilt := true } } else s)

/-- A granted write of PWR_REQ. CRUST_AON and Nightwatch's domains take no request. Any other stores the clamped request (OFF
for what a fused-off resource needs, ON for RET where there is none), and a request that needs a transition waits behind the
others in place of an older one of the same domain; one that needs none only ends that older one, and POWER_DONE (event 5 of
R179) is raised when nothing is left. DOMAIN_TRANSITION_START starts the first waiting request that may start, when that is
the named domain's, and changes nothing else; a request to turn ON may start only with its dependencies ON and fewer than 8
of its die turning ON (R157). DOMAIN_TRANSITION_DONE (DEDUCED, log entry 36): the transitions under way complete, each domain
is in its new state, every other as it was. -/
def Obligations.power_requests_and_transitions : Prop :=
  (∀ (f : HostFn) (d : Fin 164) (v : Fin 4) (s : State), HostGranted s f (Reg.PWR_REQ d.val) →
    ((d.val = 111 ∨ 159 ≤ d.val) → exec (.pwrReqWrite f d v) s = .next s) ∧
    (d.val ≠ 111 → d.val < 159 → ∀ want, want = reqState s.code d.val v.val →
      ∀ t, t = { s.fset (Fld.PWR_REQ_REQ d.val) (match want with | .off => 0 | .on => 1 | .ret => 2) with
        pwr := { s.pwr with pend := s.pwr.pend.filter fun e => e.1 != d.val } } →
      (needless (headed s d.val) want = false → exec (.pwrReqWrite f d v) s =
        .next { t with pwr := { t.pwr with pend := t.pwr.pend ++ [(d.val, want)] } }) ∧
      (needless (headed s d.val) want = true → exec (.pwrReqWrite f d v) s =
        .next (if t.pwr.pend = [] ∧ s.pwr.moving = [] then raiseZen 5 t else t))) ∧
    (domFused s.code d.val = true → reqState s.code d.val v.val = .off) ∧
    (domFused s.code d.val = false → retCapable d.val = false → 2 ≤ v.val → reqState s.code d.val v.val = .on)) ∧
  (∀ (d : Fin 164) (s : State), Defined s →
    (∀ w, s.pwr.pend.find? (mayMove s) = some (d.val, w) → exec (.domainTransitionStart d) s = .next { s with pwr := { s.pwr with
      pend := s.pwr.pend.filter (fun x => x.1 != d.val), moving := s.pwr.moving ++ [(d.val, w)] } }) ∧
    ((∀ w, s.pwr.pend.find? (mayMove s) ≠ some (d.val, w)) → exec (.domainTransitionStart d) s = .next s) ∧
    (mayMove s (d.val, .on) = true → (∀ k, k ∈ domDeps d.val → s.dom k = .on) ∧
      (s.pwr.moving.countP fun e => e.2 == .on && isHearth e.1 == isHearth d.val) < 8) ∧
    (s.pwr.moving = [] → exec .domainTransitionDone s = .next s) ∧
    (s.pwr.moving ≠ [] → (s.pwr.moving.map (·.1)).Nodup → spWf (fun _ => DomState.off) s.pwr.dom = true →
      ∃ t, exec .domainTransitionDone s = .next t ∧ t.pwr.moving = [] ∧ t.pwr.pend = s.pwr.pend ∧
        (∀ k w, s.pwr.moving.lookup k = some w → t.dom k = w) ∧ (∀ k, s.pwr.moving.lookup k = none → t.dom k = s.dom k) ∧
        t.nw = s.nw ∧ t.rcp = s.rcp ∧ t.side = s.side))

/-- MODULE_EJECT raises event 14 once MODULE_EJECT_N has been low for 10 ms and CRUST_AON is ON, and changes nothing before.
A granted write of PWR_BAKRST begins the reset of a RUNNING Bakery, which is quiesced, while none is under way, and is
refused in PWR_BAKRST_DONE otherwise. BAKERY_RESET_DONE, once no job of the Bakery runs, ends it: PWR_BAKRST_DONE reads the
Bakery, REFUSED 0 and the SEQ; while a job of it runs, or with no reset under way, nothing happens. -/
def Obligations.module_eject_and_bakery_reset : Prop :=
  ∀ (s : State), s.wf = true → Defined s →
    (∀ x, s.pwr.ejectAt = some x → s.on 111 = true → exec .moduleEject s =
      .next (if x + 10000000 ≤ s.mono then raiseZen 14 { s with pwr := { s.pwr with ejectAt := none } } else s)) ∧
    (∀ f b (q : BitVec 16), HostGranted s f Reg.PWR_BAKRST →
      ((s.fget (Fld.RCP_BAKERY_STATE b.val) ≠ 1 ∨ s.pwr.bakReset.isSome = true) →
        ∃ t, exec (.bakeryReset f b q) s = .next t ∧ t.fget Fld.PWR_BAKRST_DONE_BAKERY = b.val ∧
          t.fget Fld.PWR_BAKRST_DONE_REFUSED = 1 ∧ t.fget Fld.PWR_BAKRST_DONE_SEQ = q.toNat ∧
          regsBut (Reg.PWR_BAKRST_DONE :: msgRegs) s t ∧ t = { s with regs := t.regs, pcie := t.pcie, port := t.port }) ∧
      (s.fget (Fld.RCP_BAKERY_STATE b.val) = 1 → s.pwr.bakReset = none →
        ∃ t, exec (.bakeryReset f b q) s = .next t ∧ t.pwr = { s.pwr with bakReset := some ⟨b.val, q.toNat, s.mono⟩ } ∧
          (t.bakery b.val).quiesced = true ∧ t = { s with
            pwr := t.pwr, regs := t.regs, flt := t.flt, pcie := t.pcie, fab := t.fab, ovens := t.ovens, ctx := t.ctx
            str := t.str, port := t.port })) ∧
    ((∀ r, s.pwr.bakReset = some r → draining s r.bakery = true) → exec .bakeryResetDone s = .next s) ∧
    (∀ r, s.pwr.bakReset = some r → draining s r.bakery = false → r.bakery < 16 → r.seq < 65536 → ∃ t,
      exec .bakeryResetDone s = .next t ∧ t.pwr = { s.pwr with bakReset := none } ∧
      t.fget Fld.PWR_BAKRST_DONE_BAKERY = r.bakery ∧ t.fget Fld.PWR_BAKRST_DONE_REFUSED = 0 ∧
      t.fget Fld.PWR_BAKRST_DONE_SEQ = r.seq ∧ t = { s with
        pwr := t.pwr, regs := t.regs, flt := t.flt, pcie := t.pcie, fab := t.fab, ovens := t.ovens, ctx := t.ctx
        str := t.str, mer := t.mer, port := t.port })

/-- The loader's commands. AUTO_SPI_LOAD, when the boot ROM has it due and STATE is EMPTY, reads SFDP and begins the load of
the flash's first copy. A granted LOAD begins in EMPTY and reads SRC; a granted PATCH begins in LOADED, shows its Bakery
PATCHING, and PATCH_REQ (event 16) is pending in every running Procedure; a granted DEFERRED begins pass 3 in LOADED when
there is something to re-apply, and succeeds at once when there is not. In any other STATE the command is dropped, and
RCP_DROP counts it. -/
def Obligations.loader_commands_start : Prop :=
  ∀ (f : HostFn) (b : Fin 16) (q : BitVec 16) (s : State), s.wf = true →
    (∀ flash, Defined s → s.pwr.autoLoadDue = true → s.pwr.romRunning = true → s.fget Fld.RCP_STATUS_STATE = 0 → ∃ t,
      exec (.autoSpiLoad flash) s = .next t ∧ t.rcp = { s.rcp with run := some (newRun 0 0), flash := flash } ∧
      t.regs = (s.fset Fld.RCP_STATUS_STATE 1).regs ∧ t.pwr = { s.pwr with autoLoadDue := false } ∧
      .sfdpRead 0x5A 0 1 25 ∈ t.port ∧ t = { s with rcp := t.rcp, regs := t.regs, pwr := t.pwr, port := t.port }) ∧
    (HostGranted s f Reg.RCP_CMD →
      (s.fget Fld.RCP_STATUS_STATE = 0 → ∃ t, exec (.load f q) s = .next t ∧
        t.rcp = { s.rcp with run := some (newRun 1 q.toNat) } ∧ t.regs = (s.fset Fld.RCP_STATUS_STATE 1).regs ∧
        t.port = .hostRead s.bootPort 0 (s.fget Fld.RCP_SRC_LO_ADDR * 64 + 2 ^ 32 * s.fget Fld.RCP_SRC_HI_ADDR)
          (s.fget Fld.RCP_SRC_LEN_LEN) 0 :: s.port ∧ t = { s with rcp := t.rcp, regs := t.regs, port := t.port }) ∧
      (s.fget Fld.RCP_STATUS_STATE = 3 → ∃ t, exec (.patch f b q) s = .next t ∧
        t.rcp = { s.rcp with run := some { newRun 2 q.toNat with
          bakery := b.val, before := s.fget (Fld.RCP_BAKERY_STATE b.val) } } ∧
        t.fget Fld.RCP_STATUS_STATE = 4 ∧ t.fget (Fld.RCP_BAKERY_STATE b.val) = 2 ∧
        (∀ i z, s.zen.insts.getD i none = some z → t.zen.insts.getD i none = some { z with inst := z.inst.arrive 16 }) ∧
        t = { s with rcp := t.rcp, regs := t.regs, port := t.port, zen := t.zen }) ∧
      (s.fget Fld.RCP_STATUS_STATE = 3 → s.rcp.dir.any (deferredDue s) = true → ∃ t, exec (.deferred f q) s = .next t ∧
        t.rcp.run.map (fun r => (r.kind, r.seq, r.phase, r.dir)) = some (3, q.toNat, 0, s.rcp.dir) ∧
        t.fget Fld.RCP_STATUS_STATE = 5 ∧ t.fget Fld.RCP_STATUS_DEFERRED_DONE = 0 ∧ regsBut [Reg.RCP_STATUS] s t ∧
        t = { s with rcp := t.rcp, regs := t.regs, port := t.port }) ∧
      (s.fget Fld.RCP_STATUS_STATE = 3 → s.rcp.dir.any (deferredDue s) = false → ∃ t, exec (.deferred f q) s = .next t ∧
        t.rcp.run = none ∧ t.fget Fld.RCP_STATUS_STATE = 3 ∧ t.fget Fld.RCP_STATUS_DEFERRED_DONE = 1 ∧
        t.fget Fld.RCP_RESULT_CAUSE = 0 ∧ t.fget Fld.RCP_RESULT_KIND = 3 ∧ t.fget Fld.RCP_RESULT_SEQ = q.toNat ∧
        t = { s with rcp := t.rcp, regs := t.regs, zen := t.zen, pcie := t.pcie, port := t.port }) ∧
      (∀ c, (c = .load f q ∧ s.fget Fld.RCP_STATUS_STATE ≠ 0) ∨
          ((c = .patch f b q ∨ c = .deferred f q) ∧ s.fget Fld.RCP_STATUS_STATE ≠ 3) →
        exec c s = .next (s.fsat Fld.RCP_DROP_DROPPED)))

/-- LOAD_VERIFIED and SOURCE_FAULT in pass 1, for a load by the host (kind 1) and a Patch (kind 2). A source without a failure
goes on: the load is in PASS2 and reads its source again, the Patch waits to quiesce. The first failure is rejected: CAUSE,
KIND, SECTION and SEQ are reported, a load ends in EMPTY, a Patch in LOADED with its Bakery's state as it was and LAST_CAUSE,
and nothing but the loader's registers, the fault log and the message that reports it has changed. With no command in pass 1,
LOAD_VERIFIED does nothing. -/
def Obligations.pass_one_and_source_fault : Prop :=
  ∀ (data : List Byte) (s : State), s.wf = true → Defined s →
    ((∀ r, s.rcp.run = some r → r.phase ≠ 0 ∨ r.kind = 3) → exec (.loadVerified data) s = .next s) ∧
    (∀ r, s.rcp.run = some r → r.phase = 0 → r.kind = 1 ∨ r.kind = 2 → r.seq < 65536 → r.bakery < 16 → r.before < 4 →
      (pass1 s (loadCmd s r) data = none → ∃ t, exec (.loadVerified data) s = .next t ∧ t.rcp = { s.rcp with
          run := some { r with magic := true, phase := 1, head := recipeHead s data, dir := dirOf data } } ∧
        t.regs = (if r.kind = 1 then s.fset Fld.RCP_STATUS_STATE 2 else s).regs ∧
        t = { s with rcp := t.rcp, regs := t.regs, port := t.port }) ∧
      (∀ (c : Instr) (x : Reject), (c = .loadVerified data ∧ pass1 s (loadCmd s r) data = some x) ∨
          (∃ sect off, c = .sourceFault data sect off ∧ x = ⟨cSourceFault, sect.toNat, off⟩) → ∃ t, exec c s = .next t ∧
        t.rcp = { s.rcp with run := none } ∧ t.fget Fld.RCP_STATUS_STATE = (if r.kind = 1 then 0 else 3) ∧
        t.fget Fld.RCP_RESULT_CAUSE = x.cause % 256 ∧ t.fget Fld.RCP_RESULT_KIND = r.kind ∧ t.fget Fld.RCP_RESULT_SEQ = r.seq ∧
        t.fget Fld.RCP_REJECT_SECTION = x.sect % 65536 ∧
        (r.kind = 2 → t.fget (Fld.RCP_BAKERY_STATE r.bakery) = r.before ∧
          t.fget (Fld.RCP_BAKERY_LAST_CAUSE r.bakery) = x.cause % 256) ∧
        t = { s with rcp := t.rcp, regs := t.regs, flt := t.flt, pcie := t.pcie, port := t.port }))

/-- COMMIT in pass 2 of a load without a KEYFUSE section. When every section's CRC holds again the Recipe is committed:
STATE is LOADED, the access tables and the primary port are in force, RCP_RESULT reads CAUSE 0 and the load's KIND and SEQ,
and no fuse has changed. When a section has changed, SOURCE_CHANGED is rejected, STATE is EMPTY, and tables, memory, fabric,
contexts, channels, links, video, Orbit, Pace and Ovens are as they were before pass 2. Outside pass 2 and the burning of
fuses nothing happens. -/
def Obligations.pass_two_commits_or_undoes : Prop :=
  ∀ (data : List Byte) (fuses : List Nat) (s : State), s.wf = true → Defined s →
    ((∀ r, s.rcp.run = some r → (r.phase ≠ 1 ∧ r.phase ≠ 3) ∨ 1 < r.kind) → exec (.commit data fuses) s = .next s) ∧
    (∀ r, s.rcp.run = some r → r.phase = 1 → r.kind ≤ 1 → r.seq < 65536 → ∀ xs, xs = sections r.dir (sourceBytes s r data) →
      secOf 0x1A xs = none →
      ((applyAll false xs xs s).2 = none → ∃ t, exec (.commit data fuses) s = .next t ∧ t.fget Fld.RCP_STATUS_STATE = 3 ∧
        t.rcp.run = none ∧ t.rcp.dir = r.dir ∧ t.awt.isSome = true ∧ t.pcie.primary.isSome = true ∧
        t.fget Fld.RCP_RESULT_CAUSE = 0 ∧ t.fget Fld.RCP_RESULT_KIND = r.kind ∧ t.fget Fld.RCP_RESULT_SEQ = r.seq ∧
        sameFuses s.rcp t.rcp) ∧
      (∀ x, (applyAll false xs xs s).2 = some x → ∃ t, exec (.commit data fuses) s = .next t ∧ t.fget Fld.RCP_STATUS_STATE = 0 ∧
        t.rcp = { s.rcp with run := none } ∧ t.fget Fld.RCP_RESULT_CAUSE = cSourceChanged ∧
        t.fget Fld.RCP_RESULT_KIND = r.kind ∧ t.fget Fld.RCP_RESULT_SEQ = r.seq ∧
        t.awt = s.awt ∧ t.mem = s.mem ∧ t.fab = s.fab ∧ t.ctx = s.ctx ∧ t.str = s.str ∧ t.mer = s.mer ∧ t.vid = s.vid ∧
        t.ovens = s.ovens ∧ t.orb = s.orb ∧ t.pace = s.pace))

/-- DEFERRED_DONE ends pass 3 in LOADED: DEFERRED_DONE reads 1 when every section's CRC holds, SOURCE_CHANGED is rejected
otherwise. PATCH_QUIESCE quiesces the Bakery of a verified Patch and begins the drain. DRAIN_TIMEOUT stops the jobs that
still run of a Bakery whose drain has lasted DRAIN_MS, with outcome 7, and changes nothing before. PATCH_APPLY waits for the
Bakery's jobs; then the Patch ends in LOADED with its Bakery RUNNING and LAST_CAUSE 0, or, when a section has changed, with
the Bakery FAILED and SOURCE_CHANGED. None of them burns a fuse or changes the access tables. -/
def Obligations.pass_three_and_patch : Prop :=
  ∀ (data : List Byte) (s : State), s.wf = true → Defined s →
    (∀ r, s.rcp.run = some r → r.phase = 0 → r.kind = 3 → r.seq < 65536 →
      ∀ o, o = (applyDeferred ((sections r.dir (sourceBytes s r data)).filter fun x => deferredDue s x.d) s).2 → ∃ t,
      exec (.deferredDone data) s = .next t ∧ t.rcp.run = none ∧ sameFuses s.rcp t.rcp ∧ t.awt = s.awt ∧
      t.fget Fld.RCP_STATUS_STATE = 3 ∧
      (o = none → t.fget Fld.RCP_STATUS_DEFERRED_DONE = 1 ∧ (r.byZen = false → t.fget Fld.RCP_RESULT_CAUSE = 0 ∧
        t.fget Fld.RCP_RESULT_SEQ = r.seq)) ∧
      (o.isSome = true → t.fget Fld.RCP_RESULT_CAUSE = cSourceChanged ∧ t.fget Fld.RCP_RESULT_SEQ = r.seq)) ∧
    (∀ r, s.rcp.run = some r → r.phase = 1 → r.kind = 2 → ∃ t, exec .patchQuiesce s = .next t ∧
      t.rcp = { s.rcp with run := some { r with phase := 2, drainAt := s.mono } } ∧ (t.bakery r.bakery).quiesced = true ∧
      t = { s with rcp := t.rcp, regs := t.regs, flt := t.flt, fab := t.fab, ovens := t.ovens, ctx := t.ctx, str := t.str }) ∧
    ((∀ r, s.rcp.run = some r → r.phase = 2 → s.mono < r.drainAt + s.fget Fld.RCP_PATCHCFG_DRAIN_MS * 1000000) →
      (∀ r, s.pwr.bakReset = some r → s.mono < r.since + s.fget Fld.RCP_PATCHCFG_DRAIN_MS * 1000000) →
      exec .drainTimeout s = .next s) ∧
    (∀ b, (∃ r, s.rcp.run = some r ∧ r.phase = 2 ∧ r.bakery = b ∧
          r.drainAt + s.fget Fld.RCP_PATCHCFG_DRAIN_MS * 1000000 ≤ s.mono) ∨
        (∃ r, s.pwr.bakReset = some r ∧ r.bakery = b ∧ r.since + s.fget Fld.RCP_PATCHCFG_DRAIN_MS * 1000000 ≤ s.mono) →
      (s.ctx.jobs.map (·.id)).Nodup → ∃ t, exec .drainTimeout s = .next t ∧ draining t b = false ∧
        (∀ j ∈ bakeryJobs s b, (j.phase = .ticket ∨ j.phase = .running) →
          (t.job? j.id).map (·.forced) = some (some (7, b))) ∧
        t = { s with regs := t.regs, fab := t.fab, ovens := t.ovens, ctx := t.ctx, str := t.str }) ∧
    ((∀ r, s.rcp.run = some r → r.phase ≠ 2 ∨ draining s r.bakery = true) → exec (.patchApply data) s = .next s) ∧
    (∀ r, s.rcp.run = some r → r.phase = 2 → draining s r.bakery = false → r.kind = 2 → r.bakery < 16 → r.seq < 65536 →
      ∀ xs o, xs = sections r.dir data → o = (applyAll true xs xs s).2 → ∃ t,
      exec (.patchApply data) s = .next t ∧ t.rcp.run = none ∧ sameFuses s.rcp t.rcp ∧ t.fget Fld.RCP_STATUS_STATE = 3 ∧
      t.fget Fld.RCP_RESULT_KIND = 2 ∧ t.fget Fld.RCP_RESULT_SEQ = r.seq ∧ t.awt = s.awt ∧
      (o = none → t.fget (Fld.RCP_BAKERY_STATE r.bakery) = 1 ∧ t.fget (Fld.RCP_BAKERY_LAST_CAUSE r.bakery) = 0 ∧
        t.fget Fld.RCP_RESULT_CAUSE = 0) ∧
      (o.isSome = true → t.fget (Fld.RCP_BAKERY_STATE r.bakery) = 3 ∧
        t.fget (Fld.RCP_BAKERY_LAST_CAUSE r.bakery) = cSourceChanged ∧ t.fget Fld.RCP_RESULT_CAUSE = cSourceChanged))

/-- Every command that writes a register on behalf of a host function: when the function's BARs do not decode it does nothing
(R447, R449); when the access is denied or its domain is not reachable, the fault log records that and nothing else happens;
an offset of no register, or of a fused-off resource, is dropped in silence (R3, R47, R48, R578). While a supply fault has
left Crust undefined, every command but the events that outlive it stops (R161). -/
def Obligations.commands_without_effect : Prop :=
  ∀ (c : Instr) (s : State),
    (∀ f off w, hostWord c = some (f, off, w) → s.pwr.undef = false →
      (s.barsDecode f = false → exec c s = .next s) ∧
      (s.barsDecode f = true → ∀ t, regGate s (s.masterOf f) true off = .denied t → exec c s = .next
        (logFault 1 (1 + 8) (s.masterOf f) t 0 off (s.fadd (Fld.AWT_DENY_COUNT t) 1))) ∧
      (s.barsDecode f = true → ∀ t d, regGate s (s.masterOf f) true off = .unpowered t d → exec c s = .next
        (logFault 3 (1 + 8) (s.masterOf f) t d off s)) ∧
      (regGate s (s.masterOf f) true off = .void → exec c s = .next s)) ∧
    (s.pwr.undef = true → outlives c = false → exec c s = .fault .crustStateUndefined)

/-- A named command of a host function and a 32-bit REGISTER_WRITE of the same register with the word that the command's
fields spell do the same, whatever the state: each field is read from the bits that the register's table gives it. -/
def Obligations.named_writes_are_register_writes : Prop :=
  ∀ (c : Instr) (f : HostFn) (off : Nat) (w : Word) (s : State), hostWord c = some (f, off, w) →
    exec c s = exec (.registerWrite f false off 4 (w.setWidth 64)) s

/-- Register accesses. A function whose BARs do not decode makes none; an access beyond the BAR is an Unsupported Request;
one whose size or alignment BAR0 does not take is logged (R46, R535), and at a fused-off resource has no effect at all (R3).
A granted 32-bit read answers the register as a host sees it (R6, R7) and changes nothing else. A granted write of
SBD_SPI_ADDR stores the word and changes nothing else. A 32-bit write of a page of BAR2 at offset 0 is SQ_TAIL's doorbell
(R353); a read of one answers zero, whatever its size. -/
def Obligations.register_accesses : Prop :=
  ∀ (f : HostFn) (bar2 : Bool) (off : Nat) (n : Nat) (v : BitVec 64) (s : State), Defined s →
    (s.barsDecode f = false → exec (.registerWrite f bar2 off n v) s = .next s ∧ exec (.registerRead f bar2 off n) s = .next s) ∧
    (s.barsDecode f = true → (if bar2 = true then 0x400000 else 0x2000000) ≤ off →
      exec (.registerWrite f bar2 off n v) s = .next (aerError f.port 20 s) ∧
      exec (.registerRead f bar2 off n) s = .next ((aerError f.port 20 s).out (.unsupported f))) ∧
    (s.barsDecode f = true → off < 0x2000000 → sizeOk off n = false → regFused s.code off = true →
      exec (.registerWrite f false off n v) s = .next s ∧
      exec (.registerRead f false off n) s = .next (s.out (.readDone f 0 off (List.replicate n 0) false))) ∧
    (s.barsDecode f = true → off < 0x1300000 → sizeOk off n = false → regFused s.code off = false → ∀ b t, blockOf off = some (b, t) →
      exec (.registerWrite f false off n v) s = .next (logFault 4 (1 + 8) (s.masterOf f) t n off s) ∧
      exec (.registerRead f false off n) s = .next
        ((logFault 4 8 (s.masterOf f) t n off s).out (.readDone f 0 off (List.replicate n 0) false))) ∧
    (s.barsDecode f = true → off % 4 = 0 → inPreroll off = false → inMsix off = false → off < 0x2000000 →
      regGate s (s.masterOf f) false off = .granted → ∀ d, regAt off = some d → exec (.registerRead f false off 4) s =
        .next (s.out (.readDone f 0 off (leBytes 4 (hostView d (viewReg s off)).toNat) false))) ∧
    (HostGranted s f Reg.SBD_SPI_ADDR → exec (.registerWrite f false Reg.SBD_SPI_ADDR 4 v) s =
      .next (s.setReg Reg.SBD_SPI_ADDR (v.setWidth 32))) ∧
    (∀ c : Fin 1024, s.barsDecode f = true →
      exec (.registerWrite f true (4096 * c.val) 4 v) s = exec (.sqTailDoorbell f c (v.setWidth 32)) s ∧
      exec (.registerRead f true (4096 * c.val) n) s =
        .next (s.out (.readDone f 2 (4096 * c.val) (List.replicate n 0) false)))

/-- A granted ZEN_TRIG and a TRIG of the sideband that SB_TRIG_MASK allows are start requests (R178): one for no Procedure is
dropped; one for a Procedure that does not run takes the first free instance, which starts from the table's first state
(R153); the others wait under QUEUE up to DEPTH, under COALESCE as the one latest request, or are dropped. A TRIG that the
mask excludes is counted, and a granted ZEN_SIGNAL is event 0, pending in every running instance (R179). -/
def Obligations.start_requests : Prop :=
  ∀ (s : State),
    (∀ c proc cause arg, (∃ f p a, c = .zenTrig f p a ∧ HostGranted s f Reg.ZEN_TRIG ∧ proc = p.val ∧ cause = 0x40 ∧
          arg = a.setWidth 32) ∨
        (∃ p a, c = .sbTrig p a ∧ Defined s ∧ s.on 111 = true ∧ s.side.trigMask.testBit p.val = true ∧ proc = p.val ∧
          cause = 0x42 ∧ arg = a.setWidth 32) →
      (s.zen.procs.lookup proc = none → exec c s = .next (s.fsat (Fld.ZEN_COUNT_DROPPED proc))) ∧
      (∀ tab i, s.zen.procs.lookup proc = some tab → s.zen.runs proc = false → s.zen.freeInst = some i → ∃ t,
        exec c s = .next t ∧ t = { s with zen := t.zen, regs := t.regs } ∧
        t.zen = { s.zen with insts := s.zen.insts.set i (some ⟨proc, cause, arg, tab.begin, .none⟩) }) ∧
      (∀ tab n, s.zen.procs.lookup proc = some tab → (s.zen.runs proc = true ∨ s.zen.freeInst = none) →
        n = (s.zen.reqs.countP fun q => q.proc == proc) →
        (∀ depth, s.zen.policy.lookup proc = some (0, depth) → exec c s = .next (if n < depth
          then { s with zen := { s.zen with reqs := s.zen.reqs ++ [⟨proc, cause, arg⟩] } }
          else s.fsat (Fld.ZEN_COUNT_DROPPED proc))) ∧
        ((s.zen.policy.lookup proc = none ∨ ∃ k, s.zen.policy.lookup proc = some (1, k)) → exec c s = .next (if n = 0
          then { s with zen := { s.zen with reqs := s.zen.reqs ++ [⟨proc, cause, arg⟩] } }
          else { s with zen := { s.zen with reqs := replaceReq ⟨proc, cause, arg⟩ s.zen.reqs } }.fsat
            (Fld.ZEN_COUNT_DROPPED proc))) ∧
        (∀ k, s.zen.policy.lookup proc = some (2, k) → exec c s = .next (s.fsat (Fld.ZEN_COUNT_DROPPED proc))))) ∧
    (∀ p a, Defined s → s.on 111 = true → s.side.trigMask.testBit p.val = false →
      exec (.sbTrig p a) s = .next (s.fsat Fld.SBD_SB_TRIGDROP_COUNT)) ∧
    (∀ f v, HostGranted s f Reg.ZEN_SIGNAL → s.zen.roles.length ≤ 6 → exec (.zenSignal f v) s = .next { s with
      zen := { s.zen with insts := s.zen.insts.map (Option.map fun z => { z with inst := z.inst.arrive 0 }) } })

/-- STATE_TABLE_PASS completes for every instance. It does nothing for an instance that is free or has no pass due. After `n`
rows that act on the instance alone, a pass whose next row's condition fails leaves the instance as those rows say; 64 rows
end a pass, and the step limit counts; HALT ends it and frees the instance (R151–R153). Nothing else changes but the registers
that show the instances. A timer expires at its boundary alone (R149). WRITE_DONE ends a write that waits only for itself
(R180). PROCEDURE_START starts the oldest request whose Procedure does not run, in a free instance (R178). -/
def Obligations.instances_of_state_tables : Prop :=
  ∀ (s : State), s.wf = true → Defined s →
    (∀ e, ∃ t, exec (.stateTablePass e) s = .next t) ∧
    (∀ i : Fin 8, s.on 111 = false ∨ s.zen.insts.getD i.val none = none → exec (.stateTablePass (.zenith i)) s = .next s) ∧
    (∀ (i : Fin 8) z tab, s.on 111 = true → s.zen.insts.getD i.val none = some z → s.zen.procs.lookup z.proc = some tab →
      z.proc < 64 → (z.inst.ready (zenInputs s z) = false → exec (.stateTablePass (.zenith i)) s = .next s) ∧
      (∀ n p, n ≤ 64 → z.inst.ready (zenInputs s z) = true → passRows tab (zenInputs s z) s.usCount n z.inst = some p →
        ∀ o, nextRow tab (zenInputs s z) s.usCount p = o → ((n = 64 ∨ o = none ∨ ∃ r, o = some r ∧ r.act = 10) →
          ∃ t, exec (.stateTablePass (.zenith i)) s = .next t ∧
            t = { s with zen := { s.zen with insts := t.zen.insts }, regs := t.regs } ∧
            regsBut ([Reg.ZEN_STATUS, Reg.ZEN_COUNT z.proc] ++ (List.range 8).map Reg.ZEN_INST) s t ∧
            ((n = 64 ∨ o = none) → t.zen.insts = s.zen.insts.set i.val (some { z with inst := p.2 })) ∧
            (n < 64 → o ≠ none → t.zen.insts = s.zen.insts.set i.val none) ∧
            t.fget (Fld.ZEN_COUNT_STEPLIM z.proc) = (if n = 64 ∨ (n = 63 ∧ o ≠ none) then
              satInc 16 (s.fget (Fld.ZEN_COUNT_STEPLIM z.proc)) else s.fget (Fld.ZEN_COUNT_STEPLIM z.proc))))) ∧
    (∀ (k : Fin 16) c i, s.chan? k.val = some c → c.inst = some i →
      ((chanOn s k.val = false ∨ i.ready (strInputs s k.val c) = false) → exec (.stateTablePass (.stream k)) s = .next s) ∧
      (∀ n p, n < 63 → chanOn s k.val = true → i.ready (strInputs s k.val c) = true →
        passRows c.table (strInputs s k.val c) s.usCount n i = some p →
        (nextRow c.table (strInputs s k.val c) s.usCount p = none → exec (.stateTablePass (.stream k)) s =
          .next (onChan k.val (fun c => { c with inst := some p.2 }) s)) ∧
        (∀ r, nextRow c.table (strInputs s k.val c) s.usCount p = some r → r.act = 10 → exec (.stateTablePass (.stream k)) s =
          .next (onChan k.val (fun c => { c with inst := none }) s)))) ∧
    (∀ (y : Fin 4) i g tab, s.pwr.sup.vddNw = true → s.nw.tables.lookup y.val = some i → s.nw.cfg = some g →
      g.tables.lookup y.val = some tab →
      (i.ready (nwInputs s) = false → exec (.stateTablePass (.nightwatch y)) s = .next s) ∧
      (∀ n p, n < 63 → i.ready (nwInputs s) = true → passRows tab (nwInputs s) s.nw.scount n i = some p →
        ((nextRow tab (nwInputs s) s.nw.scount p = none ∨ ∃ r, nextRow tab (nwInputs s) s.nw.scount p = some r ∧ r.act = 10) →
        ∃ t, exec (.stateTablePass (.nightwatch y)) s = .next t ∧ regsBut ((List.range 4).map Reg.NW_TABLE) s t ∧
          t = { s with regs := t.regs, nw := { s.nw with
            tables := if nextRow tab (nwInputs s) s.nw.scount p = none then
                s.nw.tables.map fun x => if x.1 = y.val then (y.val, p.2) else x
              else s.nw.tables.filter fun x => x.1 != y.val } }))) ∧
    (∀ (i : Fin 8) k, exec (.timerExpiry (.zenith i) k) s =
      .next (onInst i.val (fun z => { z with inst := if z.inst.due s.usCount k.val then z.inst.expire k.val else z.inst }) s)) ∧
    (∀ (i : Fin 16) k, exec (.timerExpiry (.stream i) k) s = .next (onChan i.val (fun c => { c with
      inst := c.inst.map fun x => if x.due s.usCount k.val then x.expire k.val else x }) s)) ∧
    (∀ (i : Fin 4) k, exec (.timerExpiry (.nightwatch i) k) s = .next (if s.pwr.sup.vddNw = true then { s with nw := { s.nw with
      tables := s.nw.tables.map fun y =>
        if y.1 = i.val then (y.1, if y.2.due s.nw.scount k.val then y.2.expire k.val else y.2) else y } } else s)) ∧
    (∀ i : Fin 8, (∀ z, s.zen.insts.getD i.val none = some z → z.write ≠ .issued) → exec (.writeDone i) s = .next s) ∧
    (∀ (i : Fin 8) z, s.zen.insts.getD i.val none = some z → z.write = .issued → exec (.writeDone i) s =
      .next (onInst i.val (fun z => { z with inst := z.inst.arrive 4, write := .none }) s)) ∧
    (s.zen.freeInst = none ∨ takeReq s.zen s.zen.reqs = none → exec .procedureStart s = .next s) ∧
    (∀ i r rs tab, s.zen.freeInst = some i → takeReq s.zen s.zen.reqs = some (r, rs) → s.zen.procs.lookup r.proc = some tab →
      ∃ t, exec .procedureStart s = .next t ∧ regsBut (Reg.ZEN_STATUS :: (List.range 8).map Reg.ZEN_INST) s t ∧
        t = { s with regs := t.regs, zen := { s.zen with
          reqs := rs, insts := s.zen.insts.set i (some ⟨r.proc, r.cause, r.arg, tab.begin, .none⟩) } })

/-- The common command codes, with CRUST_AON ON. ENTDAA and SETDASA (at the static address) give an unaddressed target its
dynamic address and I3C mode, SETNEWDA an addressed one; otherwise none of the three is acknowledged and nothing changes.
RSTDAA returns it to I²C mode. ENEC and DISEC set IBI_EN; DISEC drops the pending interrupts. SETMWL and SETMRL store a
length. In I3C mode GETBCR answers 0x06, GETDCR 0x00, GETPID the provisional ID, GETMWL and GETMRL the lengths, most
significant byte first; GETSTATUS two free bytes (the spec gives no value: the model's choice, DESIGN CHOICE, log entry 4);
in I²C mode none is acknowledged. -/
def Obligations.sideband_command_codes : Prop :=
  ∀ (s : State), Defined s → s.on 111 = true →
    ∀ t, t = (fun da : BitVec 7 => ((s.fset Fld.SBD_SB_STATUS_DA da.toNat).fset Fld.SBD_SB_STATUS_I3C 1).out (.sideband true [])) →
    ∀ nack, nack = s.out (.sideband false []) → ∀ reply, reply = (fun l : List Byte =>
      if s.fget Fld.SBD_SB_STATUS_I3C = 1 then s.out (.sideband true l) else nack) →
    (∀ da, exec (.entdaa da) s = .next (if s.fget Fld.SBD_SB_STATUS_DA = 0 then t da else nack)) ∧
    (∀ sa da, exec (.setdasa sa da) s =
      .next (if s.fget Fld.SBD_SB_STATUS_DA = 0 ∧ sa = (if s.pwr.addrSel = true then 0x4B else 0x4A) then t da else nack)) ∧
    (∀ da, exec (.setnewda da) s = .next (if s.fget Fld.SBD_SB_STATUS_DA = 0 then nack else t da)) ∧
    exec .rstdaa s = .next (((s.fset Fld.SBD_SB_STATUS_DA 0).fset Fld.SBD_SB_STATUS_I3C 0).out (.sideband true [])) ∧
    exec .enec s = .next ((s.fset Fld.SBD_SB_STATUS_IBI_EN 1).out (.sideband true [])) ∧
    exec .disec s = .next (({ s with side := { s.side with ibiEvt := false, ibiFrom := false } }.fset
      Fld.SBD_SB_STATUS_IBI_EN 0).out (.sideband true [])) ∧
    exec .getbcr s = .next (reply [0x06]) ∧ exec .getdcr s = .next (reply [0x00]) ∧
    exec .getpid s = .next (reply (leBytes 6 (0x0E5A * 2 ^ 33 + 0x4601 * 2 ^ 16 + (if s.pwr.addrSel = true then 2 ^ 12 else 0))).reverse) ∧
    exec .getmwl s = .next (reply (leBytes 2 s.side.mwl).reverse) ∧ exec .getmrl s = .next (reply (leBytes 2 s.side.mrl).reverse) ∧
    (∀ n, exec (.setmwl n) s = .next ({ s with side := { s.side with mwl := n.toNat } }.out (.sideband true []))) ∧
    (∀ n, exec (.setmrl n) s = .next ({ s with side := { s.side with mrl := n.toNat } }.out (.sideband true []))) ∧
    (∃ a b : Byte, exec .getstatus s = .next { reply [a, b] with freeCtr := s.freeCtr + 1 })

/-- TOHOST: SBD_SB_FROMSB takes the message and its SEQ and SBD_EVT_SEQ advance (vector 28). A granted SBD_SB_TOSB is
readable at the sideband as FROMHOST, SEQ advances, and an IBI with 0x02 is sent when enabled and none is pending. A pending
IBI is sent again until it is accepted. SBD_SPI_GO is one command, or a drop while one runs or the flash is being loaded;
its completion writes RESULT and advances SBD_EVT_SEQ. GPIO_SET and GPIO_CLR set and clear bits of OUT; a selected edge
counts once it has been stable for 1 µs; an acknowledgement with the present SEQ clears SBD_GPIO_EVT, any other nothing. -/
def Obligations.sideband_spi_and_gpio : Prop :=
  ∀ (s : State), s.wf = true → Defined s → s.on 111 = true →
    (∀ m, exec (.sbTohost m) s = .next (signalMisc 28
      (((s.setReg Reg.SBD_SB_FROMSB m).fadd Fld.SBD_SB_FROMSB_SEQ_SEQ 1).fadd Fld.SBD_EVT_SEQ_SEQ 1))) ∧
    (∀ f m, HostGranted s f Reg.SBD_SB_TOSB → ∀ t, t = { s with side := { s.side with fromHost := m } }.fadd Fld.SBD_SB_TOSB_SEQ_SEQ 1 →
      (s.fget Fld.SBD_SB_STATUS_IBI_EN = 1 → s.side.ibiFrom = false → exec (.sbTosb f m) s =
        .next ({ t with side := { t.side with ibiFrom := true } }.out (.ibi 2))) ∧
      ((s.fget Fld.SBD_SB_STATUS_IBI_EN ≠ 1 ∨ s.side.ibiFrom = true) → exec (.sbTosb f m) s = .next t)) ∧
    (∀ a, exec (.ibiRetry a) s = .next (if s.side.ibiEvt = true then { s with side := { s.side with ibiEvt := !a } }.out (.ibi 1)
      else if s.side.ibiFrom = true then { s with side := { s.side with ibiFrom := !a } }.out (.ibi 2) else s)) ∧
    (∀ f n q, HostGranted s f Reg.SBD_SPI_GO →
      ((s.side.spiBusy.isSome = true ∨ flashLoading s = true) → exec (.spiGo f n q) s = .next (s.fsat Fld.SBD_SPI_DROPS_COUNT)) ∧
      (s.side.spiBusy = none → flashLoading s = false → ∃ e, exec (.spiGo f n q) s = .next { s.out e with
        side := { s.side with spiBusy := some (q.toNat, decide (s.fget Fld.SBD_SPI_CMD_READ = 1), min n.toNat 256) } })) ∧
    (∀ data, s.side.spiBusy = none → exec (.spiPassthroughDone data) s = .next s) ∧
    (∀ data q n, s.side.spiBusy = some (q, false, n) → exec (.spiPassthroughDone data) s = .next (signalMisc 28
      ((({ s with side := { s.side with spiBusy := none } }.fset Fld.SBD_SPI_RESULT_SEQ q).fset Fld.SBD_SPI_RESULT_DONE 1).fadd
        Fld.SBD_EVT_SEQ_SEQ 1))) ∧
    (∀ data q n, s.side.spiBusy = some (q, true, n) → q < 65536 → ∃ t, exec (.spiPassthroughDone data) s = .next t ∧
      t.side = { s.side with spiBusy := none } ∧ t.fget Fld.SBD_SPI_RESULT_SEQ = q ∧ t.fget Fld.SBD_SPI_RESULT_DONE = 1 ∧
      t = { s with side := t.side, regs := t.regs, pcie := t.pcie, port := t.port }) ∧
    (∀ f b, HostGranted s f Reg.SBD_GPIO_SET → ∃ t, exec (.gpioSet f b) s = .next t ∧
      t.fget Fld.SBD_GPIO_OUT_OUT = s.fget Fld.SBD_GPIO_OUT_OUT ||| b.toNat ∧ (∀ o, o ≠ Reg.SBD_GPIO_OUT → t.reg o = s.reg o) ∧
      t = { s with regs := t.regs, side := { s.side with edgeAt := t.side.edgeAt } }) ∧
    (∀ f b, HostGranted s f Reg.SBD_GPIO_CLR → ∃ t, exec (.gpioClr f b) s = .next t ∧
      t.fget Fld.SBD_GPIO_OUT_OUT = s.fget Fld.SBD_GPIO_OUT_OUT &&& (0xFFFF - b.toNat) ∧
      (∀ o, o ≠ Reg.SBD_GPIO_OUT → t.reg o = s.reg o) ∧ t = { s with regs := t.regs, side := { s.side with edgeAt := t.side.edgeAt } }) ∧
    (∀ i : Fin 16, (s.side.edgeAt.lookup i.val = none ∨ ∃ x, s.side.edgeAt.lookup i.val = some x ∧ s.mono < x + 1000) →
      exec (.gpioEdge i) s = .next s) ∧
    (∀ (i : Fin 16) x, s.side.edgeAt.lookup i.val = some x → x + 1000 ≤ s.mono → exec (.gpioEdge i) s = .next (signalMisc 28
      (({ s with side := { s.side with edgeAt := spDel i.val s.side.edgeAt } }.fset Fld.SBD_GPIO_EVT_EDGE
        (putBit i.val true (s.fget Fld.SBD_GPIO_EVT_EDGE))).fadd Fld.SBD_EVT_SEQ_SEQ 1))) ∧
    (∀ f v, HostGranted s f Reg.SBD_EVT_ACK → exec (.sbdEvtAck f v) s =
      .next (if v = s.reg Reg.SBD_EVT_SEQ then s.setReg Reg.SBD_GPIO_EVT 0 else s)) ∧
    (∀ i l, ∃ t, exec (.gpioInputChange i l) s = .next t ∧ t = { s with side := { s.side with
      gpioExt := putBit i.val l s.side.gpioExt, edgeAt := t.side.edgeAt } })

/-- The TAP's instructions with CRUST_AON ON: BYPASS, CLAMP and HIGHZ select the one-bit bypass register, IDCODE the
identification register, which reads 0x0460_15CF, SAMPLE_PRELOAD and EXTEST the chain, which takes what is shifted in. A
reset of the TAP selects IDCODE. No register and no other block changes. -/
def Obligations.boundary_scan : Prop :=
  ∀ (bits : List Bool) (s : State), Defined s → s.on 111 = true →
    exec .tapBypass s = .next ({ s with side := { s.side with tap := .bypass } }.out (.tap [false])) ∧
    exec .tapClamp s = .next ({ s with side := { s.side with tap := .clamp } }.out (.tap [false])) ∧
    exec .tapHighz s = .next ({ s with side := { s.side with tap := .highz } }.out (.tap [false])) ∧
    exec .tapIdcode s = .next ({ s with side := { s.side with tap := .idcode } }.out
      (.tap ((List.range 32).map fun i => Nat.testBit 0x046015CF i))) ∧
    exec (.tapSamplePreload bits) s = .next { s with side := { s.side with tap := .sample, chain := bits } } ∧
    exec (.tapExtest bits) s = .next { s with side := { s.side with tap := .extest, chain := bits } } ∧
    exec .tapReset s = .next { s with side := { s.side with tap := .idcode } }

/-- A channel in training that is ON becomes TRAINED, or with inline ECC is initialised first. MEM_TRAINED: what was being
initialised holds zeros without poison and is TRAINED, other channels' bytes stay, and event 15 is raised at most once.
MR4_POLL stores the rate of a trained channel. POWER_DOWN_ENTRY takes a channel down that has been idle for PD_IDLE, in
units of 100 ns; 0 is never. Where its condition does not hold a command changes nothing. -/
def Obligations.dram_channels : Prop :=
  ∀ (c : Fin 16) (s : State), s.wf = true → Defined s →
    ((s.on (133 + c.val) = false ∨ s.mem.training.contains c.val = false) → exec (.channelTrained c) s = .next s) ∧
    (s.on (133 + c.val) = true → s.mem.training.contains c.val = true →
      ∀ m, m = { s.mem with training := s.mem.training.filter fun k => k != c.val } →
      (s.inlineEcc = true → exec (.channelTrained c) s = .next { s with mem := { m with initing := c.val :: s.mem.initing } }) ∧
      (s.inlineEcc = false → exec (.channelTrained c) s = .next ({ s with mem := m }.fset (Fld.MEM_CH_TRAINED c.val) 1))) ∧
    (∃ t, exec .memTrained s = .next t ∧ t = { s with mem := t.mem, regs := t.regs, zen := t.zen } ∧
      (∀ k : Fin 16, s.mem.initing.contains k.val = true → s.on (133 + k.val) = true → t.fget (Fld.MEM_CH_TRAINED k.val) = 1) ∧
      (∀ a, (s.mem.initing.contains (channelOf a) = true ∧ s.on (133 + channelOf a) = true → spGet 0 t.mem.dram a = 0) ∧
        (s.mem.initing.contains (channelOf a) = false ∨ s.on (133 + channelOf a) = false →
          spGet 0 t.mem.dram a = spGet 0 s.mem.dram a)) ∧
      (s.mem.told = true → t.zen = s.zen ∧ t.mem.told = true) ∧ t.mem.pantry = s.mem.pantry) ∧
    (∀ r, exec (.mr4Poll c r) s = .next (if s.on (133 + c.val) = true ∧ s.mem.training.contains c.val = false
      then s.fset (Fld.MEM_CH_REFRATE c.val) r.toNat else s)) ∧
    exec (.powerDownEntry c) s = .next (if s.on (133 + c.val) = true ∧ s.mem.pdown.contains c.val = false ∧
      (∀ q ∈ s.fab.reqs, q.target ≠ c.val) ∧ s.fget Fld.MEM_CFG_PD_IDLE ≠ 0 ∧
      spGet 0 s.mem.lastUse c.val + 100 * s.fget Fld.MEM_CFG_PD_IDLE ≤ s.mono then { s with mem := { s.mem with pdown := c.val :: s.mem.pdown } } else s)

/-- FAULT_LOG_WRITE takes the oldest queued fault; an empty queue changes nothing. A fault that does not merge is written as
the eight words of the record with the next SEQ, in its slot of the ring; FLT_SEQ reads that SEQ, no other record and no
other register of the log but QUEUE changes, and vector 0 may be signalled. -/
def Obligations.fault_log_writes_records : Prop :=
  ∀ (s : State), s.wf = true → Defined s →
    (s.flt.queue = [] → exec .faultLogWrite s = .next s) ∧
    (∀ e q, s.flt.queue = e :: q → logMerges s e = false → ∃ t, exec .faultLogWrite s = .next t ∧ t.flt.queue = q ∧
      t.fget Fld.FLT_QUEUE_LEVEL = q.length ∧ t = { s with flt := t.flt, regs := t.regs, pcie := t.pcie, port := t.port } ∧
      ∀ n, n = (s.fget Fld.FLT_SEQ_SEQ + 1) % 2 ^ 32 → t.fget Fld.FLT_SEQ_SEQ = n ∧
        (∀ w, w < 8 → t.reg (Reg.FLT_REC (logSlot n) w) = BitVec.ofNat 32 ((recordWords n e).getD w 0)) ∧
        (∀ k w, k ≠ logSlot n → w < 8 → t.reg (Reg.FLT_REC k w) = s.reg (Reg.FLT_REC k w)) ∧
        t.reg Reg.FLT_LOST = s.reg Reg.FLT_LOST ∧ t.reg Reg.FLT_MERGED = s.reg Reg.FLT_MERGED)

/-- The head of the fault queue merges exactly when its KIND, FLAGS, MASTER and TARGET are those of the latest written record,
its time lies from the record's T to less than 100 µs after it, and REPEAT is below 65,535. A merge adds 1 to REPEAT, in the
upper half of the record's word 2, and to FLT_MERGED; FLT_SEQ, the record's other words and every other part but the queue
stay. -/
def Obligations.fault_merges_into_latest_record : Prop :=
  ∀ (s : State) (e : FaultEntry) (q : List FaultEntry) (k : Nat), s.wf = true → Defined s → s.flt.queue = e :: q →
    k = logSlot (s.fget Fld.FLT_SEQ_SEQ) → e.kind < 256 → e.flags < 256 → e.master < 65536 → e.target < 65536 →
    ∀ T, T = (s.reg (Reg.FLT_REC k 6)).toNat + 2 ^ 32 * (s.reg (Reg.FLT_REC k 7)).toNat →
    ∀ same : Prop, same = (s.fget Fld.FLT_SEQ_SEQ ≠ 0 ∧ bitsOf 7 0 (s.reg (Reg.FLT_REC k 1)) = e.kind ∧
      bitsOf 15 8 (s.reg (Reg.FLT_REC k 1)) = e.flags ∧ bitsOf 31 16 (s.reg (Reg.FLT_REC k 1)) = e.master ∧
      bitsOf 15 0 (s.reg (Reg.FLT_REC k 2)) = e.target ∧ T ≤ e.t ∧ e.t < T + 100000 ∧
      bitsOf 31 16 (s.reg (Reg.FLT_REC k 2)) < 65535) →
    ∃ t, exec .faultLogWrite s = .next t ∧ t.flt.queue = q ∧
      (same → bitsOf 31 16 (t.reg (Reg.FLT_REC k 2)) = bitsOf 31 16 (s.reg (Reg.FLT_REC k 2)) + 1 ∧
        bitsOf 15 0 (t.reg (Reg.FLT_REC k 2)) = e.target ∧ t.fget Fld.FLT_MERGED_COUNT = (s.fget Fld.FLT_MERGED_COUNT + 1) % 2 ^ 32 ∧
        (∀ o, o ≠ Reg.FLT_REC k 2 → o ≠ Reg.FLT_MERGED → o ≠ Reg.FLT_QUEUE → t.reg o = s.reg o) ∧
        t = { s with flt := t.flt, regs := t.regs }) ∧
      (¬ same → t.fget Fld.FLT_SEQ_SEQ = (s.fget Fld.FLT_SEQ_SEQ + 1) % 2 ^ 32 ∧ t.reg Reg.FLT_MERGED = s.reg Reg.FLT_MERGED)

/-- The value of every register as a host sees it has a zero in each bit that the register's table does not name, and so has
the data of every granted read; two 32-bit writes of one register by one function whose words agree in the named bits have
the same outcome in every state. -/
def Obligations.reserved_bits_read_zero_and_ignore_writes : Prop :=
  ∀ (f : HostFn) (off : Nat) (d : RegDesc) (s : State), off % 4 = 0 → off < 0x1300000 → inPreroll off = false →
    regAt off = some d → ∀ named : Nat → Prop, named = (fun j => ∃ x ∈ d.flds, x.lo ≤ j ∧ j ≤ x.hi) →
    (∀ v j, ¬ named j → (hostView d v).getLsbD j = false) ∧
    (Defined s → s.barsDecode f = true → regGate s (s.masterOf f) false off = .granted →
      exec (.registerRead f false off 4) s =
        .next (s.out (.readDone f 0 off (leBytes 4 (hostView d (viewReg s off)).toNat) false))) ∧
    (∀ v w : BitVec 64, (∀ j, j < 32 → named j → v.getLsbD j = w.getLsbD j) →
      exec (.registerWrite f false off 4 v) s = exec (.registerWrite f false off 4 w) s)

/-- A 32-bit access of BAR0 at an offset that holds no register (outside the windows of the pre-roll buffer and of the MSI-X
table), by a function whose BARs decode: the read answers zero and changes nothing, the write changes nothing, so nothing is
logged either. -/
def Obligations.no_register_reads_zero : Prop :=
  ∀ (f : HostFn) (off : Nat) (v : BitVec 64) (s : State), Defined s → s.barsDecode f = true → off % 4 = 0 → off < 0x2000000 →
    inPreroll off = false → inMsix off = false → regAt off = none →
    exec (.registerRead f false off 4) s = .next (s.out (.readDone f 0 off [0, 0, 0, 0] false)) ∧
    exec (.registerWrite f false off 4 v) s = .next s

/-- A 32-bit host access of a register of a block, present on the part, that the access table of the block does not permit to
the function's master ID: its only effect is the access denial's (AWT_DENY and the fault log), and a read answers zero. -/
def Obligations.denied_register_access : Prop :=
  ∀ (f : HostFn) (off b t : Nat) (v : BitVec 64) (s : State), Defined s → s.barsDecode f = true → off % 4 = 0 →
    inPreroll off = false → blockOf off = some (b, t) → (regAt off).isSome = true → regFused s.code off = false →
    (s.permits t (s.masterOf f) true (off - b) 4 = false → exec (.registerWrite f false off 4 v) s =
      .next (logFault 1 9 (s.masterOf f) t 0 off (s.fadd (Fld.AWT_DENY_COUNT t) 1))) ∧
    (s.permits t (s.masterOf f) false (off - b) 4 = false → exec (.registerRead f false off 4) s =
      .next ((logFault 1 8 (s.masterOf f) t 0 off (s.fadd (Fld.AWT_DENY_COUNT t) 1)).out
        (.readDone f 0 off [0, 0, 0, 0] false)))

/-- A granted write of RCP_CMD while STATE is neither EMPTY nor LOADED, of LOAD while a Recipe is loaded, or of PATCH or
DEFERRED while none is, is dropped: RCP_DROP advances (saturating) and no other register, and no other part of the machine,
changes: RCP_RESULT is as it was, and the command that runs goes on. -/
def Obligations.loader_drops_commands : Prop :=
  ∀ (f : HostFn) (v : BitVec 64) (s : State), HostGranted s f Reg.RCP_CMD → s.wf = true →
    ((s.fget Fld.RCP_STATUS_STATE ≠ 0 ∧ s.fget Fld.RCP_STATUS_STATE ≠ 3) ∨
      (bitsOf 1 0 (v.setWidth 32) = 1 ∧ s.fget Fld.RCP_STATUS_STATE = 3) ∨
      (2 ≤ bitsOf 1 0 (v.setWidth 32) ∧ s.fget Fld.RCP_STATUS_STATE = 0)) →
    ∃ t, exec (.registerWrite f false Reg.RCP_CMD 4 v) s = .next t ∧ t = { s with regs := t.regs } ∧
      t.fget Fld.RCP_DROP_DROPPED = satInc (Fld.RCP_DROP_DROPPED.hi + 1 - Fld.RCP_DROP_DROPPED.lo) (s.fget Fld.RCP_DROP_DROPPED) ∧
      (∀ o, o ≠ Reg.RCP_DROP → t.reg o = s.reg o)

/-- An instance of a table starts in START_ROW with INIT0 and INIT1 in its first locals, zero in the others, no timer running,
every counter at 0 and no event pending. A pass of an instance of Zenith that ends in HALT, after rows that act on the
instance alone, frees it, with what it had pending; while it is free an arriving event leaves it so, unless the event starts a
Procedure. -/
def Obligations.instances_start_and_halt : Prop :=
  (∀ tab : TTable, tab.begin.state = tab.start ∧ tab.begin.locals = [tab.init0, tab.init1, 0, 0, 0, 0, 0, 0] ∧
    (∀ k, tab.begin.timers.getD k .stopped = .stopped) ∧ (∀ k, tab.begin.counters.getD k 0 = 0) ∧ tab.begin.events = 0) ∧
  (∀ (s : State) (i : Fin 8) z tab n p r, Defined s → s.on 111 = true → s.zen.insts.getD i.val none = some z →
    s.zen.procs.lookup z.proc = some tab → z.inst.ready (zenInputs s z) = true → n < 64 →
    passRows tab (zenInputs s z) s.usCount n z.inst = some p → nextRow tab (zenInputs s z) s.usCount p = some r → r.act = 10 →
    ∃ t, exec (.stateTablePass (.zenith i)) s = .next t ∧ t.zen.insts = s.zen.insts.set i.val none ∧
      ∀ e, 64 ≤ s.zen.roles.getD (roleOf e) 64 → (raiseZen e t).zen.insts.getD i.val none = none)

/-- Granted commands of a Stream Channel. ENABLE makes a STOPPED channel RUNNING with a fresh instance; STOP halts a RUNNING
one, drops its queue, and makes a quiesced one resume STOPPED (R385). A host trigger counts where TRIG_SRC is 2: a STOPPED
channel ignores it, a QUIESCED one drops it, an idle RUNNING one takes it, and a busy one holds it until its Crust cycle ends
(R388), where it is queued, replaces or is dropped by POLICY (R387). SIGNAL sets input 7 and is event 5 (R389). No other
channel and no other block changes. -/
def Obligations.stream_channel_commands : Prop :=
  ∀ (f : HostFn) (k : Fin 16) (a : Word) (s : State) (c : SChan), s.chan? k.val = some c → s.wf = true →
    ∀ gives : Instr → SChan → Bool → Prop, gives = (fun i c' drop => ∃ t, exec i s = .next t ∧ t.chan? k.val = some c' ∧
      (∀ j, j ≠ k.val → t.chan? j = s.chan? j) ∧ (∀ o, o ≠ Reg.STR_DROPS k.val → t.reg o = s.reg o) ∧
      t = { s with str := { s.str with chans := t.str.chans }, regs := t.regs } ∧
      t.fget (Fld.STR_DROPS_STEPLIM k.val) = s.fget (Fld.STR_DROPS_STEPLIM k.val) ∧
      t.fget (Fld.STR_DROPS_DROPS k.val) = if drop = true then satInc 16 (s.fget (Fld.STR_DROPS_DROPS k.val))
        else s.fget (Fld.STR_DROPS_DROPS k.val)) →
    (HostGranted s f (Reg.STR_CTRL k.val) →
      gives (.streamEnable f k) (if c.st = 1 then { c with
        st := 2, busy := false, queue := [], came := [], inst := some c.table.begin } else c) false ∧
      gives (.streamStop f k) (if c.st = 2 then { c with st := 1, busy := false, queue := [], came := [], inst := none }
        else if c.st = 3 then { c with before := 1 } else c) false) ∧
    (HostGranted s f (Reg.STR_TRIG k.val) →
      (c.cfg.trigSrc ≠ 2 → exec (.hostTrigger f k a) s = .next s) ∧
      (c.cfg.trigSrc = 2 → ∀ x : Trigger, x = ⟨a, s.epoch⟩ → ∀ d : SChan, d = { c with fed := true } →
        (c.st = 1 → exec (.hostTrigger f k a) s = .next s) ∧
        (c.st = 3 → gives (.hostTrigger f k a) d true) ∧
        (c.st = 2 → c.busy = false → gives (.hostTrigger f k a)
          { d with busy := true, busyAt := some s.mono, trig := x, inst := c.inst.map (TInst.arrive 0) } (trigPending c)) ∧
        (c.st = 2 → c.busy = true → gives (.hostTrigger f k a) { d with came := c.came ++ [x] } false))) ∧
    (∀ x, (s.str.chans.map (·.1)).Nodup → (∀ e ∈ s.str.chans, e.1 ≠ k.val → e.2.came = []) → c.came = [x] →
      judgeTriggers s = judgeTrigger k.val x (onChan k.val (fun c => { c with came := [] }) s)) ∧
    (∀ x ends, c.st = 2 → c.busy = true → ends = (fun (c' : SChan) (drop : Bool) => ∃ t, judgeTrigger k.val x s = t ∧
        t.chan? k.val = some c' ∧ (∀ j, j ≠ k.val → t.chan? j = s.chan? j) ∧ regsBut [Reg.STR_DROPS k.val] s t ∧
        t = { s with str := { s.str with chans := t.str.chans }, regs := t.regs } ∧
        t.fget (Fld.STR_DROPS_DROPS k.val) = if drop = true then satInc 16 (s.fget (Fld.STR_DROPS_DROPS k.val))
          else s.fget (Fld.STR_DROPS_DROPS k.val)) →
      (c.cfg.policy = 0 → c.queue.length < c.cfg.depth → ends { c with queue := c.queue ++ [x] } false) ∧
      (c.cfg.policy = 0 → c.cfg.depth ≤ c.queue.length → ends c true) ∧
      (c.cfg.policy = 1 → ends { c with queue := [x] } (!c.queue.isEmpty)) ∧
      (2 ≤ c.cfg.policy → ends c true)) ∧
    (HostGranted s f (Reg.STR_SIGNAL k.val) →
      gives (.streamSignal f k a) { c with signal := a, inst := if c.st = 2 then c.inst.map (TInst.arrive 5) else c.inst } false)

/-- START of a defined generator that is not running, with its domain ON, starts it in its default mode at the next
microsecond; any other START changes nothing. STOP ends it. OTG_AT stores its word and arms the switch to OTG_MODE's mode. A
frame start that is due, its Crust cycle being over (log entry 22), numbers the frame, records its start and schedules the
next by LOCK (R395); none happens before its time. TICKET_ACK lets the oldest job of the channel whose ticket is due run,
and changes nothing where none is. -/
def Obligations.generators_and_tickets : Prop :=
  ∀ (f : HostFn) (k : Fin 4) (v : Word) (s : State), s.wf = true →
    (HostGranted s f (Reg.OTG_CTRL k.val) →
      (((s.gen k.val).defined = false ∨ (s.gen k.val).startAt.isSome = true ∨ s.on (125 + k.val) = false) →
        exec (.otgStart f k) s = .next s) ∧
      ((s.gen k.val).defined = true → (s.gen k.val).startAt = none → s.on (125 + k.val) = true →
        ∀ x, x = (s.epoch / 1000 + 1) * 1000 → ∃ t, exec (.otgStart f k) s = .next t ∧ t = { s with str := t.str, regs := t.regs } ∧
          t.str.chans = s.str.chans ∧ regsBut (s.str.groups.map fun e => Reg.GRP_STATE e.1) s t ∧
          (∀ j, j ≠ k.val → t.gen j = s.gen j) ∧ (t.gen k.val).startAt = some x ∧
          (t.gen k.val).mode = (s.gen k.val).defMode ∧ (t.gen k.val).begun = false ∧
          (t.gen k.val).next = if (s.gen k.val).lock = true then gridAt (s.gen k.val) (s.gen k.val).defMode x else x) ∧
      (∃ t, exec (.otgStop f k) s = .next t ∧ t = { s with str := t.str, regs := t.regs } ∧
        t.str.chans = s.str.chans ∧ regsBut (s.str.groups.map fun e => Reg.GRP_STATE e.1) s t ∧
        (∀ e ∈ t.str.groups, e.2.gen = k.val → e.2.waiting = none) ∧ t.str.gens = spSet Gen.none k.val { s.gen k.val with
          startAt := none, begun := false, mode := (s.gen k.val).defMode, bufs := [], line := 0 } s.str.gens)) ∧
    (HostGranted s f (Reg.OTG_AT k.val) →
      ((s.gen k.val).defined = false → exec (.otgAtWrite f k v) s = .next (s.setReg (Reg.OTG_AT k.val) v)) ∧
      ((s.gen k.val).defined = true → exec (.otgAtWrite f k v) s = .next (onGen k.val (fun g => { g with
        armed := some (clampMode g (s.fget (Fld.OTG_MODE_MODE k.val)), resolveUs s v.toNat) }) (s.setReg (Reg.OTG_AT k.val) v)))) ∧
    (Defined s → (frameDue s k.val = false → exec (.frameStart k) s = .next s) ∧
      (frameDue s k.val = true → (∀ e ∈ s.str.chans, e.1 < 16) → ∀ g, g = s.gen k.val →
        ∀ n, n = (if g.begun = true then g.frame + 1 else 0) →
        ∃ t, exec (.frameStart k) s = .next t ∧ t.reg (Reg.OTG_FRAME k.val) = BitVec.ofNat 32 n ∧
          t.reg (Reg.OTG_START_LO k.val) = BitVec.ofNat 32 g.next ∧ t.reg (Reg.OTG_START_HI k.val) = BitVec.ofNat 32 (g.next / 2 ^ 32) ∧
          (t.gen k.val).begun = true ∧ (t.gen k.val).frame = n ∧ (t.gen k.val).start = g.next ∧
          (t.gen k.val).mode = (modeAt g.next g.mode g.armed).1 ∧
          (t.gen k.val).next = startAfter g (modeAt g.next g.mode g.armed).1 g.next ∧
          t = { s with
            regs := t.regs, pcie := t.pcie, ctx := t.ctx, str := t.str, vid := t.vid, port := t.port, freeCtr := t.freeCtr })) ∧
    (∀ (c : Fin 16) err e, Defined s →
      ((∀ j ∈ s.ctx.jobs, j.stream ≠ some c.val ∨ j.phase ≠ .ticket) → exec (.ticketAck c err e) s = .next s) ∧
      (∀ j, (s.ctx.jobs.find? fun j => j.stream == some c.val && j.phase == .ticket) = some j → (s.chan? c.val).isSome = true →
        j.ovens ≠ [] → ∃ t, exec (.ticketAck c err e) s = .next t ∧ (t.job? j.id).map (·.phase) = some .running ∧
          t.ctx = { s.ctx with jobs := t.ctx.jobs } ∧ t = { s with
            regs := t.regs, flt := t.flt, pcie := t.pcie, fab := t.fab, mem := t.mem, ctx := t.ctx, mer := t.mer, port := t.port
            freeCtr := t.freeCtr }))

/-- ENABLE of a DISABLED context clears its pointers, its lap count and ARMED, and makes it ENABLED; in another state it does
nothing. DISABLE of an ENABLED or FAULTED one leaves DRAINING while jobs are in flight, DISABLED else, and nothing more is
fetched (R352). SQ_TAIL stores the clamped tail and queues the descriptors up to it; CQ_HEAD stores the clamped head, or
CQ_TAIL where it lies outside the unread range (R360); ARM arms the vector, which is disarmed by a message at once when
records are unread (R367). -/
def Obligations.contexts_and_doorbells : Prop :=
  ∀ (f : HostFn) (c : Fin 1024) (s : State), s.wf = true →
    (HostGranted s f (Reg.CTX_CTRL c.val) →
      (ctxState s c.val ≠ 0 → exec (.ctxEnable f c) s = .next s) ∧
      (ctxState s c.val = 0 → ∃ t, exec (.ctxEnable f c) s = .next t ∧ t.reg (Reg.CTX_SQ_PTR c.val) = 0 ∧
        t.reg (Reg.CTX_CQ_PTR c.val) = 0 ∧ t.fget (Fld.CTX_STATUS_STATE c.val) = 1 ∧ t.fget (Fld.CTX_STATUS_ARMED c.val) = 0 ∧
        (∀ o, o ≠ Reg.CTX_SQ_PTR c.val → o ≠ Reg.CTX_CQ_PTR c.val → o ≠ Reg.CTX_STATUS c.val → t.reg o = s.reg o) ∧
        t = { s with regs := t.regs, ctx := { s.ctx with laps := spSet 0 c.val 0 s.ctx.laps } }) ∧
      (ctxState s c.val ≠ 1 → ctxState s c.val ≠ 3 → exec (.ctxDisable f c) s = .next s) ∧
      ((ctxState s c.val = 1 ∨ ctxState s c.val = 3) → exec (.ctxDisable f c) s =
        .next ({ s with ctx := { s.ctx with fetchQ := s.ctx.fetchQ.filter fun e => e.ctx != c.val } }.fset
          (Fld.CTX_STATUS_STATE c.val) (if ctxJobs s c.val = [] then 0 else 2)))) ∧
    (Defined s → s.barsDecode f = true → ctxOwner s c.val = some f → s.on 112 = true → ctxState s c.val = 1 →
      (∀ v : Word, ∃ t, exec (.sqTailDoorbell f c v) s = .next t ∧
        t.fget (Fld.CTX_SQ_PTR_TAIL c.val) = min (v.toNat % 4096) (sqSize s c.val - 1) % 4096 ∧
        t.fget (Fld.CTX_SQ_PTR_HEAD c.val) = s.fget (Fld.CTX_SQ_PTR_HEAD c.val) ∧
        (∀ o, o ≠ Reg.CTX_SQ_PTR c.val → t.reg o = s.reg o) ∧ t = { s with regs := t.regs, ctx := { s.ctx with
          fetchQ := ((ringSpan (sqSize s c.val) (s.fget (Fld.CTX_SQ_PTR_TAIL c.val))
            (min (v.toNat % 4096) (sqSize s c.val - 1))).map fun i =>
            (⟨c.val, i, s.mono, ctxQuiesced s c.val⟩ : Submitted)).foldl enqueueFetch s.ctx.fetchQ } }) ∧
      (∀ (v : BitVec 12) n h x, n = cqSize s c.val → n ≤ 4096 → h = min v.toNat (n - 1) →
          x = (if (h + n - s.fget (Fld.CTX_CQ_PTR_HEAD c.val)) % n ≤
            (s.fget (Fld.CTX_CQ_PTR_TAIL c.val) + n - s.fget (Fld.CTX_CQ_PTR_HEAD c.val)) % n then h
            else s.fget (Fld.CTX_CQ_PTR_TAIL c.val)) →
        exec (.cqHeadUpdate f c v) s = .next (s.fset (Fld.CTX_CQ_PTR_HEAD c.val) x) ∧
        (s.fget (Fld.CTX_CQ_PTR_TAIL c.val) = x → exec (.cqArm f c v) s =
          .next ((s.fset (Fld.CTX_CQ_PTR_HEAD c.val) x).fset (Fld.CTX_STATUS_ARMED c.val) 1)) ∧
        (s.fget (Fld.CTX_CQ_PTR_TAIL c.val) ≠ x → ∃ t, exec (.cqArm f c v) s = .next t ∧
          t.fget (Fld.CTX_CQ_PTR_HEAD c.val) = x ∧ t.fget (Fld.CTX_STATUS_ARMED c.val) = 0 ∧
          t = { s with regs := t.regs, pcie := t.pcie, port := t.port })))

/-- A doorbell write by a function, whose BARs decode, that does not own the context is an access denial at the doorbell
target 59 and has no other effect; one by the owner to a context that is not ENABLED has no effect at all, the fault log's
included. -/
def Obligations.doorbells_are_the_owners : Prop :=
  ∀ (i : Instr) (f : HostFn) (c : Fin 1024) (at_ : Nat) (s : State),
    (∃ v, (i = .sqTailDoorbell f c v ∧ at_ = 0)) ∨ (∃ v, (i = .cqHeadUpdate f c v ∨ i = .cqArm f c v) ∧ at_ = 4) →
    Defined s → s.barsDecode f = true →
    (ctxOwner s c.val ≠ some f → exec i s = .next
      (logFault 1 9 (s.masterOf f) 59 0 (4096 * c.val + at_) (s.fadd (Fld.AWT_DENY_COUNT 59) 1))) ∧
    (ctxOwner s c.val = some f → s.on 112 = true → ctxState s c.val ≠ 1 → exec i s = .next s)

/-- DESCRIPTOR_FETCHED takes the next descriptor in doorbell order when it is the context's: it is queued no more, and one
that was read becomes the next job, while a failed read passes SQ_HEAD over it and leaves the context FAULTED with nothing
queued (R356). WAITING_JOB_PROCEEDS: the first waiting job that can proceed leaves its ring and is admitted, or completes
with the outcome that admission gives it; where none can, nothing happens. -/
def Obligations.descriptors_and_admission : Prop :=
  ∀ (s : State), s.wf = true → Defined s →
    (∀ (c : Fin 1024) err e, ((∀ x, nextFetch s = some x → x.ctx ≠ c.val) → exec (.descriptorFetched c err e) s = .next s) ∧
      (∀ x r, nextFetch s = some x → x.ctx = c.val → s.fget (Fld.CTX_CFG_SQ_LOG2 c.val) ≤ 12 →
        (∀ j ∈ s.ctx.jobs, j.id ≠ s.ctx.nextId) →
        r = (readBytes (Who.ring s c.val) (sqBase s c.val + 64 * x.index) 64 err e s).1 → ∃ t,
        exec (.descriptorFetched c err e) s = .next t ∧ t.ctx.nextId = s.ctx.nextId + 1 ∧
        (∀ y ∈ t.ctx.fetchQ, y ∈ s.ctx.fetchQ ∧ ¬ (y.ctx = c.val ∧ y.index = x.index)) ∧
        (∃ j ∈ t.ctx.jobs, j.id = s.ctx.nextId ∧ j.ctx = c.val ∧ j.index = x.index) ∧
        (ringOutcome r = none → t.fget (Fld.CTX_STATUS_STATE c.val) = s.fget (Fld.CTX_STATUS_STATE c.val)) ∧
        ((ringOutcome r).isSome = true → t.fget (Fld.CTX_STATUS_STATE c.val) = 3 ∧
          t.fget (Fld.CTX_SQ_PTR_HEAD c.val) = (x.index + 1) % sqSize s c.val ∧ ∀ y ∈ t.ctx.fetchQ, y.ctx ≠ c.val) ∧
        t = { s with
          regs := t.regs, flt := t.flt, fab := t.fab, ovens := t.ovens, mem := t.mem, ctx := t.ctx, str := t.str, mer := t.mer
          port := t.port, freeCtr := t.freeCtr })) ∧
    (ableJob s [] s.ctx.jobs = none → exec .waitingJobProceeds s = .next s) ∧
    (∀ j, ableJob s [] s.ctx.jobs = some (j, .go) → ∃ t, exec .waitingJobProceeds s = .next t ∧
      (t.job? j.id).map (·.admitted) = some true ∧ t.ctx.nextId = s.ctx.nextId ∧ t.ctx.fetchQ = s.ctx.fetchQ ∧
      t.regs = (if j.stream = none then (s.fset (Fld.CTX_SQ_PTR_HEAD j.ctx) ((j.index + 1) % sqSize s j.ctx)).regs else s.regs) ∧
      t = { s with regs := t.regs, fab := t.fab, ovens := t.ovens, ctx := t.ctx, str := t.str }) ∧
    (∀ j o d, ableJob s [] s.ctx.jobs = some (j, .force o d) → j.ctx < 1024 → s.fget (Fld.CTX_CFG_SQ_LOG2 j.ctx) ≤ 12 →
      ∃ t, exec .waitingJobProceeds s = .next t ∧ (t.job? j.id).map (·.forced) = some (some (o, d)) ∧
      (t.job? j.id).map (·.phase) = some .recordDue ∧ t.ctx.nextId = s.ctx.nextId ∧ t.ctx.fetchQ = s.ctx.fetchQ ∧
      (j.stream = none → t.fget (Fld.CTX_SQ_PTR_HEAD j.ctx) = (j.index + 1) % sqSize s j.ctx) ∧
      t = { s with regs := t.regs, flt := t.flt, ctx := t.ctx, str := t.str })

/-- MAILBOX_WRITE of the first completed job of a context copies the 64 bytes that were read into its mailbox, which is
READY with the read's POISON, and SEQ advances (R371). COMPLETION_RECORD_WRITE, once the mailbox write is over and the ring
has room, writes the record, advances CQ_TAIL and CTX_RECORDS, the job is in flight no more, and an armed context's message
falls due, ARMED cleared; a record that cannot be written leaves the context FAULTED. MSIX_MESSAGE sends a message that is
due. MBX_ACK with the present SEQ clears READY. Both writes keep the order of their Crust cycle (log entry 6); where nothing
is due each changes nothing. -/
def Obligations.mailboxes_records_and_messages : Prop :=
  ∀ (c : Fin 1024) (err : List MemErr) (e : ExtReply) (s : State), s.wf = true → Defined s →
    (dueJob s c.val = none → exec (.mailboxWrite c err e) s = .next s ∧ exec (.completionRecordWrite c e) s = .next s) ∧
    (∀ j, dueJob s c.val = some j →
      (j.phase ≠ .mbxDue ∨ mbxLate s j.mbx c.val = true → exec (.mailboxWrite c err e) s = .next s) ∧
      (j.phase ≠ .recordDue ∨ cqFull s c.val = true ∨ s.ctx.admitAt = some s.mono →
        exec (.completionRecordWrite c e) s = .next s) ∧
      (∀ r, r = (readBytes (Who.forJob j) j.resultAddr 64 err e s).1 → j.phase = .mbxDue → mbxLate s j.mbx c.val = false →
        j.mbx < 256 → ∃ t, exec (.mailboxWrite c err e) s = .next t ∧ (t.job? j.id).map (·.phase) = some .recordDue ∧
        (r.refused = none → s.permits 70 c.val true (64 * j.mbx) 64 = true → s.on 112 = true →
          (∀ k, k < 16 → t.reg (Reg.MBX_DATA j.mbx k) = BitVec.ofNat 32 (leAt (4 * k) 4 r.data)) ∧
          t.fget (Fld.MBX_STAT_READY j.mbx) = 1 ∧ t.fget (Fld.MBX_STAT_POISON j.mbx) = (if r.poison = true then 1 else 0) ∧
          t.fget (Fld.MBX_SEQ_SEQ j.mbx) = (s.fget (Fld.MBX_SEQ_SEQ j.mbx) + 1) % 2 ^ 32) ∧
        ((r.refused.isSome = true ∨ s.permits 70 c.val true (64 * j.mbx) 64 = false ∨ s.on 112 = false) →
          (∀ k, k < 16 → t.reg (Reg.MBX_DATA j.mbx k) = s.reg (Reg.MBX_DATA j.mbx k)) ∧
          t.reg (Reg.MBX_SEQ j.mbx) = s.reg (Reg.MBX_SEQ j.mbx)) ∧
        t.mem.dram = s.mem.dram ∧ t.mem.pantry = s.mem.pantry ∧ t = { s with
          regs := t.regs, flt := t.flt, fab := t.fab, mem := t.mem, ctx := t.ctx, str := t.str, mer := t.mer, port := t.port
          freeCtr := t.freeCtr }) ∧
      (∀ a b r, a = cqBase s c.val + 32 * s.fget (Fld.CTX_CQ_PTR_TAIL c.val) →
        b = recordBytes j ((spGet 0 s.ctx.laps c.val + 1) % 2) → r = (writeBytes (Who.forJob j) a b false [] e s).1 →
        j.phase = .recordDue → cqFull s c.val = false → s.ctx.admitAt ≠ some s.mono → s.fget (Fld.CTX_CFG_CQ_LOG2 c.val) ≤ 12 →
        ∃ t, exec (.completionRecordWrite c e) s = .next t ∧ (∀ x ∈ t.ctx.jobs, x.id ≠ j.id) ∧
        (r.refused = none ∧ r.lost = none →
          t.fget (Fld.CTX_CQ_PTR_TAIL c.val) = (s.fget (Fld.CTX_CQ_PTR_TAIL c.val) + 1) % cqSize s c.val ∧
          t.fget (Fld.CTX_RECORDS_COUNT c.val) = (s.fget (Fld.CTX_RECORDS_COUNT c.val) + 1) % 2 ^ 32 ∧
          t.fget (Fld.CTX_STATUS_ARMED c.val) = 0 ∧
          t.ctx.msgDue = s.ctx.msgDue ++ (if s.fget (Fld.CTX_STATUS_ARMED c.val) = 1 then [c.val] else []) ∧
          (∀ d, destOf s a = .dram d → s.holds d = false → spRange 0 t.mem.dram d 32 = b)) ∧
        (r.refused.isSome = true ∨ r.lost.isSome = true → t.fget (Fld.CTX_STATUS_STATE c.val) = 3 ∧
          t.fget (Fld.CTX_CQ_PTR_TAIL c.val) = s.fget (Fld.CTX_CQ_PTR_TAIL c.val)) ∧
        (∀ x, (∀ d, destOf s a = .dram d → x < d ∨ d + 32 ≤ x) → spGet 0 t.mem.dram x = spGet 0 s.mem.dram x) ∧
        t = { s with
          regs := t.regs, flt := t.flt, pcie := t.pcie, fab := t.fab, mem := t.mem, ctx := t.ctx, str := t.str, mer := t.mer
          port := t.port, freeCtr := t.freeCtr })) ∧
    (c.val ∉ s.ctx.msgDue → exec (.msixMessage c) s = .next s) ∧
    (c.val ∈ s.ctx.msgDue → ∀ u, u = { s with ctx := { s.ctx with msgDue := s.ctx.msgDue.erase c.val } } →
      (ctxVector s c.val = none → exec (.msixMessage c) s = .next u) ∧
      (∃ t, exec (.msixMessage c) s = .next t ∧ regsBut msgRegs s t ∧
        t = { u with regs := t.regs, pcie := t.pcie, port := t.port })) ∧
    (∀ f (m : Fin 256) v, HostGranted s f (Reg.MBX_ACK m.val) → ∃ t, exec (.mbxAck f m v) s = .next t ∧
      t.regs = (if v = s.reg (Reg.MBX_SEQ m.val) then s.fset (Fld.MBX_STAT_READY m.val) 0 else s).regs ∧
      t = { s with regs := t.regs, ctx := { s.ctx with mbxAt := t.ctx.mbxAt } })

/-- PASS_START: an idle, loaded Oven that is ON starts the pass of its oldest job once that runs (R240). LOOP counts its
iterations (R248), END ends the program, and PASS_END, once END was reached and every dispatched instruction has finished,
leaves the Oven idle, counts in OVN_PASS and takes the Oven from the job, which completes with its last pass (R241). Where its
condition does not hold PASS_START and PASS_END change nothing. No other Oven changes. -/
def Obligations.oven_passes : Prop :=
  ∀ (n : Fin 48) (s : State) (o : Oven), o = s.oven n.val → s.wf = true → Defined s →
    ((o.job.isSome = true ∨ o.jobs = []) → exec (.passStart n) s = .next s) ∧
    (∀ id ids j, o.job = none → o.jobs = id :: ids → s.job? id = some j →
      ((j.phase ≠ .running ∨ s.on n.val = false ∨ o.loaded = false) → exec (.passStart n) s = .next s) ∧
      (j.phase = .running → s.on n.val = true → o.loaded = true → ∃ t, exec (.passStart n) s = .next t ∧
        (t.oven n.val).job = some id ∧ (t.oven n.val).loops = [] ∧ (t.oven n.val).taint = false ∧ (t.oven n.val).jobs = o.jobs ∧
        (t.oven n.val).bankA = o.bankA ∧ (t.oven n.val).bankS = o.bankS ∧
        (∀ m, m ≠ n.val → t.oven m = s.oven m) ∧ t = { s with ovens := t.ovens })) ∧
    (∀ i, o.instrs[o.pc]? = some i → o.job.isSome = true → o.ended = false →
      (i.op = .loop → ∃ t, exec (.loop n) s = .next t ∧ t = { s with ovens := t.ovens } ∧ (∀ m, m ≠ n.val → t.oven m = s.oven m) ∧
        (t.oven n.val).job = o.job ∧ (t.oven n.val).loops =
          (if loopCount o o.pc + 1 < i.count then [(o.pc, loopCount o o.pc + 1)] else []) ++ o.loops.filter fun e => e.1 != o.pc) ∧
      (i.op = .end_ → exec (.ovenEnd n) s = .next (onOven n.val (fun o => { o with ended := true }) s))) ∧
    ((o.job = none ∨ o.ended = false ∨ o.disp ≠ []) → exec (.passEnd n) s = .next s) ∧
    (∀ id j, o.job = some id → o.ended = true → o.disp = [] → o.loaded = true → s.job? id = some j → j.copy = none → ∃ t,
      exec (.passEnd n) s = .next t ∧ (t.oven n.val).job = none ∧ (t.oven n.val).jobs = o.jobs.filter (fun k => k != id) ∧
      t.fget (Fld.OVN_PASS_PASSES n.val) = (s.fget (Fld.OVN_PASS_PASSES n.val) + 1) % 2 ^ 32 ∧
      (t.job? id).map (·.ovens) = some (j.ovens.filter fun k => k != n.val) ∧
      (t.job? id).map (·.poisoned) = some (j.poisoned || o.taint) ∧
      (j.phase = .running → j.ovens.filter (fun k => k != n.val) = [] → (t.job? id).map (·.tDone) = some s.epoch) ∧
      (∀ m, m ≠ n.val → t.oven m = s.oven m) ∧ regsBut [Reg.OVN_PASS n.val] s t ∧
      t = { s with regs := t.regs, ovens := t.ovens, ctx := { s.ctx with jobs := t.ctx.jobs }, str := t.str })

/-- The three engines of an Oven, when their instruction may run. LOADW decodes a tile from the Pantry (R223) and leaves the
banks. A MAC of one wave from the Pantry adds into its A row, column by column, the exact sum of 64 aligned products,
saturated (R227), counts the saturations in OVN_ACCSAT and one wave in OVN_HC, and leaves the S bank and the Pantry. A
one-vector GLAZE from and to the Pantry without aux or pooling runs the stages, writes the encoded vector, counts lane
saturations, and leaves both banks. Where none may run, nothing changes. A column is exact before its one saturation, and
does not depend on the order of the lanes (R227). -/
def Obligations.oven_engines : Prop :=
  (∀ (n : Fin 48) (s : State) (o : Oven), o = s.oven n.val → s.wf = true → Defined s →
    (headOf o (fun d => d.ins.op == .loadw) = none → exec (.loadw n) s = .next s) ∧
    (headOf o (fun d => d.ins.op == .mac) = none → exec (.mac n) s = .next s) ∧
    (headOf o (fun d => d.ins.op == .glaze) = none → exec (.glaze n) s = .next s) ∧
    (∀ k d, headOf o (fun d => d.ins.op == .loadw) = some (k, d) → o.job.isSome = true → ∃ t, exec (.loadw n) s = .next t ∧
      t = { s with ovens := t.ovens } ∧ (∀ m, m ≠ n.val → t.oven m = s.oven m) ∧
      (t.oven n.val).bankA = o.bankA ∧ (t.oven n.val).bankS = o.bankS ∧
      ∀ at_, at_ = pantryAt d.ins.saddr 0 d.ins.istride 0 d.iter →
        (d.ins.split = false → d.ins.tile = 0 → (t.oven n.val).tile0 = tileOf o (d.ins.dec % 8) (s.pantryBytes n.val at_ 4096) ∧
          (t.oven n.val).tile1 = o.tile1) ∧
        (d.ins.split = false → d.ins.tile ≠ 0 → (t.oven n.val).tile1 = tileOf o (d.ins.dec % 8) (s.pantryBytes n.val at_ 4096) ∧
          (t.oven n.val).tile0 = o.tile0) ∧
        (d.ins.split = true → (t.oven n.val).tile0 = tileOf o (d.ins.dec % 8) ((s.pantryBytes n.val at_ 8192).take 4096) ∧
          (t.oven n.val).tile1 = tileOf o (d.ins.dec / 16 % 8) ((s.pantryBytes n.val at_ 8192).drop 4096))) ∧
    (∀ k d r, headOf o (fun d => d.ins.op == .mac) = some (k, d) → macKind d.ins.src = 0 → d.ins.count = 1 → d.w = 0 →
      d.ins.split = false → r = (if d.ins.clear = true then { AccRow.zero with bs := d.ins.ascale }
        else bankRow o 0 (rowAt d.ins.daddr d.ins.dstep 0)) →
      ∀ xs, xs = decodeAll o (d.ins.dec % 8) (s.pantryBytes n.val (pantryAt d.ins.saddr d.ins.sstep d.ins.istride 0 d.iter) 64) →
      ∀ tile, tile = (if d.ins.tile = 0 then o.tile0 else o.tile1) →
      ∀ cols, cols = (List.range 64).map (fun j => column r.bs (r.acc.getD j 0) xs
        ((List.range 64).map fun i => (tile.getD i []).getD j 0)) →
      o.job.isSome = true → ∃ t, exec (.mac n) s = .next t ∧ t = { s with ovens := t.ovens, regs := t.regs } ∧
        (t.oven n.val).bankA = spSet AccRow.zero (rowAt d.ins.daddr d.ins.dstep 0) ⟨r.bs, cols.map (·.1)⟩ o.bankA ∧
        (t.oven n.val).bankS = o.bankS ∧ (∀ m, m ≠ n.val → t.oven m = s.oven m) ∧
        t.fget (Fld.OVN_ACCSAT_COUNT n.val) = (s.fget (Fld.OVN_ACCSAT_COUNT n.val) + (cols.map (·.2)).sum) % 2 ^ 32 ∧
        t.pair (Reg.OVN_HC_LO n.val) (Reg.OVN_HC_HI n.val) = (s.pair (Reg.OVN_HC_LO n.val) (Reg.OVN_HC_HI n.val) + 1) % 2 ^ 64) ∧
    (∀ k d, headOf o (fun d => d.ins.op == .glaze) = some (k, d) → locKind d.ins.src = 0 → dstKind d.ins.dst = 0 →
      locKind d.ins.aux2 = 3 → locKind d.ins.aux3 = 3 → d.ins.count = 1 → d.w = 0 → d.emit = [] → d.outw = 0 → d.hold1 = none →
      d.hold2 = none → poolStage d.ins.stages = none → d.ins.dec / 128 ≠ 1 → o.job.isSome = true →
      ∀ x, x = codeLanes o (d.ins.dec % 8) (s.pantryBytes n.val (pantryAt d.ins.saddr d.ins.sstep d.ins.istride 0 d.iter) 64) →
      ∀ y, y = runStages o zeroLanes zeroLanes (stagesBefore d.ins.stages) x.1 → ∃ t, exec (.glaze n) s = .next t ∧
        t.mem = (s.putPantry n.val (pantryAt d.ins.daddr d.ins.dstep d.ins.istride 0 d.iter) (outBytes o d.ins.enc y.1)).mem ∧
        t = { s with ovens := t.ovens, regs := t.regs, mem := t.mem } ∧ (t.oven n.val).bankA = o.bankA ∧
        (t.oven n.val).bankS = o.bankS ∧ (∀ m, m ≠ n.val → t.oven m = s.oven m) ∧
        t.fget (Fld.OVN_LANESAT_COUNT n.val) = (s.fget (Fld.OVN_LANESAT_COUNT n.val) + x.2 + y.2) % 2 ^ 32)) ∧
  ∀ (bs old : Int) (l m : List (Word × Word)),
    (column bs old (l.map (·.1)) (l.map (·.2))).1 =
      max (-2 ^ 47) (min (2 ^ 47 - 1) (old + (l.map fun p => (product p.1 p.2 bs).1).sum)) ∧
    (l.Perm m → column bs old (l.map (·.1)) (l.map (·.2)) = column bs old (m.map (·.1)) (m.map (·.2)))

/-- STARTER_AFFINE and STARTER_MIX of one vector on a Resident Starter, its source and gate not from a Rack: the S row becomes
the exact step of each column, rounded once and saturated (R259, R263), and nothing but the Oven and its counters changes. A
REBASE_IF whose job does not ask for it leaves every row; one that asks sets the row from the entry's initial lanes (R273).
FETCH and FLUSH start the mover's next instruction when it is theirs: the first block of one that leads to a shared target
waits there, while the instructions that it makes room for are dispatched; they change nothing when it is not theirs. -/
def Obligations.starters_and_mover : Prop :=
  ∀ (n : Fin 48) (s : State) (o : Oven), o = s.oven n.val → s.wf = true → Defined s →
    (∀ c mode, (c = .starterAffine n ∧ mode = 0) ∨ (c = .starterMix n ∧ mode = 1) ∨ (c = .starterRebaseIf n ∧ mode = 2) →
      starterHead o mode = none → exec c s = .next s) ∧
    (∀ c mode k d st, (c = .starterAffine n ∧ mode = 0) ∨ (c = .starterMix n ∧ mode = 1) → starterHead o mode = some (k, d, st) →
      st.carried = false → locKind d.ins.src ≠ 1 → locKind d.ins.aux2 ≠ 1 → d.ins.count = 1 → d.w = 0 → o.job.isSome = true →
      ∀ us gs row r ts, us = (sourceValues s n.val d []).1 → gs = (gateLanes s n.val d []).1 → row = starterRow st d.ins d.iter 0 →
      r = bankRow o 1 row → ts = (List.range 64).map (fun j => stepValue (mode == 1) (gs.getD j 0, -24)
        ((r.acc.map fun a => (a, r.bs - 24)).getD j (0, 0)) (us.getD j (0, 0))) →
      ∃ t, exec c s = .next t ∧ t = { s with ovens := t.ovens, regs := t.regs } ∧ (∀ m, m ≠ n.val → t.oven m = s.oven m) ∧
        (t.oven n.val).bankA = o.bankA ∧
        (t.oven n.val).bankS = spSet AccRow.zero row (stepRow (feedingPass s n.val st) r ts).1 o.bankS ∧
        t.fget (Fld.OVN_ACCSAT_COUNT n.val) =
          (s.fget (Fld.OVN_ACCSAT_COUNT n.val) + (stepRow (feedingPass s n.val st) r ts).2) % 2 ^ 32) ∧
    (∀ k d st, starterHead o 2 = some (k, d, st) → st.carried = false → locKind d.ins.src = 3 → d.ins.count = 1 → d.w = 0 →
      o.job.isSome = true → ∃ t, exec (.starterRebaseIf n) s = .next t ∧ t = { s with ovens := t.ovens, regs := t.regs } ∧
        (∀ m, m ≠ n.val → t.oven m = s.oven m) ∧ (t.oven n.val).bankA = o.bankA ∧ (t.oven n.val).bankS =
          (if rebaseAsked s n.val st.num = true
            then spSet AccRow.zero (starterRow st d.ins d.iter 0) (rebaseRow st.initBs (initLanes s n.val st 0)).1 o.bankS
            else o.bankS)) ∧
    (∀ c op, (c = .fetch n ∧ op = .fetch) ∨ (c = .flush n ∧ op = .flush) →
      ((∀ k d, headOf o (fun d => engineOf d.ins.op == .mover && !d.started) = some (k, d) → d.ins.op ≠ op) →
        exec c s = .next s) ∧
      (∀ k d j, headOf o (fun d => engineOf d.ins.op == .mover && !d.started) = some (k, d) → d.ins.op = op →
        passJob s n.val = some j → d.waiting = 0 → d.w = 0 → 0 < d.ins.len * d.ins.count → (∀ e ∈ o.disp.eraseIdx k, e.uid ≠ d.uid) →
        ∀ a len t0, a = viewAddr j (moverAddr o j.pass d) → len = pieceLen a (d.ins.len - 0) →
        routeOf s (Who.forJob j) (op == .flush) a len = .target t0 → ∃ t, exec c s = .next t ∧
          t = { s with ovens := t.ovens, fab := { s.fab with reqs := t.fab.reqs } } ∧
          t.fab.reqs = s.fab.reqs ++ [⟨t0, classIn (groupOf j.bakery) j.cls, groupOf j.bakery, j.deadline.getD (2 ^ 64), s.epoch,
            len, false, if op = .fetch then .fetch n.val d.uid a len (moverPantry d)
              else .flush n.val d.uid a (s.pantryBytes n.val (moverPantry d) len) o.taint⟩] ∧
          (∀ m, m ≠ n.val → t.oven m = s.oven m) ∧ (t.oven n.val).taint = o.taint ∧
          (t.oven n.val).disp.take o.disp.length = o.disp.modify k fun x => { x with started := true, waiting := 1 }))

/-- SERVICE_OPPORTUNITY at a target that is not a Slicer serves the request that the choice of R206 names (a covered Frame
request of the earliest deadline; else a Prompt one; Bulk last), which waits no more, and nothing where none can be chosen;
a chosen link message is sent. METER_GAIN adds to every counter, up to its ceiling, the gain of the Epoch microsecond
boundaries since the latest, and does nothing before the next (R207; the ceiling is the model's choice, DEDUCED, log entry
12). BULK_PROMOTION promotes the oldest Bulk request, or the first Bulk copy of a Slicer, that has waited for BULK_AGE and
counts it. BAKERY_STALL of an active Bakery without a moved slot for STALL_US sets its bit, signals vector 5 and is logged.
-/
def Obligations.service_at_shared_targets : Prop :=
  ∀ (t : Fin 80) (err : List MemErr) (e : ExtReply) (s : State), s.wf = true → Defined s → ∀ cs, cs = candsOf s t.val →
    ((t.val < 20 ∨ 28 ≤ t.val) →
      ((choose s t.val cs).key? = none → exec (.serviceOpportunity t err e) s = .next s) ∧
      (∀ i r, (choose s t.val cs).key? = some i → s.fab.reqs[i]? = some r → ∀ u : State, u = (fun u : State =>
          { u with fab := { u.fab with reqs := u.fab.reqs.eraseIdx i } }) (charge t.val (choose s t.val cs) s) →
        u.fab.reqs = s.fab.reqs.eraseIdx i ∧
        exec (.serviceOpportunity t err e) s = .next (performOp r.op err ⟨[], .ok⟩ u) ∧
        (∀ l m, r.op = .message l m none → exec (.serviceOpportunity t err e) s = .next (sendMsg l m u))) ∧
      (∀ c, choose s t.val cs = .frame c → c ∈ cs ∧ c.cls = 0 ∧ covered s t.val c = true ∧
        ∀ d ∈ cs, d.cls = 0 → covered s t.val d = true → c.deadline ≤ d.deadline) ∧
      (∀ c u, choose s t.val cs = .prompt c u → c ∈ cs ∧ asPrompt s t.val c = true ∧ c.group = u.group ∧
        (∀ d ∈ cs, ¬ (d.cls = 0 ∧ covered s t.val d = true)) ∧
        ∀ d ∈ cs, asPrompt s t.val d = true → d.group = c.group → c.order ≤ d.order) ∧
      (∀ c, choose s t.val cs = .bulk c → c ∈ cs ∧ c.cls = 2 ∧ (∀ d ∈ cs, d.cls = 2 → c.order ≤ d.order) ∧
        ∀ d ∈ cs, ¬ (d.cls = 0 ∧ covered s t.val d = true))) ∧
    (∀ h : 20 ≤ t.val ∧ t.val < 28, exec (.serviceOpportunity t err e) s = exec (.copyUnit ⟨t.val - 20, by omega⟩ err e) s) ∧
    (s.usCount ≤ s.fab.meterAt → exec .meterGain s = .next s) ∧
    (spWf (fun _ => 0) s.fab.meters = true → s.fab.meterAt < s.usCount → ∃ u, exec .meterGain s = .next u ∧
      u = { s with fab := { s.fab with meters := u.fab.meters, meterAt := s.usCount } } ∧ ∀ x g, x < 80 → g < 16 →
        meterOf u x g = min (meterOf s x g + (s.usCount - s.fab.meterAt) * (reservedOf s g x * cap15 s x)) (meterCeil s x g)) ∧
    ((t.val < 20 ∨ 28 ≤ t.val) → ∀ late : MemReq → Bool, late = (fun r => r.target == t.val && r.cls == 2 && !r.promoted &&
        decide (r.t + 100000 * s.fget Fld.FAB_BULKAGE_BULK_AGE ≤ s.epoch)) →
      (s.fab.reqs.findIdx? late = none → exec (.bulkPromotion t) s = .next s) ∧
      (∀ i, s.fab.reqs.findIdx? late = some i → exec (.bulkPromotion t) s = .next ({ s with fab := { s.fab with
        reqs := s.fab.reqs.modify i fun r => { r with promoted := true } } }.fadd (Fld.FAB_TGT_PROMOTED_COUNT t.val) 1))) ∧
    ((20 ≤ t.val ∧ t.val < 28) → ∀ late : Job → Bool, late = (fun j => j.cls == 2 && !j.promoted &&
        decide (j.since + 100000 * s.fget Fld.FAB_BULKAGE_BULK_AGE ≤ s.epoch)) →
      ((openCopies s (t.val - 20)).find? late = none → exec (.bulkPromotion t) s = .next s) ∧
      (∀ j, (openCopies s (t.val - 20)).find? late = some j → exec (.bulkPromotion t) s = .next
        (onJob j.id (fun j => { j with promoted := true }) (s.fadd (Fld.FAB_TGT_PROMOTED_COUNT t.val) 1)))) ∧
    (∀ b : Fin 16, ∀ stalled : Prop, stalled = (bakeryActive s b.val = true ∧
        (s.fget Fld.FAB_STALL_STALLED).testBit b.val = false ∧
        (s.bakery b.val).lastMove + 1000 * s.fget Fld.FAB_STALLCFG_STALL_US ≤ s.epoch) →
      (¬ stalled → exec (.bakeryStall b) s = .next s) ∧
      (stalled → ∃ u, exec (.bakeryStall b) s = .next u ∧ (u.fget Fld.FAB_STALL_STALLED).testBit b.val = true ∧
        regsBut (Reg.FAB_STALL :: msgRegs ++ fltRegs 11) s u ∧
        u = { s with regs := u.regs, flt := u.flt, pcie := u.pcie, port := u.port } ∧
        u.fget (Fld.FLT_COUNT_COUNT 11) = (s.fget (Fld.FLT_COUNT_COUNT 11) + 1) % 2 ^ 32))

/-- COPY_UNIT of a Slicer that is ON serves the unit its choice names. A copy that is not staged has then passed up to 4,096
bytes more, and CPY_UNITS counts the unit; so has a staged one whose source is in the buffer, while one whose source is not
has passed none. COPY_COMPLETE: the first copy with every byte passed completes, T_DONE being the Epoch of it, unless a
write of the Slicer is not acknowledged yet. HOST_READ_COMPLETION and COMPLETION_TIMEOUT: the read of that tag ends, and is
in flight no more; a read that has not waited for the port's timeout, or a tag of no read that is out, changes nothing. -/
def Obligations.copies_and_host_reads : Prop :=
  ∀ (k : Fin 8) (err : List MemErr) (e : ExtReply) (tag : Nat) (s : State), s.wf = true → Defined s →
    ∀ ch, ch = choose s (20 + k.val) (copyCands s k.val) →
    ((s.on (102 + k.val) = false ∨ ch.key?.bind s.job? = none) → exec (.copyUnit k err e) s = .next s) ∧
    (∀ j d n, s.on (102 + k.val) = true → ch.key?.bind s.job? = some j → j.copy = some d → j.ctx < 1024 →
      n = min 4096 (copyBytes d - j.unit) → ∃ t, exec (.copyUnit k err e) s = .next t ∧
      t.fget (Fld.CPY_STATUS_CTX k.val) = j.ctx ∧ (t.job? j.id).map (·.started) = some true ∧
      (copyMode d ≠ .staged → (t.job? j.id).map (·.unit) = some (j.unit + n) ∧
        t.fget (Fld.CPY_UNITS_COUNT k.val) = (s.fget (Fld.CPY_UNITS_COUNT k.val) + 1) % 2 ^ 32) ∧
      (∀ x, copyMode d = .staged → slicerStage s k.val = some x →
        (x.data.length < copyBytes d → (t.job? j.id).map (·.unit) = some j.unit ∧
          t.fget (Fld.CPY_UNITS_COUNT k.val) = s.fget (Fld.CPY_UNITS_COUNT k.val)) ∧
        (copyBytes d ≤ x.data.length → (t.job? j.id).map (·.unit) = some (j.unit + n) ∧
          t.fget (Fld.CPY_UNITS_COUNT k.val) = (s.fget (Fld.CPY_UNITS_COUNT k.val) + 1) % 2 ^ 32)) ∧
      t = { s with
        regs := t.regs, flt := t.flt, pcie := t.pcie, fab := t.fab, mem := t.mem, ctx := { s.ctx with jobs := t.ctx.jobs }
        mer := t.mer, port := t.port, freeCtr := t.freeCtr }) ∧
    (∀ whole : Job → Bool, whole = (fun j => j.phase == .running &&
        (match j.copy with | some d => decide (copyBytes d ≤ j.unit) | none => false)) →
      ((slicerJobs s k.val).find? whole = none ∨ postedBy s (0x410 + k.val) = true → exec (.copyComplete k) s = .next s) ∧
      (∀ j, (slicerJobs s k.val).find? whole = some j → s.job? j.id = some j → postedBy s (0x410 + k.val) = false → ∃ t,
        exec (.copyComplete k) s = .next t ∧ (t.job? j.id).map (·.tDone) = some s.epoch ∧
        (t.job? j.id).map (·.phase) = some .recordDue ∧ t.fget (Fld.CPY_STATUS_CTX k.val) = 0 ∧
        t = { s with regs := t.regs, ctx := { s.ctx with jobs := t.ctx.jobs }, str := t.str })) ∧
    (s.mem.hostReads.find? (fun h => h.tag == tag && h.sent) = none →
      exec (.hostReadCompletion tag e) s = .next s ∧ exec (.completionTimeout tag) s = .next s) ∧
    (∀ h, s.mem.hostReads.find? (fun h => h.tag == tag && h.sent) = some h →
      (s.epoch < h.t + hostTimeout s h.port → exec (.completionTimeout tag) s = .next s) ∧
      (tag < s.mem.nextTag → ∀ c, c = .hostReadCompletion tag e ∨ (c = .completionTimeout tag ∧ h.t + hostTimeout s h.port ≤ s.epoch) →
        ∃ t, exec c s = .next t ∧ (∀ x ∈ t.mem.hostReads, x.tag ≠ tag) ∧ s.mem.nextTag ≤ t.mem.nextTag ∧
          t = { s with
            regs := t.regs, flt := t.flt, pcie := t.pcie, fab := t.fab, ovens := t.ovens, mem := t.mem
            ctx := { s.ctx with jobs := t.ctx.jobs }, mer := t.mer, port := t.port, freeCtr := t.freeCtr }))

/-- DL_UP trains a link that is down to L0 within its port's limits, while its domains are ON and THERMTRIP_N has not
fallen. DL_DOWN of a link that is up counts in DOWNS, and resets every function of the port. ASPM's commands leave and
re-enter L0. A change to or from L0 is an event of SBD (R468). HOT_RESET, FLR and VF Enable's clearing return the
configuration space of the functions they reset to its reset values, AER's words apart (R450, R575). D3HOT stores the power
state, and a configuration write the writable bits that its byte enables select. A port that is down, or a function that
does not exist, takes none; until the configuration space is built a port with its domains ON answers a configuration
request with Retry Status (R166). -/
def Obligations.pcie_links_and_functions : Prop :=
  ∀ (p : PPort) (s : State), s.wf = true → Defined s →
    (∀ g w, ((s.link p).up = true ∨ s.pwr.tripped = true ∨ s.on (portDomains p).1 = false ∨ s.on (portDomains p).2 = false) →
      exec (.dlUp p g w) s = .next s) ∧
    (∀ g w, (s.link p).up = false → s.pwr.tripped = false → s.on (portDomains p).1 = true → s.on (portDomains p).2 = true →
      ∃ t, exec (.dlUp p g w) s = .next t ∧
        t.link p = ⟨true, clampNat 1 (portLimits s p).1 g.val, clampNat 1 (portLimits s p).2 w.val, true⟩ ∧
        (∀ q, q ≠ p → t.link q = s.link q) ∧ t = { s with pcie := t.pcie, regs := t.regs, port := t.port }) ∧
    ((s.link p).up = false → exec (.dlDown p) s = .next s ∧ exec (.aspmL1Entry p) s = .next s ∧ exec (.aspmL1Exit p) s = .next s) ∧
    ((s.link p).up = true → (∃ t, exec (.dlDown p) s = .next t ∧ t.link p = ⟨false, 0, 0, false⟩ ∧
        (∀ q, q ≠ p → t.link q = s.link q) ∧ t.cfgWord (pfOf p) 0x04 = cfgReset (fnIndex (pfOf p)) 0x04 ∧
        t.fget (Fld.SBD_PCIE_DOWNS_COUNT (portNum p)) = (s.fget (Fld.SBD_PCIE_DOWNS_COUNT (portNum p)) + 1) % 2 ^ 32 ∧
        t = { s with
          regs := t.regs, flt := t.flt, pcie := t.pcie, fab := t.fab, ovens := t.ovens, mem := t.mem, ctx := t.ctx, str := t.str
          mer := t.mer, port := t.port, freeCtr := t.freeCtr }) ∧
      (∀ c l, (c = .aspmL1Entry p ∧ l = false) ∨ (c = .aspmL1Exit p ∧ l = true) → ∃ t, exec c s = .next t ∧
        t.link p = { s.link p with l0 := l } ∧ (∀ q, q ≠ p → t.link q = s.link q) ∧
        t = { s with pcie := t.pcie, regs := t.regs, port := t.port } ∧
        t.fget Fld.SBD_EVT_SEQ_SEQ = (s.fget Fld.SBD_EVT_SEQ_SEQ + if (s.link p).l0 = l then 0 else 1) % 2 ^ 32)) ∧
    (s.portUp p = false → exec (.hotReset p) s = .next s) ∧
    (s.portUp p = true →
      (∀ c, c = .hotReset p ∨ c = .flr (pfOf p) → ∃ t, exec c s = .next t ∧
        (∀ e ∈ t.pcie.cfg, e.1 / 4096 = fnIndex (pfOf p) → 0x104 ≤ e.1 % 4096 ∧ e.1 % 4096 < 0x140) ∧
        t.link p = s.link p ∧ t = { s with
          regs := t.regs, flt := t.flt, pcie := t.pcie, fab := t.fab, ovens := t.ovens, mem := t.mem, ctx := t.ctx, str := t.str
          port := t.port }) ∧
      exec (.vfEnableWrite p true) s = .next (s.setCfgWord (pfOf p) 0x150 (withBits 0 0 1 (s.cfgWord (pfOf p) 0x150))) ∧
      (∃ t, exec (.vfEnableWrite p false) s = .next t ∧ (∀ v : Fin 32, v.val ≠ 0 → spWf (fun k => cfgReset (k / 4096) (k % 4096)) s.pcie.cfg = true →
        t.fnExists ⟨p, v⟩ = false) ∧ t = { s with
          regs := t.regs, flt := t.flt, pcie := t.pcie, fab := t.fab, ovens := t.ovens, mem := t.mem, ctx := t.ctx, str := t.str
          port := t.port }) ∧
      exec (.d3hot (pfOf p)) s = .next (s.setCfgWord (pfOf p) 0x44 (withBits 1 0 3 (s.cfgWord (pfOf p) 0x44))) ∧
      (∀ v : Fin 32, v.val ≠ 0 → exec (.d3hot ⟨p, v⟩) s = .next s) ∧
      (∀ data : Word, exec (.configWrite (pfOf p) 0x44 0b0001 data) s = .next (flushPending (pfOf p)
        (s.setCfgWord (pfOf p) 0x44 (if data.toNat % 4 = 1 ∨ data.toNat % 4 = 2 then s.cfgWord (pfOf p) 0x44
          else withBits 1 0 (data.toNat % 4) (s.cfgWord (pfOf p) 0x44)))))) ∧
    (∀ c f, (∃ off be data, c = .configWrite f off be data) ∨ c = .flr f ∨ c = .d3hot f ∨ (∃ b, c = .vfEnableWrite f.port b ∧
        f = pfOf f.port) →
      (cfgPending s f.port = true → exec c s = .next (s.out (.retryStatus f))) ∧
      (cfgPending s f.port = false → (s.portUp f.port = false ∨ s.fnExists f = false) → exec c s = .next s))

/-- An Unsupported Request of a port that is up is recorded in AER and answered; a poisoned write to BAR0 or BAR2 of a
function whose BARs decode is dropped and recorded; an ECRC error is recorded where checking is enabled. BAR4: beyond the
aperture an access is an Unsupported Request; a read inside answers the bytes of the function's aperture with EP for poison
and leaves memory; a write inside one block of DRAM stores its bytes and no other, and a write of no enabled byte writes
nothing; a function whose BARs do not decode makes none. MSIX_UNMASK clears the mask of the vector, and a pending message
goes out. -/
def Obligations.pcie_errors_aperture_and_vectors : Prop :=
  ∀ (f : HostFn) (s : State), s.wf = true → Defined s →
    ∀ aer, aer = (fun bit => s.setCfgWord (pfOf f.port) 0x104 (withBits bit bit 1 (s.cfgWord (pfOf f.port) 0x104))) →
    exec (.unsupportedRequest f) s = .next (if s.portUp f.port = true then (aer 20).out (.unsupported f) else s) ∧
    exec (.poisonedTlpReceived f) s = .next (if s.barsDecode f = true then aer 12 else s) ∧
    exec (.ecrcError f) s = .next (if s.portUp f.port = true ∧ bitsOf 8 8 (s.cfgWord (pfOf f.port) 0x118) = 1 then aer 19 else s) ∧
    (∀ off len data en ep err e,
      (s.barsDecode f = false → exec (.bar4Read f off len err e) s = .next s ∧ exec (.bar4Write f off data en ep err e) s = .next s) ∧
      (s.barsDecode f = true → bar4Size s f < off + len →
        exec (.bar4Read f off len err e) s = .next ((aer 20).out (.unsupported f))) ∧
      (s.barsDecode f = true → bar4Size s f < off + data.length → exec (.bar4Write f off data en ep err e) s = .next (aer 20)) ∧
      (s.barsDecode f = true → off + len ≤ bar4Size s f →
        ∀ r, r = readBytes (Who.plain (s.masterOf f)) ((apBase s f + off) % 2 ^ 40) len err e s →
        exec (.bar4Read f off len err e) s = .next (r.2.out (.readDone f 4 off r.1.data r.1.poison)) ∧
        r.2.mem.dram = s.mem.dram ∧ r.2.mem.pantry = s.mem.pantry ∧ r.2.mem.poison = s.mem.poison) ∧
      (∀ a, s.barsDecode f = true → off + data.length ≤ bar4Size s f → data ≠ [] →
        (∀ k, k < data.length → en.testBit k = true) → (apBase s f + off) % 64 + data.length ≤ 64 →
        destOf s (apBase s f + off) = .dram a → s.permits 0 (s.masterOf f) true a data.length = true →
        s.on (133 + channelOf a) = true → s.holds a = false → errOf err = .none → ∃ t,
        exec (.bar4Write f off data en ep err e) s = .next t ∧ t.mem.dram = spWriteAll 0 a data s.mem.dram ∧
        t.mem.pantry = s.mem.pantry ∧ t = { s with
          regs := t.regs, flt := t.flt, pcie := t.pcie, fab := t.fab, mem := t.mem, mer := t.mer, port := t.port
          freeCtr := t.freeCtr }) ∧
      (s.barsDecode f = true → off + data.length ≤ bar4Size s f → (∀ k, k < data.length → en.testBit k = false) →
        exec (.bar4Write f off data en ep err e) s = .next s)) ∧
    (∀ v : Fin 2048, (msixReach s f v.val = false → exec (.msixUnmask f v) s = .next s) ∧
      (msixReach s f v.val = true → s.msixOn f = false →
        exec (.msixUnmask f v) s = .next (s.setMsix f v.val { s.msixEntry f v.val with mask := false })) ∧
      (msixReach s f v.val = true → s.msixOn f = true → (s.pcie.msix.filter fun e =>
          e.1 / 2048 == fnIndex f && e.2.pend && !e.2.mask) = [] → (s.msixEntry f v.val).pend = false →
        exec (.msixUnmask f v) s = .next (s.setMsix f v.val { s.msixEntry f v.val with mask := false })))

/-- LINK_DETECT takes a powered link from DETECT, or from LEFT once MODULE_EJECT_N is high, to TRAIN (R185, R315).
MERIDIAN_TRAIN_DONE with lanes in an order that Untal cannot correct fails training (R313); else it leads to IDENT, over
Meridian-2 training where both ends offer it and no fall-back has happened, and this end's identity goes out (R317);
Meridian-2 training of more than 30 ms, and GEN2_FALLBACK after 30 ms or on errors, set FALLBACK (R316). LINK_IDENT accepts
a peer of the same Constellation, of another home, as the LINK entry demands it, and of one unit identity over all links to
it; it refuses every other, with a record (R317). LINK_TRAINED: TRAINED, with full pools (R321). REFUSED_RETRY waits 100 ms.
A change of STATE that detection makes is one event (R347). -/
def Obligations.meridian_links_train : Prop :=
  ∀ (l : Fin 4) (s : State), s.wf = true → Defined s → spWf (fun _ => MLink.reset) s.mer.links = true →
    ∀ ident, ident = PortEvent.merIdent l.val s.mer.constId s.home (s.reg Reg.DEVICE_ID) Config.unitIdentity →
    (linkOn s l.val = false → exec (.linkDetect l) s = .next s ∧ (∀ g r, exec (.meridianTrainDone l g r) s = .next s) ∧
      (∀ e, exec (.gen2Fallback l e) s = .next s) ∧ (∀ k h p d u, exec (.linkIdent l k h p d u) s = .next s) ∧
      exec (.linkTrained l) s = .next s) ∧
    (linkState s l.val ≠ 1 → (linkState s l.val ≠ 7 ∨ s.pwr.pins.moduleEjectN = false) → exec (.linkDetect l) s = .next s) ∧
    (linkOn s l.val = true → (linkState s l.val = 1 ∨ linkState s l.val = 7 ∧ s.pwr.pins.moduleEjectN = true) → ∃ t,
      exec (.linkDetect l) s = .next t ∧ linkState t l.val = 2 ∧
      t.mlink l.val = { s.mlink l.val with gen2At := none, identOk := false } ∧
      t.fget Fld.MER_EVT_SEQ_SEQ = (s.fget Fld.MER_EVT_SEQ_SEQ + 1) % 2 ^ 32 ∧
      t = { s with mer := t.mer, regs := t.regs, pcie := t.pcie, port := t.port }) ∧
    (linkOn s l.val = true → linkState s l.val = 2 →
      (∀ g lanes, laneOrder lanes = none → exec (.meridianTrainDone l g lanes) s = .next (dropLink l.val s) ∧
        linkState (dropLink l.val s) l.val = idleState s l.val) ∧
      (∀ g lanes r t0, laneOrder lanes = some r → (s.mlink l.val).gen2At = some t0 → ∃ t,
        exec (.meridianTrainDone l g lanes) s = .next t ∧
        t.fget (Fld.MER_LINK_STATUS_REVERSED l.val) = (if r = true then 1 else 0) ∧ (t.mlink l.val).gen2At = none ∧
        (s.epoch ≤ t0 + 30000000 → linkState t l.val = 3 ∧ t.fget (Fld.MER_LINK_STATUS_GEN l.val) = 2 ∧ ident ∈ t.port) ∧
        (t0 + 30000000 < s.epoch → linkState t l.val = 2 ∧ t.fget (Fld.MER_LINK_STATUS_FALLBACK l.val) = 1) ∧
        t = { s with mer := t.mer, regs := t.regs, pcie := t.pcie, port := t.port }) ∧
      (∀ (g : Nat) lanes (r both : Bool), laneOrder lanes = some r → both = decide (
          min (s.fget (Fld.MER_LINK_STATUS_MAX_GEN l.val)) g = 2 ∧ s.fget (Fld.MER_LINK_STATUS_FALLBACK l.val) = 0) →
        (s.mlink l.val).gen2At = none → ∃ t, exec (.meridianTrainDone l g lanes) s = .next t ∧
        t.fget (Fld.MER_LINK_STATUS_REVERSED l.val) = (if r = true then 1 else 0) ∧
        PortEvent.merGen l.val (s.fget (Fld.MER_LINK_STATUS_MAX_GEN l.val)) ∈ t.port ∧
        (both = true → linkState t l.val = 2 ∧ (t.mlink l.val).gen2At = some s.epoch) ∧
        (both = false → linkState t l.val = 3 ∧ t.fget (Fld.MER_LINK_STATUS_GEN l.val) = 1 ∧ ident ∈ t.port) ∧
        t = { s with mer := t.mer, regs := t.regs, pcie := t.pcie, port := t.port }) ∧
      (∀ (e : Bool), (∀ t0, (s.mlink l.val).gen2At = some t0 → e = false ∧ s.epoch < t0 + 30000000) →
        exec (.gen2Fallback l e) s = .next s) ∧
      (∀ (e : Bool) t0, (s.mlink l.val).gen2At = some t0 → (e = true ∨ t0 + 30000000 ≤ s.epoch) → ∃ t,
        exec (.gen2Fallback l e) s = .next t ∧ t.fget (Fld.MER_LINK_STATUS_FALLBACK l.val) = 1 ∧ linkState t l.val = 2 ∧
        t.mlink l.val = { s.mlink l.val with gen2At := none } ∧ t = { s with mer := t.mer, regs := t.regs })) ∧
    (linkOn s l.val = true → linkState s l.val = 3 →
      (∀ (k : Word) (h : Fin 8) (p : Fin 4) (d : Word) (u : BitVec 64) (takes : Prop), takes = (k.toNat = s.mer.constId ∧
          h.val ≠ s.home ∧ ((s.mlink l.val).peerHome = 255 ∨ (s.mlink l.val).peerHome = h.val) ∧
          ((s.mlink l.val).peerLink = 255 ∨ (s.mlink l.val).peerLink = p.val) ∧
          ∀ x, x < 4 → x ≠ l.val → (s.mlink x).installed = true → peerHomeOf s x = h.val →
            (liveMask s h.val).testBit x = true → (s.mlink x).unit = u.toNat) → ∃ t,
        exec (.linkIdent l k h p d u) s = .next t ∧ peerHomeOf t l.val = h.val ∧
        t.fget (Fld.MER_LINK_STATUS_PEER_LINK l.val) = p.val ∧
        (takes → linkState t l.val = 3 ∧ t.mlink l.val = { s.mlink l.val with identOk := true, unit := u.toNat } ∧ t.flt = s.flt) ∧
        (¬ takes → linkState t l.val = 6 ∧ t.mlink l.val = { s.mlink l.val with refusedAt := s.epoch } ∧
          t.fget (Fld.FLT_COUNT_COUNT 12) = (s.fget (Fld.FLT_COUNT_COUNT 12) + 1) % 2 ^ 32) ∧
        t = { s with mer := t.mer, regs := t.regs, flt := t.flt, pcie := t.pcie, port := t.port }) ∧
      ((s.mlink l.val).identOk = false → exec (.linkTrained l) s = .next s) ∧
      ((s.mlink l.val).identOk = true → ∃ t, exec (.linkTrained l) s = .next t ∧ linkState t l.val = 4 ∧
        (t.mlink l.val).req = 2048 ∧ (t.mlink l.val).rsp = 4096 ∧ (t.mlink l.val).ctl = 64 ∧ (t.mlink l.val).replay = [] ∧
        (t.mlink l.val).ctlQ = [] ∧ (t.mlink l.val).installed = false ∧
        t = { s with mer := t.mer, regs := t.regs, pcie := t.pcie, port := t.port, zen := t.zen })) ∧
    ((linkState s l.val ≠ 6 ∨ s.epoch < (s.mlink l.val).refusedAt + 100000000) → exec (.refusedRetry l) s = .next s) ∧
    (linkState s l.val = 6 → (s.mlink l.val).refusedAt + 100000000 ≤ s.epoch → ∃ t, exec (.refusedRetry l) s = .next t ∧
      linkState t l.val = idleState s l.val ∧ t = { s with regs := t.regs, pcie := t.pcie, port := t.port })

/-- The loss of a link in service: LINK_LOST (cause 1), replays beyond R317's bounds (2), no ACK progress for 50 µs with
flits outstanding (3) and MER_LINK_CTRL.DISABLE (4) each log it, count it in LOSTS, drop its part in training and Rise, and
raise its event; where no Star is routed over it and nothing is in flight on it, that is all that happens. LINK_LOST of a
link that trains, or whose Star has left by a Set, makes it wait for its peer without a record; of any other link, nothing.
REPLAY_EXHAUSTED of a link within its bounds only begins its count of 10 ms anew. A disabled link waits in DISABLED. No loss
touches Nightwatch, power, the fuses, video or the access tables. -/
def Obligations.meridian_link_lost : Prop :=
  ∀ (l : Fin 4) (s : State), s.wf = true → Defined s →
    ∀ (lost : Nat → State → State), lost = (fun cause u => raiseZen (10 + l.val) (dropLink l.val
      ((logFault 13 16 0 l.val cause 0 u).fadd (Fld.MER_LINK_LOSTS_COUNT l.val) 1))) →
    ∀ quiet : Prop, quiet = (s.mer.finals = [] ∧ (∀ h, h < 8 → (liveMask s h).testBit l.val = false) ∧
      (∀ q ∈ s.mem.remote, q.link ≠ l.val) ∧ (∀ e ∈ s.fab.racks, e.2.link ≠ l.val) ∧
      ∀ q ∈ s.fab.reqs, ∀ k m i, q.op = .message k m i → k ≠ l.val) →
    ∀ late : Prop, late = (outstanding (s.mlink l.val) ≠ 0 ∧ (s.mlink l.val).ackAt + 50000 ≤ s.epoch) →
    ∀ v : State, v = onLink l.val (rollWin s.mono) s →
    ∀ fits : State → Prop, fits = (fun t => t = { s with
      regs := t.regs, zen := t.zen, flt := t.flt, pcie := t.pcie, fab := t.fab, ovens := t.ovens, mem := t.mem, ctx := t.ctx
      mer := t.mer, port := t.port, freeCtr := t.freeCtr }) →
    (inService s l.val = false →
      exec (.replayExhausted l) s = .next v ∧ exec (.ackProgressTimeout l) s = .next s ∧
      (linkState s l.val ≠ 2 → linkState s l.val ≠ 3 → exec (.linkLost l) s = .next s) ∧
      (linkState s l.val = 2 ∨ linkState s l.val = 3 → exec (.linkLost l) s = .next (dropLink l.val s) ∧
        linkState (dropLink l.val s) l.val = idleState s l.val)) ∧
    (inService s l.val = true → (¬ late → exec (.ackProgressTimeout l) s = .next s) ∧
      (exhausted (v.mlink l.val) = false → exec (.replayExhausted l) s = .next v) ∧
      ((s.mlink l.val).leftBySet = true → (∃ t, exec (.linkLost l) s = .next t ∧ fits t) ∧
        (quiet → exec (.linkLost l) s = .next (syncReach (dropLink l.val s)))) ∧
      (∀ c cause u, (c = .linkLost l ∧ cause = 1 ∧ (s.mlink l.val).leftBySet = false ∧ u = s) ∨
          (c = .replayExhausted l ∧ cause = 2 ∧ exhausted (v.mlink l.val) = true ∧ u = v) ∨
          (c = .ackProgressTimeout l ∧ cause = 3 ∧ late ∧ u = s) →
        (quiet → exec c s = .next (syncReach (lost cause u))) ∧ ∃ t, exec c s = .next t ∧ fits t)) ∧
    (linkState (lost 1 s) l.val = idleState s l.val) ∧
    ((lost 1 s).fget (Fld.MER_LINK_LOSTS_COUNT l.val) = (s.fget (Fld.MER_LINK_LOSTS_COUNT l.val) + 1) % 2 ^ 32) ∧
    (spWf (fun _ => MLink.reset) s.mer.links = true → ((lost 1 s).mlink l.val).gen2At = none ∧
      ((lost 1 s).mlink l.val).identOk = false ∧ ((lost 1 s).mlink l.val).rising = false ∧
      ((lost 1 s).mlink l.val).installed = false ∧ ((lost 1 s).mlink l.val).replay = []) ∧
    (∀ f u, HostGranted s f (Reg.MER_LINK_CTRL l.val) → u = s.fset (Fld.MER_LINK_CTRL_DISABLE l.val) 1 →
      (inService s l.val = true → (quiet → exec (.linkDisable f l) s = .next (syncReach (lost 4 u))) ∧
        ∃ t, exec (.linkDisable f l) s = .next t ∧ fits t) ∧
      (inService s l.val = false → linkState s l.val = 0 → exec (.linkDisable f l) s = .next u) ∧
      (inService s l.val = false → linkState s l.val ≠ 0 → exec (.linkDisable f l) s = .next (dropLink l.val u) ∧
        linkState (dropLink l.val u) l.val = 0))

/-- A flit on a link in service, as its 640 bytes read (R319); a skip flit carries nothing (R314). One whose FEC or CRC
fails is dropped, counted in BAD and answered with NAK. The next flit in order is accepted: the latest FSEQ received
advances, RX counts it, it is acknowledged, the credits it carries return to the pools up to their sizes and to the
producing Racks (R321), and an ACK that it carries acknowledges flits that are outstanding, while a NAK has the others sent
again (R323). A sequenced flit received before is acknowledged again; one after a failed flit is discarded. At Meridian-2
FECCOR counts the symbols corrected. On a link that is not in service nothing happens. -/
def Obligations.flits_received : Prop :=
  ∀ (l : Fin 4) (f : RxFlit) (s : State), s.wf = true → Defined s → spWf (fun _ => MLink.reset) s.mer.links = true →
    (inService s l.val = false ∨ f.skip = true → exec (.flitReceived l f) s = .next s) ∧
    (inService s l.val = true → f.skip = false → ∀ x, x = f.view → ∀ k, k = s.mlink l.val →
      ∃ t, exec (.flitReceived l f) s = .next t ∧ t = { s with mer := t.mer, regs := t.regs, port := t.port, fab := t.fab } ∧
      (x.racks = [] → t.fab = s.fab) ∧
      t.fget (Fld.MER_LINK_FECCOR_COUNT l.val) = (s.fget (Fld.MER_LINK_FECCOR_COUNT l.val) +
        if s.fget (Fld.MER_LINK_STATUS_GEN l.val) = 2 then x.corrected else 0) % 2 ^ 32 ∧
      t.fget (Fld.MER_LINK_BAD_COUNT l.val) = (s.fget (Fld.MER_LINK_BAD_COUNT l.val) + if x.good = true then 0 else 1) % 2 ^ 32 ∧
      (∀ none_ : Prop, none_ = (t.fab = s.fab ∧ (t.mlink l.val).rx = k.rx ∧ (t.mlink l.val).tx = k.tx ∧
          (t.mlink l.val).acked = k.acked ∧ (t.mlink l.val).req = k.req ∧ (t.mlink l.val).rsp = k.rsp ∧
          (t.mlink l.val).ctl = k.ctl ∧ t.fget (Fld.MER_LINK_RX_COUNT l.val) = s.fget (Fld.MER_LINK_RX_COUNT l.val)) →
        (x.good = false → none_ ∧ PortEvent.flit l.val (ackFlit true k.rx) ∈ t.port) ∧
        (x.good = true → x.idle = false → x.fseq ≠ (k.rx + 1) % 4096 → none_ ∧
          ((k.rx + 4096 - x.fseq) % 4096 < 256 → PortEvent.flit l.val (ackFlit false k.rx) ∈ t.port) ∧
          (256 ≤ (k.rx + 4096 - x.fseq) % 4096 → t.port = s.port))) ∧
      (x.good = true → ∀ seq : Bool, seq = !x.idle → (x.idle = true ∨ x.fseq = (k.rx + 1) % 4096) →
        (t.mlink l.val).rx = (if seq = true then (k.rx + 1) % 4096 else k.rx) ∧
        t.fget (Fld.MER_LINK_RX_COUNT l.val) = (s.fget (Fld.MER_LINK_RX_COUNT l.val) + if seq = true then 1 else 0) % 2 ^ 32 ∧
        (seq = true → PortEvent.flit l.val (ackFlit false ((k.rx + 1) % 4096)) ∈ t.port) ∧
        (t.mlink l.val).req = min 2048 (k.req + x.crReq) ∧ (t.mlink l.val).rsp = min 4096 (k.rsp + x.crRsp) ∧
        (k.ctlQ = [] → (t.mlink l.val).ctl = min 64 (k.ctl + x.crCtl) ∧ (t.mlink l.val).tx = k.tx) ∧
        (∀ n c r, x.racks = [(n, c)] → s.rack? n = some r → r.connected = true → r.prod.isSome = true → r.cons = none →
          r.link = l.val → t.rack? n = some { r with credits := min r.effDepth (r.credits + c) }) ∧
        (∀ n, n = (x.ack + 4096 - k.acked) % 4096 →
          ((x.valid = false ∨ n = 0 ∨ outstanding k < n) → (t.mlink l.val).acked = k.acked) ∧
          (x.valid = true → n ≠ 0 → n ≤ outstanding k → (t.mlink l.val).acked = x.ack ∧
            (t.mlink l.val).ackAt = s.epoch) ∧
          (x.valid = true → x.nak = true → ∀ b ∈ (if n ≠ 0 ∧ n ≤ outstanding k then k.replay.drop n else k.replay),
            PortEvent.flit l.val b.2 ∈ t.port)) ∧
        ((x.valid = false ∨ x.nak = false) →
          t.fget (Fld.MER_LINK_REPLAY_COUNT l.val) = s.fget (Fld.MER_LINK_REPLAY_COUNT l.val))))

/-- Requests hold the units of their pool on the link they came on until they are passed on, refused or performed (R321).
MSG_RD, MSG_WRF and MSG_WRM for another home go on along its route, or are answered LOST where there is none (R326); one of
a master that the guest map does not list is dropped, counted in MER_DENY, logged and answered DENIED (R330); one of a
listed master goes to its target under its proxy ID (R329). A block of a window that moves here is written to the POOL range
it was given (R340; how it is told from a guest's is the model's choice, log entry 16). MSG_RDC and MSG_WRA return their
units and end the request whose tag they return; of an unknown tag they end nothing (R331). MSG_SLOT joins a connected Rack
of this link with room, or waits while the Rack cannot move (R195), and any other is discarded (R196, R198). On a link that
is not in service nothing happens. -/
def Obligations.meridian_messages : Prop :=
  ∀ (l : Fin 4) (m : MerMsg) (s : State), s.wf = true → Defined s →
    (inService s l.val = false → exec (.msgRd l m) s = .next s ∧ exec (.msgWrf l m) s = .next s ∧ exec (.msgWrm l m) s = .next s ∧
      exec (.msgSlot l m) s = .next s ∧
      (s.mer.finals = [] → exec (.msgRdc l m) s = .next s ∧ exec (.msgWra l m) s = .next s)) ∧
    (inService s l.val = true →
      (∀ c q : _, ∀ n : Nat, (c = Instr.msgRd l m ∧ q = { m with op := .rd } ∧ n = 1) ∨
          (c = Instr.msgWrf l m ∧ q = { m with op := .wrf } ∧ n = 5) ∨ (c = Instr.msgWrm l m ∧ q = { m with op := .wrm } ∧ n = 6) →
        ∀ v : State, v = returnCredits l.val n 0 0 [] s →
        (m.addr / 2 ^ 37 % 8 ≠ s.home → (∀ k, routeLink s (m.addr / 2 ^ 37 % 8) m.addr = some k → exec c s = .next { s with
            fab := { s.fab with reqs := s.fab.reqs ++ [⟨16 + k, classIn 16 m.cls, 16, ((m.deadline * 1000 : Nat) : Int), s.epoch,
              16 * n, false, .message k q (some l.val)⟩] } }) ∧
          (routeLink s (m.addr / 2 ^ 37 % 8) m.addr = none → exec c s = .next (answerRemote q 16 2 [] false v))) ∧
        (m.addr / 2 ^ 37 % 8 = s.home → fillsPool s q = true → ∃ t, exec c s = .next t ∧
          t.mem.dram = spWriteAll 0 (m.addr % 2 ^ 37 / 64 * 64) m.data s.mem.dram ∧ t.mem.pantry = s.mem.pantry ∧
          t = { s with
            regs := t.regs, flt := t.flt, fab := t.fab, mem := t.mem, mer := t.mer, port := t.port }) ∧
        (m.addr / 2 ^ 37 % 8 = s.home → fillsPool s q = false → guestOf s m = none → ∃ t, exec c s = .next t ∧
          t.fget Fld.MER_DENY_COUNT = (s.fget Fld.MER_DENY_COUNT + 1) % 2 ^ 32 ∧
          t.fget (Fld.FLT_COUNT_COUNT 1) = (s.fget (Fld.FLT_COUNT_COUNT 1) + 1) % 2 ^ 32 ∧
          regsBut (Reg.MER_DENY :: fltRegs 1) s t ∧
          PortEvent.flit l.val (creditFlit (s.mlink l.val).rx n 0 0 []) ∈ t.port ∧
          (∀ k, routeLink s m.srcHome m.addr = some k → ∃ r, t.fab.reqs = s.fab.reqs ++ [r] ∧ r.target = 16 + k ∧
            ∃ a, r.op = .message k a none ∧ a.status = 1 ∧ a.tag = m.tag ∧ a.srcHome = m.srcHome ∧
              a.op = if n = 1 then .rdc else .wra) ∧
          t = { s with flt := t.flt, regs := t.regs, fab := t.fab, port := t.port, mer := t.mer }) ∧
        (∀ g x y, m.addr / 2 ^ 37 % 8 = s.home → fillsPool s q = false → guestOf s m = some g →
          y = g.proxy + (m.master - g.first) →
          routeOf s (Who.guest s q y) (decide (n ≠ 1)) (m.addr / 64 * 64) 64 = .target x →
          exec c s = .next { s with fab := { s.fab with reqs := s.fab.reqs ++ [⟨x, classIn (groupOf g.bakery) m.cls, groupOf g.bakery,
            resolveUs s m.deadline, s.epoch, 64, false, .guest l.val q y⟩] } })) ∧
      (s.mer.finals = [] → ∀ c q : _, ∀ n : Nat, (c = Instr.msgRdc l m ∧ q = { m with op := .rdc } ∧ n = 5) ∨
          (c = Instr.msgWra l m ∧ q = { m with op := .wra, data := [] } ∧ n = 1) →
        ∀ u : State, u = returnCredits l.val 0 n 0 [] s →
        (∀ k, m.srcHome % 8 ≠ s.home → routeLink s m.srcHome m.addr = some k → exec c s = .next { u with
          fab := { u.fab with reqs := u.fab.reqs ++ [⟨16 + k, classIn 16 m.cls, 16, ((m.deadline * 1000 : Nat) : Int), s.epoch,
            16 * n, false, .message k q none⟩] } }) ∧
        (m.srcHome % 8 = s.home → s.mem.remote.find? (fun r => r.tag == m.tag) = none → exec c s = .next u) ∧
        (∀ r, m.srcHome % 8 = s.home → s.mem.remote.find? (fun r => r.tag == m.tag) = some r →
          exec c s = .next (settleFinals (resolveOp r.op (completionResult r q)
            { u with mem := { u.mem with remote := u.mem.remote.filter fun y => y != r } })))) ∧
      (∀ fits : Rack → Prop, fits = (fun r => r.connected = true ∧ r.cons.isSome = true ∧ r.prod = none ∧ r.link = l.val ∧
          r.slots.length + r.landed.length < r.effDepth + r.pre) →
        ((∀ r, s.rack? m.addr = some r → ¬ fits r) → exec (.msgSlot l m) s = .next s) ∧
        (∀ r x, s.rack? m.addr = some r → fits r → r.bakery < 16 → spWf (fun _ => Bakery.none) s.fab.baks = true →
          x = (⟨(m.data ++ List.replicate (32 - m.data.length) 0).take 32, m.frameEnd, m.poison, m.user % 0x4000⟩ : RSlot) →
          ∃ t, exec (.msgSlot l m) s = .next t ∧ (∀ k, k ≠ m.addr → t.rack? k = s.rack? k) ∧
          t = { s with fab := t.fab, regs := t.regs } ∧ regsBut [Reg.FAB_STALL] s t ∧
          (rackPowered s r = true → (t.rack? m.addr).map (·.slots) = some (r.slots ++ [x]) ∧
            (t.bakery r.bakery).lastMove = s.epoch ∧ (t.fget Fld.FAB_STALL_STALLED).testBit r.bakery = false) ∧
          (rackPowered s r = false → t.rack? m.addr = some { r with landed := r.landed ++ [x] } ∧ t.regs = s.regs))))

/-- MSG_ROUTE_ANNOUNCE on a link whose Rise has not begun here is kept, with the peer's Epoch, and joins no route; on an
installed link it adds the link to the live mask of each announced home that declares it (R324, R336). MSG_WITHDRAWAL of
homes that no live mask routes over the link only strikes them from what the peer announced (R343); one that empties a
home's live mask loses that Star. MER_RISE on a TRAINED link announces this Star's routes and its Epoch, at once or once the
link can send it, and its Rise is under way; on any other link it only writes its register (R336). Each message returns its
units to CTL; how many a CTL message takes is the model's choice (log entry 17). -/
def Obligations.routes_announced_and_withdrawn : Prop :=
  ∀ (l : Fin 4) (homes : BitVec 8) (d : Int) (s : State), s.wf = true → Defined s →
    spWf (fun _ => MLink.reset) s.mer.links = true → ∀ u : State, u = returnCredits l.val 0 0 2 [] s →
    (inService s l.val = false → exec (.msgRouteAnnounce l homes d) s = .next s ∧ exec (.msgWithdrawal l homes) s = .next s) ∧
    (inService s l.val = true → (s.mlink l.val).installed = false → (s.mlink l.val).rising = false → ∃ t,
      exec (.msgRouteAnnounce l homes d) s = .next t ∧ t = { u with mer := t.mer } ∧
      (t.mlink l.val).said = some ((match (s.mlink l.val).said with | some (m, _) => m | none => 0) ||| homes.toNat, d)) ∧
    (inService s l.val = true → (s.mlink l.val).installed = true → ∃ t, exec (.msgRouteAnnounce l homes d) s = .next t ∧
      (∀ h, h < 8 → liveMask t h = if h ≠ s.home ∧ homes.toNat.testBit h = true ∧
        (s.fget (Fld.MER_ROUTE_DECLARED h)).testBit l.val = true then putBit l.val true (liveMask s h) else liveMask s h) ∧
      t.mem.dram = s.mem.dram ∧ t = { s with regs := t.regs, mem := t.mem, mer := t.mer, port := t.port }) ∧
    (inService s l.val = true → s.mer.finals = [] → (∀ h, h < 8 → homes.toNat.testBit h = true → (liveMask s h).testBit l.val = false) →
      exec (.msgWithdrawal l homes) s = .next (syncReach (onLink l.val (fun k => { k with
        said := k.said.map fun e => (e.1 - (e.1 &&& homes.toNat), e.2) }) u))) ∧
    (inService s l.val = true → ∃ t, exec (.msgWithdrawal l homes) s = .next t ∧
      (∀ h, h < 8 → homes.toNat.testBit h = true → (liveMask t h).testBit l.val = false) ∧ t = { s with
        regs := t.regs, flt := t.flt, pcie := t.pcie, fab := t.fab, ovens := t.ovens, mem := t.mem, ctx := t.ctx, mer := t.mer
        port := t.port, freeCtr := t.freeCtr }) ∧
    (∀ f seq, HostGranted s f Reg.MER_RISE → ∀ v : State, v = (s.fset Fld.MER_RISE_LINK l.val).fset Fld.MER_RISE_SEQ seq.toNat →
      ∀ m, m = { blankMsg s .ctl with ctlKind := ctlAnnounce, ctl := [homeMask (announced s), s.epoch] } →
      (linkState s l.val ≠ 4 ∨ (s.mlink l.val).rising = true → exec (.rise f l seq) s = .next v) ∧
      (linkState s l.val = 4 → (s.mlink l.val).rising = false → (s.mlink l.val).said = none →
        ∃ t, exec (.rise f l seq) s = .next t ∧ (t.mlink l.val).rising = true ∧
          t = { s with mer := t.mer, regs := t.regs, port := t.port } ∧
          ((s.mlink l.val).ctlQ = [] → canSend s l.val m = true →
            PortEvent.flit l.val (msgFlit (s.mlink l.val) m) ∈ t.port ∧ (t.mlink l.val).ctlQ = []) ∧
          ((s.mlink l.val).ctlQ ≠ [] ∨ canSend s l.val m = false →
            (t.mlink l.val).ctlQ = (s.mlink l.val).ctlQ ++ [m] ∧ t.port = s.port)))

/-- A neighbour's announcement after this Star's own joins the link to its routes, and one Star's Epoch steps (R332): when
exactly one of the two routes another Star, the other one; else the one of the higher home ID; MER_EPOCH_STEP records it.
RISE_COMPLETE connects the cross-link Racks of the link at the smaller depth, makes the link ACTIVE, ends the writes of
Zenith that wait for it, and returns SET_STATE to none (R336, R339); on a link whose Rise is not that far, nothing.
EPOCH_SLEW, once a millisecond, moves the Epoch of a Star that is not the time root by at most 200 ns, and a microsecond
boundary it passes is counted (R333). -/
def Obligations.rise_and_one_epoch : Prop :=
  ∀ (l : Fin 4) (s : State), s.wf = true → Defined s → spWf (fun _ => MLink.reset) s.mer.links = true →
    (∀ (homes : BitVec 8) (d : Int) (all : Nat) (mine theirs steps : Prop), inService s l.val = true →
      (s.mlink l.val).installed = false → (s.mlink l.val).rising = true →
      all = (match (s.mlink l.val).said with | some (m, _) => m | none => 0) ||| homes.toNat →
      mine = (∃ h, h < 8 ∧ h ≠ s.home ∧ liveMask s h ≠ 0) → theirs = (∃ h, h ≠ peerHomeOf s l.val ∧ all.testBit h = true) →
      steps = (((mine ↔ theirs) ∧ peerHomeOf s l.val < s.home) ∨ (¬ mine ∧ theirs)) → ∃ t,
      exec (.msgRouteAnnounce l homes d) s = .next t ∧ (t.mlink l.val).installed = true ∧
      (∀ h, h < 8 → liveMask t h = if h ≠ s.home ∧ all.testBit h = true ∧
        (s.fget (Fld.MER_ROUTE_DECLARED h)).testBit l.val = true then putBit l.val true (liveMask s h) else liveMask s h) ∧
      (steps →
        t.epoch = ((s.epoch : Int) + d).toNat ∧ t.reg Reg.MER_EPOCH_STEP = BitVec.ofInt 32 (max (-2147483648) (min 2147483647 d))) ∧
      (¬ steps → t.epoch = s.epoch) ∧ t = { s with
        epoch := t.epoch, regs := t.regs, fab := t.fab, mem := t.mem, ctx := t.ctx, str := t.str, mer := t.mer, vid := t.vid
        port := t.port }) ∧
    (∀ depths, (linkState s l.val ≠ 4 ∨ (s.mlink l.val).rising = false ∨ (s.mlink l.val).installed = false) →
      exec (.riseComplete l depths) s = .next s) ∧
    (∀ depths, linkState s l.val = 4 → (s.mlink l.val).rising = true → (s.mlink l.val).installed = true → ∃ t,
      exec (.riseComplete l depths) s = .next t ∧ linkState t l.val = 5 ∧ (t.mlink l.val).rising = false ∧
      (∀ k r, s.rack? k = some r → rackRemote r = true → r.link = l.val →
        t.rack? k = some (connectRack ((depths.lookup k).getD r.depth) r) ∧
        ((t.rack? k).map (·.effDepth)) = some (min r.depth ((depths.lookup k).getD r.depth)) ∧
        ((t.rack? k).map (·.connected)) = some true) ∧
      (∀ k r, s.rack? k = some r → (rackRemote r = false ∨ r.link ≠ l.val) → t.rack? k = some r) ∧
      (s.fget Fld.MER_STATUS_SET_STATE = 2 → t.fget Fld.MER_STATUS_SET_STATE = 0) ∧
      (s.fget Fld.MER_STATUS_SET_STATE ≠ 2 → t.fget Fld.MER_STATUS_SET_STATE = s.fget Fld.MER_STATUS_SET_STATE) ∧
      (∀ i z, i < 8 → s.zen.insts.getD i none = some z → t.zen.insts.getD i none =
        some (if z.write = .rise l.val then { z with inst := z.inst.arrive 4, write := .none } else z)) ∧
      t = { s with regs := t.regs, zen := { s.zen with insts := t.zen.insts }, pcie := t.pcie, fab := { s.fab with racks := t.fab.racks }, mer := t.mer, port := t.port }) ∧
    (∀ (d : Int) (others : Prop) (due : Prop), others = (∃ h, h < 8 ∧ h ≠ s.home ∧ liveMask s h ≠ 0) →
      due = (∀ x, s.mer.slewAt = some x → x + 1000000 ≤ s.mono) →
      ((s.fget Fld.MER_STATUS_TIME_ROOT = s.home ∨ ¬ others ∨ ¬ due) → exec (.epochSlew d) s = .next s) ∧
      (s.fget Fld.MER_STATUS_TIME_ROOT ≠ s.home → others → due → ∃ t, exec (.epochSlew d) s = .next t ∧
        t.epoch = ((s.epoch : Int) + max (-200) (min 200 d)).toNat ∧ t.mer = { s.mer with slewAt := some s.mono } ∧
        (s.epoch / 1000 = t.epoch / 1000 → t = { s with epoch := t.epoch, mer := t.mer }) ∧
        (s.epoch / 1000 < t.epoch / 1000 → t.usCount = s.usCount + 1) ∧
        (t.epoch / 1000 < s.epoch / 1000 → t = { s with epoch := t.epoch, mer := t.mer, usCount := s.usCount - 1 }) ∧
        t = { s with epoch := t.epoch, usCount := t.usCount, regs := t.regs, fab := t.fab, mer := t.mer, pace := t.pace }))

/-- MER_SET.GO starts a Set where none runs and none has completed: SET_STATE is running, and the Set offers this Star's own
Homed windows to the other Stars, or awaits their answers to SET_FINAL at once without windows; elsewhere it is ignored
(R339, R340). SET_WINDOW_COPIED of an accepted window that has reached the accepting Star has every other Star told, and
awaits their acknowledgements. SET_COMPLETE of a final Set that all have acknowledged writes MER_SET_DONE, empties every
live mask, takes every link that is not DISABLED to LEFT and ends the writes of Zenith that wait for it. Where no window is
accepted and copied, or no Set is final and acknowledged, nothing happens. -/
def Obligations.set_of_this_star : Prop :=
  ∀ (s : State), s.wf = true → Defined s →
    (∀ f seq, HostGranted s f Reg.MER_SET → ∀ x : SetState, x = ⟨seq.toNat, setWindows s, others s, none, 0, [], false, 0, 0, .offer⟩ →
      (s.fget Fld.MER_STATUS_SET_STATE ≠ 0 → exec (.setGo f seq) s = .next s) ∧
      (s.fget Fld.MER_STATUS_SET_STATE = 0 → ∃ t, exec (.setGo f seq) s = .next t ∧ t.fget Fld.MER_STATUS_SET_STATE = 1 ∧
        (others s ≠ [] → setWindows s ≠ [] → t.mer.set = some x) ∧
        (setWindows s = [] → t.mer.set = some { x with stage := .final, acks := others s }) ∧
        (others s ≠ [] ∨ setWindows s = [] → t = { s with mer := t.mer, regs := t.regs, port := t.port }))) ∧
    ((∀ x, s.mer.set = some x → x.wins = [] ∨ x.accepted = none ∨ x.stage ≠ .copy) → exec .setWindowCopied s = .next s) ∧
    (∀ x w ws h addr win, s.mer.set = some x → x.wins = w :: ws → x.accepted = some (h, addr) → x.stage = .copy →
      win = spGet noWindow s.mem.wins w →
      (x.copied < win.size → exec .setWindowCopied s = .next s) ∧
      (win.size ≤ x.copied → others s ≠ [] → ∃ t, exec .setWindowCopied s = .next t ∧
        t.mer.set = some { x with stage := .relocate, acks := others s, anyDark := false } ∧
        t = { s with mer := t.mer, regs := t.regs, port := t.port })) ∧
    ((∀ x, s.mer.set = some x → x.stage ≠ .final ∨ x.acks ≠ []) → exec .setComplete s = .next s) ∧
    (∀ x, s.mer.set = some x → x.stage = .final → x.acks = [] → ∃ t, exec .setComplete s = .next t ∧ t.mer.set = none ∧
      t.fget Fld.MER_STATUS_SET_STATE = 2 ∧ t.fget Fld.MER_SET_DONE_RELOCATED = x.relocated % 256 ∧
      t.fget Fld.MER_SET_DONE_DARK = x.dark % 256 ∧ t.fget Fld.MER_SET_DONE_SEQ = x.seq % 65536 ∧ (∀ h, h < 8 → liveMask t h = 0) ∧
      (∀ k, k < 4 → linkState t k = if linkState s k = 0 then 0 else 7) ∧
      (∀ k r, t.rack? k = some r → rackRemote r = true → r.connected = false) ∧
      (∀ i z, i < 8 → s.zen.insts.getD i none = some z → t.zen.insts.getD i none =
        some (if z.write = .set then { z with inst := z.inst.arrive 4, write := .none } else z)) ∧ t = { s with
        regs := t.regs, zen := { s.zen with insts := t.zen.insts }, flt := t.flt, pcie := t.pcie, fab := t.fab, ovens := t.ovens
        mem := t.mem, ctx := t.ctx, mer := t.mer, port := t.port, freeCtr := t.freeCtr })

/-- A message of a Set on a link in service returns its units of CTL (how many it takes is the model's choice, log entry
17); one for another Star goes on along its route (R326). Here: SET_NOTICE changes nothing. An offer takes the first free
aligned range of a pool, inside it and apart from every range taken, and answers its address, or is declined; an acceptance
by the Star that was asked begins the copy, and the window's writes are held; a decline passes the offer on, and once every
Star has declined the window is to be dark on all (R340). A relocation is installed and acknowledged, or left dark where it
is the 65th; once the last Star has acknowledged one that no Star left dark, it is installed on this Star, the held writes
leave, and the Set goes on. SET_FINAL waits for this Star's requests to the leaving Star; then its Striped windows are dark,
its Racks disconnected, its route gone. -/
def Obligations.messages_of_a_set : Prop :=
  ∀ (l : Fin 4) (s : State), s.wf = true → Defined s → ∀ u : Nat → State, u = (fun n => returnCredits l.val 0 0 n [] s) →
    (inService s l.val = false → (∀ d x, exec (.msgSetNotice l d x) s = .next s) ∧ (∀ d x, exec (.msgSetOffer l d x) s = .next s) ∧
      (∀ d b n a, exec (.msgRelocation l d b n a) s = .next s) ∧ (∀ d x, exec (.msgSetFinal l d x) s = .next s)) ∧
    (inService s l.val = true → ∀ dest : Fin 8, dest.val ≠ s.home →
      (∀ x, exec (.msgSetNotice l dest x) s = .next (setMsg dest.val ctlNotice [x.val] (u 2))) ∧
      (∀ v b n, exec (.msgSetOffer l dest (.offer v b n)) s = .next (setMsg dest.val ctlOffer [v, b, n] (u 3))) ∧
      (∀ h a, exec (.msgSetOffer l dest (.accept h a)) s = .next (setMsg dest.val ctlAnswer [h, a] (u 3))) ∧
      (∀ h, exec (.msgSetOffer l dest (.decline h)) s = .next (setMsg dest.val ctlAnswer [h] (u 2))) ∧
      (∀ h k, exec (.msgSetOffer l dest (.relocated h k)) s = .next (setMsg dest.val ctlAck [h, if k = true then 1 else 0] (u 3))) ∧
      (∀ h, exec (.msgSetOffer l dest (.done h)) s = .next (setMsg dest.val ctlDone [h] (u 2))) ∧
      (∀ b n a, exec (.msgRelocation l dest b n a) s = .next (setMsg dest.val ctlRelocate (b :: n :: a.toList) (u 3))) ∧
      (∀ x, exec (.msgSetFinal l dest x) s = .next (setMsg dest.val ctlFinal [x.val] (u 2)))) ∧
    (inService s l.val = true → ∀ dest : Fin 8, dest.val = s.home →
      (∀ x, exec (.msgSetNotice l dest x) s = .next (u 2)) ∧
      (∀ v b n, poolFor n 0 s.mer.pools = none → exec (.msgSetOffer l dest (.offer v b n)) s = .next (setMsg v ctlAnswer [s.home] (u 3))) ∧
      (∀ v b n k off, poolFor n 0 s.mer.pools = some (k, off) → ∃ p, s.mer.pools[k]? = some p ∧
        off % 4096 = 0 ∧ off + n ≤ p.size ∧ (∀ y ∈ p.used, ¬ (y.1 < off + n ∧ off < y.1 + y.2)) ∧
        exec (.msgSetOffer l dest (.offer v b n)) s = .next (setMsg v ctlAnswer [s.home, s.home * 2 ^ 37 + p.base + off]
          { u 3 with mer := { (u 3).mer with pools := s.mer.pools.modify k fun p => { p with used := p.used ++ [(off, n)] } } })) ∧
      (∀ x w ws h addr win, s.mer.set = some x → x.wins = w :: ws → win = spGet noWindow s.mem.wins w → 0 < win.size →
        ((x.stage ≠ .offer ∨ x.asking.head? ≠ some h) → exec (.msgSetOffer l dest (.accept h addr)) s = .next (u 3)) ∧
        (x.stage = .offer → x.asking.head? = some h → exec (.msgSetOffer l dest (.accept h addr)) s = .next { u 3 with
          mer := { (u 3).mer with set := some { x with accepted := some (h, addr), copied := 0, stage := .copy } }
          mem := { s.mem with holding := some (win.base, win.size) }
          fab := { s.fab with
            reqs := s.fab.reqs ++ [⟨channelOf (win.base % 2 ^ 37), 1, 16, 0, s.epoch, 64, false, .setCopy 0⟩] } })) ∧
      (∀ x h, s.mer.set = some x → (x.stage ≠ .offer ∨ x.asking.head? ≠ some h) →
        exec (.msgSetOffer l dest (.decline h)) s = .next (u 2)) ∧
      (∀ x w ws h as, s.mer.set = some x → x.wins = w :: ws → x.stage = .offer → x.asking = h :: as → x.acks = [] → others s ≠ [] →
        ∃ t, exec (.msgSetOffer l dest (.decline h)) s = .next t ∧ t = { s with mer := t.mer, regs := t.regs, port := t.port } ∧
          t.mer.set = some (if as = [] then { x with
            asking := [], accepted := none, stage := .dark, acks := others s, anyDark := false } else { x with asking := as })) ∧
      (∀ x h k, s.mer.set = some x → (x.acks.contains h = false → exec (.msgSetOffer l dest (.relocated h k)) s = .next (u 3) ∧
          exec (.msgSetOffer l dest (.done h)) s = .next (u 2)) ∧
        (x.acks.contains h = true → x.acks.filter (fun y => y != h) ≠ [] →
          (∃ t, exec (.msgSetOffer l dest (.relocated h k)) s = .next t ∧
            t.mer.set = some { x with acks := x.acks.filter (fun y => y != h), anyDark := x.anyDark || k } ∧
            t = { u 3 with mer := t.mer }) ∧
          ∃ t, exec (.msgSetOffer l dest (.done h)) s = .next t ∧
            t.mer.set = some { x with acks := x.acks.filter fun y => y != h } ∧ t = { u 2 with mer := t.mer })) ∧
      (∀ x w v ws h a addr win, s.mer.set = some x → x.wins = w :: v :: ws → x.stage = .relocate → x.accepted = some (a, addr) →
        x.acks = [h] → x.anyDark = false → win = spGet noWindow s.mem.wins w → relocsFull s win.base = false → others s ≠ [] → ∃ t,
        exec (.msgSetOffer l dest (.relocated h false)) s = .next t ∧ t.mem.holding = none ∧ t.mem.held = [] ∧
        t.mem.relocs = s.mem.relocs.filter (fun r => r.1 != win.base) ++ [(win.base, win.size, some addr)] ∧
        t.mer.set = some { x with
          wins := v :: ws
          asking := others s
          accepted := none
          copied := 0
          acks := []
          stage := .offer
          relocated := x.relocated + 1 }) ∧
      (∀ b n a full, full = (decide (a ≠ none) && relocsFull s b) → ∃ t, exec (.msgRelocation l dest b n a) s = .next t ∧
        t.mem.relocs = s.mem.relocs.filter (fun r => r.1 != b) ++ [(b, n, if full = true then none else a)] ∧
        t.mem.dram = s.mem.dram ∧ t = { s with mem := t.mem, mer := t.mer, regs := t.regs, port := t.port }) ∧
      (∀ x : Fin 8, s.mer.finals = [] → (waitingOn s x.val = true →
          exec (.msgSetFinal l dest x) s = .next { u 2 with mer := { (u 2).mer with finals := [x.val] } }) ∧
        (waitingOn s x.val = false → ∃ t, exec (.msgSetFinal l dest x) s = .next t ∧ liveMask t x.val = 0 ∧ t.mer.finals = [] ∧
          (∀ e ∈ t.mem.wins, e.2.kind = 1 → e.2.members.testBit x.val = true → e.2.dark = true) ∧
          (∀ e ∈ t.fab.racks, rackRemote e.2 = true → e.2.remoteHome = x.val → e.2.connected = false) ∧
          t.mem.dram = s.mem.dram ∧
          t = { s with regs := t.regs, fab := t.fab, mem := t.mem, ctx := t.ctx, mer := t.mer, port := t.port })))

/-- A boundary starts a tick unless transactions of an earlier one run (R58). PACE_TICK takes the tick started: every
powered Sentinel is sampled, throttling begins at 100 °C and ends at 98 °C (R75), waiting acknowledgements take effect
(R84), and the tick's transactions are set out (R72, R74); otherwise nothing. AVS_ATTEMPT_DONE: a failed attempt counts and
is tried again up to 3 times, an accepted write gives V_now, a current reading the next command, and the third consecutive
failing tick REG_FAULT (R74). A command lies on the grid or is V_now, at most 25 mV above and 10 mV below it (R70).
RISE_CUT_WINDOW at the end of a window changes RISE_CUT as R78 says. -/
def Obligations.pace_ticks_and_transactions : Prop :=
  ∀ (s : State), s.wf = true → Defined s →
    (s.on 158 = true → s.epoch / 1000 % 100 = 0 → s.epoch / 100000 ≠ s.pace.tickAt →
      paceBoundary s = { s with pace := { s.pace with
        tickAt := s.epoch / 100000, bounds := s.pace.bounds + 1, due := s.pace.txq.isEmpty } }) ∧
    (∀ sent crust, (s.on 158 = false ∨ s.pace.due = false) →
      exec (.paceTick sent crust) s = .next s) ∧
    (∀ sent crust, s.on 158 = true → s.pace.due = true → ∃ t,
      exec (.paceTick sent crust) s = .next t ∧ t.pace.due = false ∧ t.pace.ticks = s.pace.ticks + 1 ∧
      t.pace.acks = [] ∧ t.pace.vNow = s.pace.vNow ∧ t.pace.txq = (if s.pwr.pins.hearthEn = false then []
        else if s.pace.vNow = none then [.readV]
        else if (s.pace.ticks + 1) % 10 = 0 then [.readI, .readV, .readT, .readS] else [.readI, .readV]) ∧
      (∀ n, n < 48 → s.on n = true → t.fget (Fld.PACE_SENT_RATE n) = min 4095 (sent.getD n (0, 0)).1 ∧
        t.fget (Fld.PACE_SENT_TEMP n) = min 1023 (sent.getD n (0, 0)).2 ∧ t.fget (Fld.PACE_SENT_VALID n) = 1 ∧
        min 1023 (sent.getD n (0, 0)).2 ≤ t.fget Fld.PACE_TEMP_TJ_MAX) ∧
      (∀ n, n < 48 → s.on n = false → t.reg (Reg.PACE_SENT n) = 0) ∧
      (∀ i, i < 4 → min 1023 (crust.getD i 0) ≤ t.fget Fld.PACE_TEMP_TJ_MAX) ∧
      t.pace.throttling = (if s.pace.throttling = true then decide (392 < t.fget Fld.PACE_TEMP_TJ_MAX)
        else decide (400 ≤ t.fget Fld.PACE_TEMP_TJ_MAX)) ∧
      t = { s with pace := t.pace, orb := t.orb, regs := t.regs, pcie := t.pcie, port := t.port }) ∧
    (∀ good data, (s.on 158 = false ∨ s.pace.txq = []) → exec (.avsAttemptDone good data) s = .next s) ∧
    (∀ x rest, s.on 158 = true → s.pace.txq = x :: rest → ∀ data : BitVec 16,
      (s.pace.tried < 3 → exec (.avsAttemptDone false data) s = .next (State.out (.avs s.pace.snap.rail x.code.1 x.code.2)
        { s.fsat Fld.PACE_REGSTAT_FAIL_CNT with pace := { s.pace with tried := s.pace.tried + 1 } })) ∧
      (3 ≤ s.pace.tried → x ≠ .readI → ∃ t, exec (.avsAttemptDone false data) s = .next t ∧ t.pace.txq = rest ∧
        t.pace.failed = true ∧ t.pace.vNow = s.pace.vNow ∧ t.pwr = s.pwr ∧
        (rest = [] → s.pace.counts = true → 2 ≤ s.pace.failing → t.pace.hold = true ∧ t.fget Fld.PACE_STATUS_REG_FAULT = 1)) ∧
      (∀ mv, x = .writeV mv → ∃ t, exec (.avsAttemptDone true data) s = .next t ∧ t.pace.vNow = some mv ∧
        t.fget Fld.PACE_VOLT_VCMD = mv % 65536 ∧ t.pace.txq = rest ∧ t.pwr = s.pwr) ∧
      (∀ vn v why, x = .readI → s.pace.hold = false → s.pace.vNow = some vn →
        (v, why) = paceCommand { s.pace with products := ((vn * data.toNat) :: s.pace.products).take 10 } vn → ∃ t,
        exec (.avsAttemptDone true data) s = .next t ∧ t.pace.products = ((vn * data.toNat) :: s.pace.products).take 10 ∧
        t.pace.txq = (if v = vn then rest else .writeV v :: rest) ∧ t.pace.vNow = some vn ∧ t.pwr = s.pwr) ∧
      (x = .readV → ∃ t, exec (.avsAttemptDone true data) s = .next t ∧ t.fget Fld.PACE_VOLT_VREAD = data.toNat ∧
        t.pace.txq = rest ∧ t.pwr.vok = (s.pwr.vok || decide (600 ≤ data.toNat)) ∧
        ((s.pace.vNow = none ∨ s.pace.hold = true) → t.pace.vNow = some data.toNat) ∧
        (s.pace.vNow ≠ none → s.pace.hold = false → t.pace.vNow = s.pace.vNow))) ∧
    (∀ vn v why, 600 ≤ vn → vn ≤ 900 → (v, why) = paceCommand s.pace vn →
      600 ≤ v ∧ v ≤ 900 ∧ v ≤ vn + 25 ∧ vn ≤ v + 10 ∧ (s.pace.throttling = false → vn ≤ v + 5) ∧ (v = vn ∨ v % 5 = 0)) ∧
    ((s.on 158 = false ∨ s.pace.bounds < s.pace.winStart + 1000 ∨
      (s.pace.bounds = s.pace.winStart + 1000 ∧ s.pace.due = true)) → exec .riseCutWindow s = .next s) ∧
    (∀ first last cut : Nat, s.on 158 = true → s.pace.winStart + 1000 ≤ s.pace.bounds →
      (s.pace.due = true → s.pace.winStart + 1000 ≠ s.pace.bounds) → s.pace.winFirst = some first →
      last = s.pace.winLast → cut = s.fget Fld.PACE_COOL_RISE_CUT → ∃ t, exec .riseCutWindow s = .next t ∧
      t.pace.winStart = s.pace.winStart + 1000 ∧ t.pace.winFirst = none ∧
      (s.pace.winFull ≠ 0 ∧ first + 2 ≤ last →
        t.fget Fld.PACE_COOL_RISE_CUT = min 128 (cut + s.fget Fld.PACE_COOLCFG_RISE_STEP)) ∧
      (¬ (s.pace.winFull ≠ 0 ∧ first + 2 ≤ last) → (s.fget Fld.PACE_COOL_FULL_FANS = 0 ∨ last + 2 ≤ first) →
        t.fget Fld.PACE_COOL_RISE_CUT = cut - 1) ∧
      (¬ (s.pace.winFull ≠ 0 ∧ first + 2 ≤ last) → s.fget Fld.PACE_COOL_FULL_FANS ≠ 0 → first < last + 2 →
        t.fget Fld.PACE_COOL_RISE_CUT = cut) ∧ t = { s with pace := t.pace, regs := t.regs }) ∧
    (∀ f v, HostGranted s f Reg.PACE_EVT_ACK → exec (.paceEvtAck f v) s =
      .next { s with pace := { s.pace with acks := s.pace.acks ++ [v] } }) ∧
    ((paceLatch s).reg Reg.PACE_EVENTS = if s.reg Reg.PACE_EVT_SEQ ∈ s.pace.acks then 0 else s.reg Reg.PACE_EVENTS)

/-- A granted write of ORB_CMD to a channel that is not configured, or after THERMTRIP_N, does nothing. While the channel is
busy or a command waits, its POLICY queues it up to DEPTH, keeps only the latest, or drops it, and DROPS counts what is lost
(R525); the oldest one takes effect once the channel is not busy. At once: MANUAL from IDLE sets the target and starts with
OBSERVE (R514, R526); a command of the running direction changes the mode alone, one of the other brakes; STOP turns every
gate off in IDLE; CLEAR ends a fault (R527), and a channel not in fault takes no notice of it. -/
def Obligations.orbit_commands : Prop :=
  ∀ (c : Fin 4) (f : HostFn) (i : Instr) (cmd : OrbCmd) (s : State), s.wf = true → Defined s →
    (i = .orbAuto f c ∧ cmd = .auto) ∨ (∃ rpm : BitVec 16, i = .orbManual f c rpm ∧ cmd = .manual rpm.toInt) ∨
      (i = .orbStop f c ∧ cmd = .stop) ∨ (i = .orbClear f c ∧ cmd = .clear) →
    ∀ at_ : State → OrbChan → Prop, at_ = (fun t x => t.orb.chans.lookup c.val = some { x with full := x.atFull } ∧
      (∀ d, d ≠ c.val → t.orb.chans.lookup d = s.orb.chans.lookup d) ∧ t.orb.temps = s.orb.temps ∧
      t = { s with orb := t.orb, regs := t.regs, pcie := t.pcie, port := t.port }) →
    (HostGranted s f (Reg.ORB_CMD c.val) → (s.orb.chans.lookup c.val = none ∨ s.orb.tripped = true) → exec i s = .next s) ∧
    (HostGranted s f (Reg.ORB_CMD c.val) → s.orb.tripped = false → ∀ ch, s.orb.chans.lookup c.val = some ch →
      ((ch.busy = true ∨ ch.queue ≠ []) →
        (ch.cfg.policy = 0 → ch.queue.length < ch.cfg.depth → ∃ t, exec i s = .next t ∧ at_ t { ch with queue := ch.queue ++ [cmd] }) ∧
        (ch.cfg.policy = 0 → ch.cfg.depth ≤ ch.queue.length → exec i s = .next (s.fsat (Fld.ORB_DROPS_COUNT c.val))) ∧
        (ch.cfg.policy = 1 → ∃ t, exec i s = .next t ∧ at_ t { ch with queue := [cmd] } ∧ t.fget (Fld.ORB_DROPS_COUNT c.val) =
          if ch.queue = [] then s.fget (Fld.ORB_DROPS_COUNT c.val) else
            satInc ((Fld.ORB_DROPS_COUNT c.val).hi + 1 - (Fld.ORB_DROPS_COUNT c.val).lo) (s.fget (Fld.ORB_DROPS_COUNT c.val))) ∧
        (2 ≤ ch.cfg.policy → exec i s = .next (s.fsat (Fld.ORB_DROPS_COUNT c.val)))) ∧
      (ch.busy = false → ch.queue = [] → exec i s = .next (orbEffect c.val cmd ch s) ∧
        (∀ r : Int, cmd = .manual r → ch.st = 1 → r ≠ 0 → ∃ t, exec i s = .next t ∧
          (t.orb.chans.lookup c.val).map (·.st) = some 2 ∧ (t.orb.chans.lookup c.val).map (·.target) = some (10000 * r) ∧
          (t.orb.chans.lookup c.val).map (·.manual) = some true ∧
          t.fget (Fld.ORB_STARTS_COUNT c.val) = (s.fget (Fld.ORB_STARTS_COUNT c.val) + 1) % 2 ^ 32) ∧
        (∀ r : Int, cmd = .manual r → ch.running = true → (r = 0 ∨ (r < 0 ↔ ch.rev = true)) → ∃ t, exec i s = .next t ∧
          at_ t { ch with retries := 0, manual := true, want := r, stopped := false }) ∧
        (∀ r : Int, cmd = .manual r → ch.running = true → r ≠ 0 → ¬ (r < 0 ↔ ch.rev = true) → ∃ t, exec i s = .next t ∧
          (t.orb.chans.lookup c.val).map (·.st) = some 3 ∧ (t.orb.chans.lookup c.val).map (·.target) = some (10000 * r)) ∧
        (cmd = .stop → ch.running = true → ∃ t, exec i s = .next t ∧ (t.orb.chans.lookup c.val).map (·.st) = some 1 ∧
          (t.orb.chans.lookup c.val).map (·.target) = some 0 ∧ (t.orb.chans.lookup c.val).map (·.stopped) = some true ∧
          (t.orb.chans.lookup c.val).map (·.valid) = some 0) ∧
        (cmd = .clear → ch.inFault = false → exec i s = .next s) ∧
        (cmd = .clear → ch.inFault = true → ∃ t, exec i s = .next t ∧
          (t.orb.chans.lookup c.val).map (·.inFault) = some false ∧ (t.orb.chans.lookup c.val).map (·.retries) = some 0 ∧
          (ch.st = 9 → ch.target = 0 → (t.orb.chans.lookup c.val).map (·.st) = some 1) ∧
          (ch.st = 9 → ch.target ≠ 0 → (t.orb.chans.lookup c.val).map (·.st) = some 2)))) ∧
    (∀ ch, s.orb.chans.lookup c.val = some ch → (s.on 157 = false ∨ s.orb.tripped = true ∨ ch.queue = [] ∨ ch.busy = true) →
      exec (.orbPendingCommand c) s = .next s) ∧
    (∀ ch q qs, s.orb.chans.lookup c.val = some ch → s.on 157 = true → s.orb.tripped = false → ch.queue = q :: qs → ch.busy = false →
      exec (.orbPendingCommand c) s = .next (orbEffect c.val q { ch with queue := qs } (setOrb c.val { ch with queue := qs } s)))

/-- Every event of a channel that is not configured, while ORBIT is not ON, or after THERMTRIP_N, does nothing; so does one
whose moment or state has not come. OBSERVE ends in POSITION, in RUN for a fan that turns the right way fast enough, in BRAKE,
or after three of those in a fault (R516); BRAKE ends in OBSERVE; a test pulse trips above the
threshold that POS_CODE sets (R504, R517); POSITION ends in RAMP, or in ALIGN where the pulses are ambiguous
(R518), and ALIGN in RAMP; the ramp commutates at its forced steps and fails after 500 ms (R519). In RUN, crossings,
commutations, the speed loop every 10 ms, the loss of synchronisation and lapsing measurements act as R511 to R523 say. -/
def Obligations.orbit_sequences : Prop :=
  ∀ (c : Fin 4) (s : State), s.wf = true → Defined s →
    ∀ at_ : State → OrbChan → Prop, at_ = (fun t x => t.orb.chans.lookup c.val = some { x with full := x.atFull } ∧
      (∀ d, d ≠ c.val → t.orb.chans.lookup d = s.orb.chans.lookup d) ∧ t.orb.temps = s.orb.temps ∧
      t = { s with orb := t.orb, regs := t.regs, pcie := t.pcie, port := t.port }) →
    ((s.orb.chans.lookup c.val = none ∨ s.on 157 = false ∨ s.orb.tripped = true) → ∀ i,
      ((∃ b a, i = .observeTransition c b a) ∨ i = .observeEnd c ∨ i = .brakeEnd c ∨ (∃ x, i = .positionDone c x) ∨ i = .alignEnd c ∨
        i = .rampCommutation c ∨ i = .rampFail c ∨ (∃ a b, i = .zeroCrossing c a b) ∨ i = .commutation c ∨ i = .syncLoss c ∨
        (∃ v, i = .ocTrip c v) ∨ i = .overcurrent c ∨ (∃ v, i = .short c v) ∨ i = .faultRetry c ∨ i = .speedLoopUpdate c ∨ i = .measurementLapse c ∨
        i = .faultEnd c) → exec i s = .next s) ∧
    (∀ ch, s.orb.chans.lookup c.val = some ch → s.on 157 = true → s.orb.tripped = false →
      ∀ (p : OrbStart) (t0 ms : Nat), p = ch.cfg.start → t0 = s.mono → ms = 1000000 →
      (∀ b a, (ch.coasting = false → exec (.observeTransition c b a) s = .next s) ∧ (ch.coasting = true → ∃ t,
        exec (.observeTransition c b a) s = .next t ∧
        at_ t (obsTransition (phasePattern ch.cfg.dir b) (phasePattern ch.cfg.dir a) t0 ch))) ∧
      (ch.st ≠ 2 ∨ t0 < ch.since + p.observeMs * ms → exec (.observeEnd c) s = .next s) ∧
      (ch.st = 2 → ch.since + p.observeMs * ms ≤ t0 → ∀ good : Prop, good = ((ch.valid = 3 ↔ ch.target < 0) ∧
          15 * ch.cfg.sMax ≤ 100 * ch.speed.natAbs) → ∃ t, exec (.observeEnd c) s = .next t ∧
        (ch.valid < 3 → at_ t { ch.stopReport.enter 4 t0 with brakes := 0 }) ∧
        (3 ≤ ch.valid → good → at_ t (OrbChan.run t0 (catchDemand ch.cfg ch.speed.natAbs) { ch with rev := decide (ch.target < 0) })) ∧
        (3 ≤ ch.valid → ¬ good → ch.brakes < 3 → at_ t (ch.brake t0)) ∧
        (3 ≤ ch.valid → ¬ good → 3 ≤ ch.brakes → at_ t { ch.enter 9 t0 with fault := 1, inFault := true, losses := [] } ∧
          t.fget (Fld.ORB_FAULTS_COUNT c.val) = (s.fget (Fld.ORB_FAULTS_COUNT c.val) + 1) % 2 ^ 32)) ∧
      (ch.st ≠ 3 ∨ t0 < ch.since + p.brakeMs * ms → exec (.brakeEnd c) s = .next s) ∧
      (ch.st = 3 → ch.since + p.brakeMs * ms ≤ t0 → ∃ t, exec (.brakeEnd c) s = .next t ∧ at_ t ((ch.off t0).enter 2 t0)) ∧
      (ch.st = 4 → ∀ (trips : List (Option (Nat × Nat))) k x v, k < (if p.refine = true then 12 else 6) →
        (trips[k]? = some (some (x, v)) → x < p.pulseUs * 1000 → ch.cfg.posCode * 300000 < 63 * v →
          (pulses ch trips)[k]? = some (x, true)) ∧
        (trips[k]? = some (some (x, v)) → 63 * v < ch.cfg.posCode * 300000 → (pulses ch trips)[k]? = some (p.pulseUs * 1000, false)) ∧
        (trips[k]? = some none → (pulses ch trips)[k]? = some (p.pulseUs * 1000, false))) ∧
      (∀ trips ps lo hi i, ps = pulses ch trips → i = shortest ps → lo = (ps.getD i (0, false)).1 → hi = ps.foldl (fun m p => max m p.1) 0 →
        (ch.st ≠ 4 ∨ t0 < ch.since + 4 * (ps.map (·.1)).sum → exec (.positionDone c trips) s = .next s) ∧
        (ch.st = 4 → ch.since + 4 * (ps.map (·.1)).sum ≤ t0 → ∀ amb : Prop, amb = ((ps.any (·.2)) = false ∨ (hi - lo) * 1000 < p.posDiff * hi) →
          ∀ r x, r = (if p.refine = true then i else 2 * i) → x = { ch with rev := decide (ch.target < 0), offAt := t0 } → ∃ t,
          exec (.positionDone c trips) s = .next t ∧ t.fget (Fld.ORB_POS_R c.val) = r ∧
          (amb → t.fget (Fld.ORB_POS_AMBIG c.val) = 1 ∧ (t.orb.chans.lookup c.val).map (·.st) = some 5) ∧
          (¬ amb → t.fget (Fld.ORB_POS_AMBIG c.val) = 0 ∧ at_ t (x.ramp t0 (startStep x.rev r))))) ∧
      (ch.st ≠ 5 ∨ t0 < ch.since + p.alignMs * ms → exec (.alignEnd c) s = .next s) ∧
      (ch.st = 5 → ch.since + p.alignMs * ms ≤ t0 → ∃ t, exec (.alignEnd c) s = .next t ∧ at_ t (ch.ramp t0 (startStep ch.rev 0))) ∧
      (ch.st ≠ 6 ∨ t0 < ch.commAt + ch.stepNs → exec (.rampCommutation c) s = .next s) ∧
      (ch.st = 6 → ch.commAt + ch.stepNs ≤ t0 → ∃ t, exec (.rampCommutation c) s = .next t ∧
        (t.orb.chans.lookup c.val).map (·.step) = some (nextStep ch.rev ch.step) ∧
        (t.orb.chans.lookup c.val).map (·.stepNs) = some (rampStep ch.cfg.poles p (t0 - ch.since)) ∧
        (t.orb.chans.lookup c.val).map (·.st) = some 6) ∧
      (ch.st ≠ 6 ∨ t0 < ch.since + (p.rampMs + 500) * ms → exec (.rampFail c) s = .next s) ∧
      (ch.st = 6 → ch.since + (p.rampMs + 500) * ms ≤ t0 → ∃ t, exec (.rampFail c) s = .next t ∧
        (ch.tries + 1 < p.tries → at_ t { ch.brake t0 with tries := ch.tries + 1 }) ∧
        (p.tries ≤ ch.tries + 1 → at_ t { (ch.off t0).enter 9 t0 with fault := 1, inFault := true, losses := [] })) ∧
      (∀ level seen, (seen = false ∨ ch.crossed = true ∨ level ≠ crossLevel ch.rev ch.step ∨ pastIgnored t0 ch = false ∨
          (ch.st ≠ 8 ∧ ocHeld t0 ch = true) ∨ (ch.st ≠ 6 ∧ ch.running = false)) → exec (.zeroCrossing c level seen) s = .next s) ∧
      (ch.crossed = false → pastIgnored t0 ch = true → (ch.st = 8 ∨ ocHeld t0 ch = false) → ∀ x, ((ch.st = 6 ∧ x = rampCrossing t0 ch) ∨
          (ch.running = true ∧ x = runCrossing t0 ch)) → ∃ t, exec (.zeroCrossing c (crossLevel ch.rev ch.step) true) s = .next t ∧ at_ t x) ∧
      ((ch.running = false ∨ ∀ d, ch.commDue = some d → t0 < d) → exec (.commutation c) s = .next s) ∧
      (∀ d, ch.running = true → ch.commDue = some d → d ≤ t0 → ∃ t, exec (.commutation c) s = .next t ∧
        (t.orb.chans.lookup c.val).map (·.step) = some (nextStep ch.rev ch.step) ∧
        (t.orb.chans.lookup c.val).map (·.commAt) = some t0 ∧ (t.orb.chans.lookup c.val).map (·.commDue) = some none ∧
        (t.orb.chans.lookup c.val).map (·.st) = some ch.st) ∧
      ((ch.running = false ∨ s.epoch / 10000000 = ch.loopAt) → exec (.speedLoopUpdate c) s = .next s) ∧
      (∀ e d : Int, ch.running = true → s.epoch / 10000000 ≠ ch.loopAt →
        e = ((divNearestEven ch.target 10000).natAbs : Int) - ch.speed.natAbs →
        d = max 0 (min (ch.demand + (ch.cfg.ki * e + ch.cfg.kp * (e - ch.lastErr))) 65536000) → ∃ t,
        exec (.speedLoopUpdate c) s = .next t ∧ (t.orb.chans.lookup c.val).map (·.demand) = some d ∧
        (t.orb.chans.lookup c.val).map (·.lastErr) = some e ∧ (t.orb.chans.lookup c.val).map (·.target) = some ch.target) ∧
      (∀ lim, lim = (match ch.ivals with | i :: _ => min (2 * i) 250000000 | [] => 250000000) →
        ((ch.valid < 2 ∨ t0 - ch.lastX ≤ lim) → exec (.measurementLapse c) s = .next s) ∧
        (2 ≤ ch.valid → lim < t0 - ch.lastX → ∃ t, exec (.measurementLapse c) s = .next t ∧
          at_ t { ch with speed := 0, valid := 0, cnt := 0 })))

/-- SYNC_LOSS in RUN, with no crossing for twice the mean interval, counts and starts again, and the third within 10 s is a
STALL (R513, R527). OC_TRIP above the threshold that OC_CODE sets (R504), of a driven channel, counts and holds the switch
off for its PWM period (R528); a trip in every period for OC_MS is OVERCURRENT; the comparator asserted with every gate off
for 10 µs is SHORT, which is held. FAULT_RETRY starts again after RETRY_S, up to RETRY_MAX, but from no SHORT (R527, R528).
5 s of RUN without a break end a fault (R529). Where the condition does not hold, nothing happens. -/
def Obligations.orbit_faults : Prop :=
  ∀ (c : Fin 4) (s : State) (ch : OrbChan), s.wf = true → Defined s → s.orb.chans.lookup c.val = some ch → s.on 157 = true →
    s.orb.tripped = false → ∀ (t0 p : Nat), t0 = s.mono → p = 5 * pwmCounts ch.cfg.khz →
    ∀ at_ : State → OrbChan → Prop, at_ = (fun t x => t.orb.chans.lookup c.val = some { x with full := x.atFull } ∧
      (∀ d, d ≠ c.val → t.orb.chans.lookup d = s.orb.chans.lookup d) ∧ t.orb.temps = s.orb.temps ∧
      t = { s with orb := t.orb, regs := t.regs, pcie := t.pcie, port := t.port }) →
    ∀ faulted : State → Nat → Prop, faulted = (fun t code => at_ t { (if ch.coasting = true then ch else ch.off t0).enter 9 t0 with
        fault := code
        inFault := true
        losses := [] } ∧
      t.fget (Fld.ORB_FAULTS_COUNT c.val) = (s.fget (Fld.ORB_FAULTS_COUNT c.val) + 1) % 2 ^ 32) →
    ∀ lost : Prop, lost = (ch.running = true ∧ 2 * ch.ivals.sum ≤ (t0 - ch.lastX) * ch.ivals.length) →
    (¬ lost → exec (.syncLoss c) s = .next s) ∧
    (∀ n, n = (ch.losses.filter fun x => decide (t0 ≤ x + 10000000000)).length → lost → ∃ t, exec (.syncLoss c) s = .next t ∧
      t.fget (Fld.ORB_SYNCLOSS_COUNT c.val) = (s.fget (Fld.ORB_SYNCLOSS_COUNT c.val) + 1) % 2 ^ 32 ∧
      (2 ≤ n → faulted t 2) ∧ (n < 2 → (t.orb.chans.lookup c.val).map (·.st) = some 2 ∧
        t.fget (Fld.ORB_STARTS_COUNT c.val) = (s.fget (Fld.ORB_STARTS_COUNT c.val) + 1) % 2 ^ 32)) ∧
    (∀ (driven : Prop) isns, driven = (ch.st = 3 ∨ (5 ≤ ch.st ∧ ch.st ≤ 8)) →
      ((¬ driven ∨ 63 * isns < ch.cfg.ocCode * 300000) → exec (.ocTrip c isns) s = .next s) ∧
      (driven → ch.cfg.ocCode * 300000 < 63 * isns → ∃ t, exec (.ocTrip c isns) s = .next t ∧ (t.orb.chans.lookup c.val).map (·.ocLast) = some t0 ∧
        (t.orb.chans.lookup c.val).map (·.ocFrom) = some (some (match ch.ocFrom with
          | some x => if t0 / p ≤ ch.ocLast / p + 1 then x else t0
          | none => t0)) ∧
        t.fget (Fld.ORB_OCTRIPS_COUNT c.val) = (s.fget (Fld.ORB_OCTRIPS_COUNT c.val) + 1) % 2 ^ 32)) ∧
    (∀ over_ : Prop, over_ = (∃ x, ch.ocFrom = some x ∧ t0 / p ≤ ch.ocLast / p + 1 ∧ x + ch.cfg.ocMs * 1000000 ≤ t0) →
      (¬ over_ → exec (.overcurrent c) s = .next s) ∧ (over_ → ∃ t, exec (.overcurrent c) s = .next t ∧ faulted t 3)) ∧
    (∀ (shorted : Prop) isns, shorted = (ch.coasting = true ∧ ch.offAt + 10000 ≤ t0 ∧ ¬ (ch.st = 9 ∧ ch.fault = 4)) →
      ((¬ shorted ∨ 63 * isns < ch.cfg.ocCode * 300000) → exec (.short c isns) s = .next s) ∧
      (shorted → ch.cfg.ocCode * 300000 < 63 * isns → ∃ t, exec (.short c isns) s = .next t ∧ faulted t 4)) ∧
    (∀ due : Prop, due = (ch.st = 9 ∧ ch.fault ≠ 4 ∧ ch.since + ch.cfg.retryS * 1000000000 ≤ t0 ∧
        (ch.cfg.retryMax = 0 ∨ ch.retries < ch.cfg.retryMax)) → (¬ due → exec (.faultRetry c) s = .next s) ∧
      (due → ∃ t, exec (.faultRetry c) s = .next t ∧ at_ t { ch with
          retries := ch.retries + 1
          st := 2
          since := t0
          brakes := 0
          tries := 0 } ∧
        t.fget (Fld.ORB_STARTS_COUNT c.val) = (s.fget (Fld.ORB_STARTS_COUNT c.val) + 1) % 2 ^ 32)) ∧
    (∀ over_ : Prop, over_ = (ch.inFault = true ∧ ch.running = true ∧ ch.since + 5000000000 ≤ t0) →
      (¬ over_ → exec (.faultEnd c) s = .next s) ∧
      (over_ → ∃ t, exec (.faultEnd c) s = .next t ∧ at_ t { ch with inFault := false, retries := 0 }))

/-- VDD_NW's rise starts Nightwatch UNCONFIGURED with the buffer being scrubbed and retention memory checked (R163, R495);
its loss leaves only retention memory; VRET's loss clears the templates. A granted NW_CTRL changes the mode of a configured
Nightwatch, or resets it (R168, R469); a closed crossing turns FULL to LISTEN (R17). PDM_CLK's change settles the
microphones (R470). Every sample advances SCOUNT, and a dead or settling channel yields zero (R475). A channel dies or lives
again after its time; a feature frame every 160 samples, an alarm block every 64. Without VDD_NW, or its condition, an event
does nothing. -/
def Obligations.nightwatch_modes_and_samples : Prop :=
  ∀ (s : State), s.wf = true →
    (s.pwr.sup.vddNw = false → ∀ i, (i = .pdmClockChange ∨ i = .settleEnd ∨ i = .crossingIsolation ∨ (∃ b, i = .sampleBoundary b) ∨
      i = .tsyncCapture ∨ (∃ c, i = .channelDead c ∨ i = .channelAlive c) ∨ i = .featureFrame ∨ i = .alarmBlock ∨ i = .wakeDelivery ∨
      i = .windowTimeout ∨ i = .scrubDone ∨ i = .enrolTimeout ∨ i = .vddNwLoss) → exec i s = .next s) ∧
    (s.pwr.sup.vddNw = true → exec .vddNwRise s = .next s) ∧
    (∀ i, (i = .vddNwRise ∧ s.pwr.sup.vddNw = false) ∨ (∃ f, i = .nwReset f ∧ HostGranted s f Reg.NW_CTRL) → ∃ t, exec i s = .next t ∧
      t.nw.mode = 0 ∧ t.nw.cfg = none ∧ t.nw.scrub = true ∧ t.nw.window = false ∧ t.nw.enrol = none ∧ t.pwr.pins.wakeN = true ∧
      (s.nw.ret.good = true ∧ s.pwr.sup.vret = true → t.nw.ret = s.nw.ret ∧ t.nw.retValid = true) ∧
      (¬ (s.nw.ret.good = true ∧ s.pwr.sup.vret = true) → t.nw.ret = ⟨[], none, false⟩ ∧ t.nw.retValid = false ∧ t.nw.retLost = true) ∧
      (∀ o, 0x580000 ≤ o → o < 0x600000 → t.reg o = regReset o) ∧ (∀ o, o < 0x580000 ∨ 0x600000 ≤ o → t.reg o = s.reg o) ∧
      (i = .vddNwRise → t.pwr.sup.vddNw = true ∧ t.dom 159 = .on ∧ t.pwr.pins.pwrreqN = false) ∧
      t = { s with nw := t.nw, pwr := t.pwr, regs := t.regs }) ∧
    (s.pwr.sup.vddNw = true → spWf (fun _ => DomState.off) s.pwr.dom = true → ∃ t, exec .vddNwLoss s = .next t ∧
      t.nw = { NwState.reset with ret := s.nw.ret } ∧ t.pwr.sup.vddNw = false ∧ t.dom 159 = .off ∧ t.dom 162 = .off ∧
      t.pwr.pins.wakeN = true ∧ t = { s with nw := t.nw, pwr := t.pwr, regs := t.regs }) ∧
    (exec .vretLoss s = .next { s with
      nw := { s.nw with ret := ⟨[], none, false⟩, retValid := false }
      pwr := { s.pwr with sup := { s.pwr.sup with vret := false }, dom := spSet DomState.off 163 .off s.pwr.dom } }) ∧
    (exec .vretReturn s = .next { s with
      pwr := { s.pwr with sup := { s.pwr.sup with vret := true }, dom := spSet DomState.off 163 .on s.pwr.dom } }) ∧
    (∀ i m, (∃ f, HostGranted s f Reg.NW_CTRL ∧ (i = .nwModeListen f ∧ m = 1 ∨ i = .nwModeFull f ∧ m = 2) ∧ s.nw.mode ≠ 0) ∨
        (i = .crossingIsolation ∧ m = 1 ∧ s.pwr.sup.vddNw = true ∧ nwOpen s = false ∧ s.nw.mode = 2) →
      (s.nw.mode = m → exec i s = .next s) ∧ (s.nw.mode ≠ m → ∃ t, exec i s = .next t ∧ t.nw.mode = m ∧ t.nw.enrol = none ∧
        t.nw.window = s.nw.window ∧ t.nw.scount = s.nw.scount ∧ t.nw.ret = s.nw.ret ∧
        t = { s with nw := t.nw, regs := t.regs, pcie := t.pcie, port := t.port })) ∧
    (s.nw.mode = 0 → ∀ f, HostGranted s f Reg.NW_CTRL → exec (.nwModeListen f) s = .next s ∧ exec (.nwModeFull f) s = .next s) ∧
    ((nwOpen s = true ∨ s.nw.mode ≠ 2) → exec .crossingIsolation s = .next s) ∧
    (s.pwr.sup.vddNw = true →
      ((s.nw.cfg = none ∨ s.nw.wantClk = s.nw.clk) → exec .pdmClockChange s = .next s) ∧
      (∀ g, s.nw.cfg = some g → s.nw.wantClk ≠ s.nw.clk → ∃ t, exec .pdmClockChange s = .next t ∧ t.nw.clk = s.nw.wantClk ∧
        t.nw.settling = true ∧ t.nw.settleLeft = g.settleMs * 16 ∧ t.nw.scount = s.nw.scount ∧
        t.fget Fld.NW_SETTLES_COUNT = (s.fget Fld.NW_SETTLES_COUNT + 1) % 2 ^ 32 ∧ t = { s with nw := t.nw, regs := t.regs }) ∧
      exec .settleEnd s = .next (if s.nw.settling = true ∧ s.nw.settleLeft = 0 then { s with nw := { s.nw with settling := false } } else s) ∧
      (∀ bits, (s.nw.cfg = none ∨ s.nw.clk = 0) →
        exec (.sampleBoundary bits) s = .next { s with nw := { s.nw with scount := (s.nw.scount + 1) % 2 ^ 64 } }) ∧
      (∀ bits g, s.nw.cfg = some g → s.nw.clk ≠ 0 → ∃ t, exec (.sampleBoundary bits) s = .next t ∧
        t.nw.scount = (s.nw.scount + 1) % 2 ^ 64 ∧ t.nw.settleLeft = s.nw.settleLeft - 1 ∧ t.nw.mode = s.nw.mode ∧
        (∀ c, c < 8 → g.chEn.testBit c = true → (s.nw.settling = true ∨ (s.nw.chans.getD c NwChan.reset).dead = true) →
          (t.nw.chans.getD c NwChan.reset).sample = 0) ∧
        ((s.nw.scrub = true ∨ s.on 162 = false) → t.nw.pre = s.nw.pre) ∧
        (s.nw.mode ≠ 2 → t.port = s.port) ∧ t = { s with nw := t.nw, port := t.port }) ∧
      exec .tsyncCapture s = .next (if nwOpen s = true ∧ s.nw.scount % 1000 = 0 then
        (s.setPair Reg.NW_TSYNC_SC_LO Reg.NW_TSYNC_SC_HI s.nw.scount).setPair Reg.NW_TSYNC_EP_LO Reg.NW_TSYNC_EP_HI s.epoch else s) ∧
      (∀ (c : Fin 8) ch, ch = s.nw.chans.getD c.val NwChan.reset → s.nw.chans.length = 8 →
        ∀ dies lives : Prop, dies = (∃ g, s.nw.cfg = some g ∧ g.chEn.testBit c.val = true ∧ ch.dead = false ∧ g.deadMs * 16 ≤ ch.quiet) →
        lives = (∃ g, s.nw.cfg = some g ∧ ch.dead = true ∧ g.aliveMs * 16 ≤ ch.lively) →
        (¬ dies → exec (.channelDead c) s = .next s) ∧ (¬ lives → exec (.channelAlive c) s = .next s) ∧
        (∀ i b, (i = .channelDead c ∧ b = true ∧ dies) ∨ (i = .channelAlive c ∧ b = false ∧ lives) → ∃ t, exec i s = .next t ∧
          (t.nw.chans.getD c.val NwChan.reset).dead = b ∧
          (∀ d, d ≠ c.val → t.nw.chans.getD d NwChan.reset = s.nw.chans.getD d NwChan.reset) ∧
          t.fget Fld.NW_EVT_SEQ_SEQ = (s.fget Fld.NW_EVT_SEQ_SEQ + 1) % 2 ^ 32 ∧
          t.fget (Fld.NW_CH_DEADS_COUNT c.val) = (s.fget (Fld.NW_CH_DEADS_COUNT c.val) + if b = true then 1 else 0) % 2 ^ 32 ∧
          t = { s with nw := t.nw, regs := t.regs, pcie := t.pcie, port := t.port })) ∧
      ((s.nw.cfg = none ∨ s.on 160 = false ∨ s.nw.scount % 160 ≠ 0 ∨ s.nw.scount = s.nw.frameAt) → exec .featureFrame s = .next s) ∧
      (∀ g, s.nw.cfg = some g → s.on 160 = true → s.nw.scount % 160 = 0 → s.nw.scount ≠ s.nw.frameAt → ∃ t,
        exec .featureFrame s = .next t ∧ t.nw.frame = s.nw.frame + 1 ∧ t.nw.frameAt = s.nw.scount ∧ t.nw.mode = s.nw.mode ∧
        t.nw.window = s.nw.window ∧ t.nw.pre = s.nw.pre ∧
        t = { s with nw := t.nw, regs := t.regs, pcie := t.pcie, port := t.port }) ∧
      ((s.nw.cfg = none ∨ s.on 161 = false ∨ s.nw.scount % 64 ≠ 0 ∨ s.nw.scount = s.nw.blockAt) → exec .alarmBlock s = .next s) ∧
      (∀ g e, s.nw.cfg = some g → s.on 161 = true → s.nw.scount % 64 = 0 → s.nw.scount ≠ s.nw.blockAt → e = energy s.nw.alarmIn → ∃ t,
        exec .alarmBlock s = .next t ∧ t.nw.blockAt = s.nw.scount ∧ t.nw.level = blockDb e ∧
        t.nw.levels = (e :: s.nw.levels).take 64 ∧ t.nw.mode = s.nw.mode ∧ t.nw.pre = s.nw.pre ∧
        t = { s with nw := t.nw, regs := t.regs }))

/-- WAKE_DELIVERY of a due trigger makes its record, drives PWRREQ_N and WAKE_N low, opens the window, or leaves that to the
end of a scrub, and wakes Zenith over an open crossing (R488). NW_POST puts the record's 64 bytes into NW_WAKE_DATA, READY,
SEQ advanced (R490, R491); NW_WAKE_ACK with that SEQ takes the next trigger (R487). The window closes at its end or by
NW_CLOSE with SEQ, which starts the scrub (R489); the scrub's end empties the buffer (R493). NW_ENROL and its deletion act in
FULL with no enrolment running and retention valid, as R482 says. Where the condition does not hold nothing happens. -/
def Obligations.nightwatch_wakes_and_enrolment : Prop :=
  ∀ (s : State), s.wf = true →
    (s.pwr.sup.vddNw = true →
      (s.nw.due = none → exec .wakeDelivery s = .next s) ∧
      (∀ x, s.nw.due = some x → ∃ t, exec .wakeDelivery s = .next t ∧ t.nw.due = none ∧ t.nw.busy = true ∧ t.nw.drops = 0 ∧
        (t.nw.rec_).map (·.trig) = some x ∧ (t.nw.rec_).map (·.short) = some s.nw.scrub ∧ t.nw.retLost = false ∧
        t.nw.queue = s.nw.queue ∧ (s.nw.scrub = false → t.nw.window = true ∧ t.nw.winEnd = s.nw.scount +
          (match s.nw.cfg with | some g => g.windowS | none => 1) * 16000) ∧
        (s.nw.scrub = true → t.nw.window = s.nw.window ∧ t.nw.openDue = true) ∧
        t.pwr = { s.pwr with pins := { s.pwr.pins with pwrreqN := false, wakeN := false } } ∧ (nwOpen s = false → t.zen = s.zen) ∧
        t = { s with nw := t.nw, pwr := t.pwr, zen := t.zen, regs := t.regs }) ∧
      ((s.nw.window = false ∨ s.nw.scount < s.nw.winEnd) → exec .windowTimeout s = .next s) ∧
      (s.nw.scrub = false → exec .scrubDone s = .next s) ∧
      (s.nw.scrub = true → ∃ t, exec .scrubDone s = .next t ∧ t.nw.scrub = false ∧ t.nw.pre = [] ∧ t.nw.s0 = s.nw.scount ∧
        t.nw.openDue = false ∧ (s.nw.openDue = true → t.nw.window = true) ∧ (s.nw.openDue = false → t.nw.window = s.nw.window) ∧
        t = { s with nw := t.nw }) ∧
      ((∀ x, s.nw.enrol = some x → s.nw.scount < x.until_) → exec .enrolTimeout s = .next s) ∧
      (∀ x, s.nw.enrol = some x → x.until_ ≤ s.nw.scount → ∃ t, exec .enrolTimeout s = .next t ∧ t.nw = { s.nw with enrol := none } ∧
        t.fget Fld.NW_ENROL_RESULT_STATUS = 1 ∧ t.fget Fld.NW_ENROL_RESULT_UTTER = x.embs.length % 4 ∧
        t.fget Fld.NW_ENROL_RESULT_SEQ = x.seq % 65536 ∧ t = { s with nw := t.nw, regs := t.regs, pcie := t.pcie, port := t.port })) ∧
    (∀ i, (i = .windowTimeout ∧ s.pwr.sup.vddNw = true ∧ s.nw.winEnd ≤ s.nw.scount) ∨
        (∃ f, i = .nwClose f (s.reg Reg.NW_WAKE_SEQ) ∧ HostGranted s f Reg.NW_CLOSE) → s.nw.window = true → ∃ t, exec i s = .next t ∧
      t.nw.window = false ∧ t.nw.scrub = true ∧ t.nw.pre = s.nw.pre ∧
      t.fget Fld.NW_EVT_SEQ_SEQ = (s.fget Fld.NW_EVT_SEQ_SEQ + 1) % 2 ^ 32 ∧
      t = { s with nw := t.nw, regs := t.regs, pcie := t.pcie, port := t.port }) ∧
    (∀ f v, HostGranted s f Reg.NW_CLOSE → (s.nw.window = false ∨ v ≠ s.reg Reg.NW_WAKE_SEQ) → exec (.nwClose f v) s = .next s) ∧
    (∀ f, HostGranted s f Reg.NW_POST → (s.nw.rec_ = none → exec (.nwPost f) s = .next s) ∧
      (∀ r, s.nw.rec_ = some r → ∃ t, exec (.nwPost f) s = .next t ∧ t.nw = { s.nw with rec_ := none } ∧
        t.fget Fld.NW_WAKE_STAT_READY = 1 ∧ t.fget Fld.NW_WAKE_SEQ_SEQ = (s.fget Fld.NW_WAKE_SEQ_SEQ + 1) % 2 ^ 32 ∧
        (∀ k, k < 16 → t.reg (Reg.NW_WAKE_DATA k) = BitVec.ofNat 32 (leAt (4 * k) 4 (wakeBytes r))) ∧
        (wakeBytes r).length = 64 ∧ t = { s with nw := t.nw, regs := t.regs, pcie := t.pcie, port := t.port })) ∧
    (∀ f v, HostGranted s f Reg.NW_WAKE_ACK →
      ((v ≠ s.reg Reg.NW_WAKE_SEQ ∨ s.fget Fld.NW_WAKE_STAT_READY = 0) → exec (.nwWakeAck f v) s = .next s) ∧
      (v = s.reg Reg.NW_WAKE_SEQ → s.fget Fld.NW_WAKE_STAT_READY ≠ 0 → exec (.nwWakeAck f v) s =
        .next { s.fset Fld.NW_WAKE_STAT_READY 0 with
          nw := { s.nw with busy := false, due := s.nw.queue.head?, queue := s.nw.queue.drop 1 }
          pwr := { s.pwr with pins := { s.pwr.pins with wakeN := true } } })) ∧
    (∀ f v, HostGranted s f Reg.NW_SIGNAL → exec (.nwSignal f v) s = .next { s with
      nw := { s.nw with signal := v, tables := s.nw.tables.map fun (t, i) => (t, i.arrive 8) } }) ∧
    (∀ f (u : Fin 8) (k : Fin 16) (q : BitVec 16), HostGranted s f Reg.NW_ENROL → ∀ i, i = .nwEnrol f u k q ∨ i = .nwEnrolDelete f u k q →
      ((s.nw.enrol.isSome = true ∨ s.nw.mode ≠ 2) → exec i s = .next (s.fsat Fld.NW_ENROL_DROPS_COUNT)) ∧
      (s.nw.enrol = none → s.nw.mode = 2 →
        (s.nw.retValid = true → i = .nwEnrol f u k q → exec i s = .next { s with
          nw := { s.nw with enrol := some ⟨u.val, k.val, q.toNat, s.nw.scount + 480000, []⟩ } }) ∧
        (∀ status, (s.nw.retValid = false ∧ status = 3) ∨ (s.nw.retValid = true ∧ i = .nwEnrolDelete f u k q ∧ status = 0) → ∃ t,
          exec i s = .next t ∧ t.fget Fld.NW_ENROL_RESULT_STATUS = status ∧ t.fget Fld.NW_ENROL_RESULT_SEQ = q.toNat ∧
          t.nw = { s.nw with
            enrol := none
            ret := if status = 3 then s.nw.ret else
              { s.nw.ret with templates := spDel (u.val * 16 + k.val) s.nw.ret.templates } } ∧
          t.fget Fld.NW_EVT_SEQ_SEQ = (s.fget Fld.NW_EVT_SEQ_SEQ + 1) % 2 ^ 32 ∧
          t = { s with nw := t.nw, regs := t.regs, pcie := t.pcie, port := t.port })))

/-- A port whose domain is OFF or that has no entry takes no packet; a corrected header counts; a virtual channel without a
Stream Channel discards its packets and counts them (R416). FRAME_START opens a frame in the channel's next source slot, and
one left open closes as short. A long packet of the configured data type is the frame's next line, as far as the 64 KiB
buffer of the port takes it; its writes up to the pitch are Frame requests at their targets (R205), flagged and counted
where it is truncated, fails its CRC or overflows (R417, R418); others count in DT_OTHER. FRAME_END closes the frame;
MIPI_FRAME_DONE reports the oldest closed one once no write of it is left. A new state of the PHY is an event (R438). -/
def Obligations.mipi_receive : Prop :=
  ∀ (p : Fin 2) (vc : Fin 16) (fixed : Bool) (s : State), s.wf = true → Defined s →
    ∀ u : State, u = (if fixed = true then s.fadd (Fld.VIN_HDR_CORR_COUNT p.val) 1 else s) → ∀ key, key = p.val * 16 + vc.val →
    (rxOn s p.val = false → (∀ n, exec (.frameStartPacket p vc n fixed) s = .next s) ∧
      (∀ dt d k, exec (.longPacket p vc dt d k fixed) s = .next s) ∧
      exec (.frameEndPacket p vc fixed) s = .next s ∧ (∀ x, exec (.otherPacket p vc x) s = .next s) ∧
      ∀ st, exec (.mipiPortStateChange p st) s = .next s) ∧
    (rxOn s p.val = true →
      exec (.otherPacket p vc .badHeader) s = .next (s.fadd (Fld.VIN_HDR_ERR_COUNT p.val) 1) ∧
      exec (.otherPacket p vc .badSync) s = .next (s.fadd (Fld.VIN_SOT_ERR_COUNT p.val) 1) ∧
      (vcChan s p.val vc.val = none → ∀ v, v = u.fadd (Fld.VIN_NOCHAN_COUNT p.val) 1 →
        (∀ n, exec (.frameStartPacket p vc n fixed) s = .next v) ∧
        (∀ dt d k, exec (.longPacket p vc dt d k fixed) s = .next v) ∧
        exec (.frameEndPacket p vc fixed) s = .next v ∧ exec (.otherPacket p vc (.unused fixed)) s = .next v) ∧
      (∀ k c, vcChan s p.val vc.val = some (k, c) →
        exec (.otherPacket p vc (.unused fixed)) s = .next (u.fadd (Fld.VIN_DT_OTHER_COUNT p.val) 1) ∧
        (∀ n : BitVec 16, ∃ t, exec (.frameStartPacket p vc n fixed) s = .next t ∧
          t.vid.opened.lookup key = some ⟨c.rxCount, rxSlot c, n.toNat, 0, false, false, false⟩ ∧
          t.fget (Fld.VIN_VC_FS_COUNT p.val vc.val) = (s.fget (Fld.VIN_VC_FS_COUNT p.val vc.val) + 1) % 2 ^ 32 ∧
          t.fget (Fld.VIN_VC_SHORT_COUNT p.val vc.val) = (s.fget (Fld.VIN_VC_SHORT_COUNT p.val vc.val) +
            if (s.vid.opened.lookup key).isSome = true then 1 else 0) % 2 ^ 32 ∧
          (t.chan? k).map (·.rxCount) = (s.chan? k).map (fun c => c.rxCount + 1) ∧
          t = { s with vid := t.vid, str := t.str, regs := t.regs, pcie := t.pcie, port := t.port }) ∧
        (∀ (dt : BitVec 6) data crc, (s.vid.opened.lookup key = none ∨
            (∀ w, s.vid.rxvc.lookup key = some w → dt.toNat ≠ w.dt)) →
          exec (.longPacket p vc dt data crc fixed) s = .next (u.fadd (Fld.VIN_DT_OTHER_COUNT p.val) 1)) ∧
        (∀ (dt : BitVec 6) data crc x w, s.vid.opened.lookup key = some x → s.vid.rxvc.lookup key = some w →
          dt.toNat = w.dt → ∀ room bytes (drop trunc : Bool), room = 65536 - buffered s p.val → bytes = packLine w (data.take room) → drop = decide (w.maxLines ≤ x.line) →
          trunc = (drop || decide (w.pitch < bytes.length)) → ∃ y : State,
          exec (.longPacket p vc dt data crc fixed) s = .next (if drop = true then y else
            writeLine key x.id k ((bytes.take w.pitch).length + 1) (x.slot + x.line * w.pitch) (bytes.take w.pitch) y) ∧
          y.vid.opened.lookup key = some { x with
            line := x.line + 1
            crc := x.crc || !crc
            trunc := x.trunc || trunc
            overflow := x.overflow || decide (room < data.length) } ∧
          y.fget (Fld.VIN_VC_TRUNC_COUNT p.val vc.val) =
            (s.fget (Fld.VIN_VC_TRUNC_COUNT p.val vc.val) + if trunc = true then 1 else 0) % 2 ^ 32 ∧
          y.fget (Fld.VIN_CRC_ERR_COUNT p.val) = (s.fget (Fld.VIN_CRC_ERR_COUNT p.val) + if crc = true then 0 else 1) % 2 ^ 32 ∧
          y = { s with vid := y.vid, regs := y.regs }) ∧
        (s.vid.opened.lookup key = none → exec (.frameEndPacket p vc fixed) s = .next u) ∧
        (∀ x, s.vid.opened.lookup key = some x → exec (.frameEndPacket p vc fixed) s = .next { u with vid := { u.vid with
          opened := spDel key u.vid.opened, closed := u.vid.closed ++ [(key, x)] } })) ∧
      (∀ st : Fin 4, (st.val = 0 ∨ s.fget (Fld.VIN_PORT_STATUS_STATE p.val) = st.val → exec (.mipiPortStateChange p st) s = .next s) ∧
        (st.val ≠ 0 → s.fget (Fld.VIN_PORT_STATUS_STATE p.val) ≠ st.val → ∃ t, exec (.mipiPortStateChange p st) s = .next t ∧
          t.fget (Fld.VIN_PORT_STATUS_STATE p.val) = st.val ∧
          t.fget Fld.VIN_EVT_SEQ_SEQ = (s.fget Fld.VIN_EVT_SEQ_SEQ + 1) % 2 ^ 32 ∧
          t = { s with regs := t.regs, pcie := t.pcie, port := t.port }))) ∧
    (∀ fuel frame k a (d : List Byte) tg, a < 2 ^ 40 → d ≠ [] → pieceLen a d.length = d.length →
      routeOf s (Who.stream s k) true a d.length = .target tg → ∃ dl : Int, writeLine key frame k (fuel + 1) a d s = { s with
        fab := { s.fab with reqs := s.fab.reqs ++ [⟨tg, classIn (Who.stream s k).group 0, (Who.stream s k).group, dl, s.epoch,
          d.length, false, .rx key frame k a d⟩] } }) ∧
    (∀ frame : Nat, frameWrites s key frame = true ↔ ∃ op, op ∈ s.fab.reqs.map (·.op) ++ s.mem.held.map (·.op) ++
      s.mem.remote.map (·.op) ∧ ∃ k a d, op = .rx key frame k a d) ∧
    ((s.on (117 + p.val) = false ∨ s.vid.closed.find? (fun e => e.1 == key) = none ∨
      ∃ x, s.vid.closed.find? (fun e => e.1 == key) = some (key, x) ∧ frameWrites s key x.id = true) → exec (.mipiFrameDone p vc) s = .next s) ∧
    (∀ x, s.on (117 + p.val) = true → s.vid.closed.find? (fun e => e.1 == key) = some (key, x) →
      frameWrites s key x.id = false → ∃ t, exec (.mipiFrameDone p vc) s = .next t ∧ t.vid = { s.vid with closed := s.vid.closed.erase (key, x) } ∧
      t.fget (Fld.VIN_VC_DONE_COUNT p.val vc.val) = (s.fget (Fld.VIN_VC_DONE_COUNT p.val vc.val) + 1) % 2 ^ 32 ∧
      t.fget (Fld.VIN_VC_LAST_FRAMENO p.val vc.val) = x.number % 65536 ∧
      t.fget (Fld.VIN_VC_LAST_CRC p.val vc.val) = (if x.crc = true then 1 else 0) ∧
      t.fget (Fld.VIN_VC_LAST_OVERFLOW p.val vc.val) = (if x.overflow = true then 1 else 0) ∧
      t.fget Fld.VIN_EVT_SEQ_SEQ = (s.fget Fld.VIN_EVT_SEQ_SEQ + if x.flagged = true then 1 else 0) % 2 ^ 32 ∧
      t = { s with vid := t.vid, regs := t.regs, pcie := t.pcie, port := t.port })

/-- HPD_CHANGE records a new level; a stable HPD starts training or loses the link; a training ends up, or failed and tried
again 100 ms later; HPD_IRQ reads the sink and may retrain (R428). A sink of DSC learns its parameters after each training
(R427), and a port trains only while its encoder is ON (R411). RETRAIN, HOLD and RELEASE change LINK where they apply; a
HOLD lasts until RELEASE. One AUX transaction runs at a time, held back by a training; its reply, a DEFER tried again 400 µs
later up to 7 times, or its timeout ends it in VOUT_AUX_RESULT (R429). DSI packets queue up to 16; each DSI_INIT entry goes
out after its predecessor's delay (R431). SCANOUT_LINE shows the next line, every pixel of HACTIVE, of a port that is up
(R413, R423), on the pairs of LVDS as R432 and R433 place them. -/
def Obligations.video_out : Prop :=
  ∀ (p : Fin 2) (g : Fin 4) (s : State), s.wf = true → Defined s →
    (∀ level v, v = (if level = true then 1 else 0) →
      ((s.on 112 = false ∨ s.fget (Fld.VOUT_PORT_STATUS_HPD p.val) = v) → exec (.hpdChange p level) s = .next s) ∧
      (s.on 112 = true → s.fget (Fld.VOUT_PORT_STATUS_HPD p.val) ≠ v → ∃ t, exec (.hpdChange p level) s = .next t ∧
        t.fget (Fld.VOUT_PORT_STATUS_HPD p.val) = v ∧ t.vid.hpdAt.lookup p.val = some s.usCount ∧
        t.fget Fld.VOUT_EVT_SEQ_SEQ = (s.fget Fld.VOUT_EVT_SEQ_SEQ + 1) % 2 ^ 32 ∧
        t = { s with vid := t.vid, regs := t.regs, pcie := t.pcie, port := t.port })) ∧
    exec (.edpTrainingStart p) s = .next (if txOn s p.val = true ∧ txLink s p.val = 1 ∧ hpdStable s p.val 1 = true
      then setTxLink p.val 2 s else s) ∧
    (∀ lost : Prop, lost = (hpdStable s p.val 0 = true ∧ 2 ≤ txLink s p.val ∧ txLink s p.val ≤ 4) →
      (¬ lost → exec (.edpLinkLoss p) s = .next s) ∧ (lost → ∃ t, exec (.edpLinkLoss p) s = .next t ∧ txLink t p.val = 1 ∧
        t.fget (Fld.VOUT_LINK_LOSTS_COUNT p.val) = (s.fget (Fld.VOUT_LINK_LOSTS_COUNT p.val) + 1) % 2 ^ 32 ∧
        (∀ x, s.vid.aux = some x → x.port = p.val → x.deferAt = none → t.vid.aux = some { x with sent := true }) ∧
        t = { s with vid := { s.vid with aux := t.vid.aux }, regs := t.regs, pcie := t.pcie, port := t.port })) ∧
    (∀ bad, exec (.hpdIrq p bad) s = .next (if txOn s p.val = true ∧ txLink s p.val = 3 then
      (if bad = true then setTxLink p.val 2 (s.out (.aux p.val 0 0x202 [] 3)) else s.out (.aux p.val 0 0x202 [] 3)) else s)) ∧
    (∀ good, (txOn s p.val = false ∨ txLink s p.val ≠ 2) → exec (.trainingDone p good) s = .next s) ∧
    (∀ good, txOn s p.val = true → txLink s p.val = 2 → ∃ t, exec (.trainingDone p good) s = .next t ∧
      txLink t p.val = (if good = true then 3 else 4) ∧ (good = false → t.vid.failAt.lookup p.val = some s.usCount) ∧
      t.fget (Fld.VOUT_TRAINS_COUNT p.val) = (s.fget (Fld.VOUT_TRAINS_COUNT p.val) + if good = true then 1 else 0) % 2 ^ 32 ∧
      t.fget (Fld.VOUT_TRAIN_FAILS_COUNT p.val) = (s.fget (Fld.VOUT_TRAIN_FAILS_COUNT p.val) + if good = true then 0 else 1) % 2 ^ 32 ∧
      (∀ x, s.vid.aux = some x → x.port = p.val → x.deferAt = none → t.vid.aux = some { x with sent := true }) ∧
      (∀ c, s.vid.edp.lookup p.val = some c → c.dsc = true → good = true →
        ∃ w, PortEvent.pps p.val c.bpc c.bpp16 c.slices w c.sliceH ∈ t.port) ∧
      t = { s with vid := t.vid, regs := t.regs, pcie := t.pcie, port := t.port }) ∧
    (∀ q c d, q < 2 → s.vid.edp.lookup q = some c → c.dsc = true → d = (if q = 1 then 124 else 123) → s.on d = false →
      txOn s q = false) ∧
    exec (.trainingRetry p) s = .next (if txOn s p.val = true ∧ txLink s p.val = 4 ∧
      (s.vid.failAt.lookup p.val).getD 0 + 100000 ≤ s.usCount then setTxLink p.val 2 s else s) ∧
    (∀ f, HostGranted s f (Reg.VOUT_PORT_CMD g.val) →
      exec (.portRetrain f g) s = .next (if g.val < 2 ∧ txOn s g.val = true ∧ txLink s g.val ≠ 0 ∧ txLink s g.val ≠ 5
        then setTxLink g.val 2 s else s) ∧
      (∃ t, exec (.portHold f g) s = .next t ∧ t.vid.hold.contains g.val = true ∧
        (∀ q, q ≠ g.val → t.vid.hold.contains q = s.vid.hold.contains q) ∧
        txLink t g.val = (if txOn s g.val = true ∧ txLink s g.val ≠ 0 then 5 else txLink s g.val) ∧
        regsBut [Reg.VOUT_PORT_STATUS g.val] s t ∧
        t = { s with vid := { s.vid with hold := t.vid.hold, aux := t.vid.aux }, regs := t.regs, port := t.port }) ∧
      (∃ t, exec (.portRelease f g) s = .next t ∧ t.vid.hold = s.vid.hold.filter (fun x => x != g.val) ∧
        txLink t g.val = (if txLink s g.val ≠ 5 then txLink s g.val
          else if g.val < 2 then 1 else if g.val = 2 ∧ s.vid.initLeft ≠ [] then 2 else 3) ∧
        regsBut [Reg.VOUT_PORT_STATUS g.val] s t ∧ t = { s with vid := { s.vid with hold := t.vid.hold }, regs := t.regs })) ∧
    (∀ q, s.vid.hold.contains q = true → txOn s q = true → txDefined s q = true → txLink (portBegin q s) q = 5) ∧
    (∀ f (n : Fin 16) (q : BitVec 16) i op, HostGranted s f Reg.VOUT_AUX_CMD → (i = .auxNativeRead f p n q ∧ op = 0) ∨
        (i = .auxNativeWrite f p n q ∧ op = 1) ∨ (i = .auxI2cRead f p n q ∧ op = 2) ∨ (i = .auxI2cWrite f p n q ∧ op = 3) →
      (s.vid.aux.isSome = true → exec i s = .next (s.fsat Fld.VOUT_AUX_DROPS_COUNT)) ∧
      (s.vid.aux = none → ∀ x : AuxTx, x = ⟨p.val, op, if op < 2 then s.fget Fld.VOUT_AUX_ADDR_ADDR else
          s.fget Fld.VOUT_AUX_ADDR_ADDR % 128, if op % 2 = 1 then (auxBytes s).take (n.val + 1) else [], n.val + 1, q.toNat, 0,
          decide (txLink s p.val ≠ 2), none⟩ →
        exec i s = .next { s with
          vid := { s.vid with aux := some x }
          port := (if x.sent = true ∧ txOn s p.val = true then [PortEvent.aux p.val op x.addr x.data x.len] else []) ++ s.port })) ∧
    (∀ r data, (∀ x, s.vid.aux = some x → x.sent = false) → exec (.auxComplete r data) s = .next s) ∧
    (∀ x r data, s.vid.aux = some x → x.sent = true →
      (r = .defer → x.defers < 7 → exec (.auxComplete r data) s = .next { s with vid := { s.vid with aux := some { x with
        defers := x.defers + 1
        sent := false
        deferAt := some s.usCount } } }) ∧
      (∀ status, (r = .ack ∧ status = 0) ∨ (r = .nack ∧ status = 1) ∨ (r = .defer ∧ 7 ≤ x.defers ∧ status = 2) ∨
          (r = .timeout ∧ status = 3) → ∃ t, exec (.auxComplete r data) s = .next t ∧ t.vid = { s.vid with aux := none } ∧
        t.fget Fld.VOUT_AUX_RESULT_STATUS = status ∧ t.fget Fld.VOUT_AUX_RESULT_SEQ = x.seq % 65536 ∧
        (r = .ack → x.op % 2 = 0 → x.len ≤ 16 → (auxBytes t).take (min x.len data.length) = data.take x.len ∧
          t.fget Fld.VOUT_AUX_RESULT_LEN = min x.len data.length) ∧ t = { s with vid := t.vid, regs := t.regs })) ∧
    (∀ due : Prop, due = (∃ x t0, s.vid.aux = some x ∧ x.deferAt = some t0 ∧ t0 + 400 ≤ s.usCount) →
      (¬ due → exec .auxDeferRetry s = .next s) ∧ (due → ∃ t, exec .auxDeferRetry s = .next t ∧
        (t.vid.aux).map (·.deferAt) = some none ∧ t = { s with vid := t.vid, port := t.port })) ∧
    (∀ f, HostGranted s f Reg.VOUT_DSI_PUSH →
      (16 ≤ s.vid.dsiQueue.length → exec (.dsiPush f) s = .next (s.fsat Fld.VOUT_DSI_STAT_DROPS)) ∧
      (s.vid.dsiQueue.length < 16 → ∃ d, exec (.dsiPush f) s = .next { s with vid := { s.vid with dsiQueue := s.vid.dsiQueue ++
          [(if s.fget Fld.VOUT_DSI_HDR_DT = 0 then 5 else s.fget Fld.VOUT_DSI_HDR_DT, d)] } } ∧
        d.length = min 24 (s.fget Fld.VOUT_DSI_HDR_LEN))) ∧
    ((s.vid.initLeft = [] ∨ txOn s 2 = false ∨ s.usCount < s.vid.initAt) → exec .dsiInitEntry s = .next s) ∧
    (∀ x xs, s.vid.initLeft = x :: xs → txOn s 2 = true → s.vid.initAt ≤ s.usCount → ∃ t, exec .dsiInitEntry s = .next t ∧
      t.vid.initLeft = xs ∧ t.vid.initAt = s.usCount + 1000 * x.delayMs ∧ t.port = PortEvent.dsi x.dt x.data true :: s.port ∧
      txLink t 2 = (if xs = [] ∧ txLink s 2 = 2 then 3 else txLink s 2) ∧ t = { s with vid := t.vid, regs := t.regs, port := t.port }) ∧
    (∀ reads k, k = s.gen g.val → spWf (fun _ => Gen.none) s.str.gens = true →
      ∀ shows : GMode → Prop, shows = (fun m => k.modes.lookup k.mode = some m ∧ genRuns s k = true ∧ k.begun = true ∧
        k.line < m.vactive ∧ s.on (125 + g.val) = true) →
      ((∀ m, ¬ shows m) → exec (.scanoutLine g reads) s = .next s) ∧
      (∀ m, shows m → ∃ t, exec (.scanoutLine g reads) s = .next t ∧ (t.gen g.val).line = k.line + 1 ∧
        (txSends s g.val = false → t = { s with str := t.str }) ∧
        (txSends s g.val = true → ∃ ps wire before, ps.length = m.hactive ∧
          t.port = wire ++ PortEvent.line g.val k.frame k.line ps :: before ∧
          (k.bufs = [] → before = s.port ∧ t = { s with str := t.str, port := t.port } ∧
            ps = List.replicate m.hactive (sentPixel (sendsEight s g.val) (k.bg % 2 ^ 30))) ∧
          ((g.val ≠ 3 ∨ s.vid.lvds = none) → wire = []) ∧
          (∀ v (clock : Nat → List (List Bool)), g.val = 3 → s.vid.lvds = some v → clock = (fun q => lvdsClock ::
              lvdsPairs v.wm10 (v.flags.testBit 0) (v.flags.testBit 1) true q) →
            (v.dual = false → wire = [PortEvent.lvds 0 k.frame k.line (ps.map clock)]) ∧
            (v.dual = true → ∃ a b : List Nat, wire = [PortEvent.lvds 1 k.frame k.line (b.map clock),
                PortEvent.lvds 0 k.frame k.line (a.map clock)] ∧
              ∀ i, a[i]? = ps[2 * i]? ∧ b[i]? = ps[2 * i + 1]?))) ∧
        t = { s with
          str := t.str, regs := t.regs, flt := t.flt, fab := t.fab, mem := t.mem, mer := t.mer, freeCtr := t.freeCtr
          port := t.port }))
end

