-- ==== Sys2Proof/Laws/Bits.lean ====
section
/-! SUPPORT. What a bit field reads as after a field of the word is written. -/
namespace Sys2Proof

/-- Bit `j` of a word with a field set. -/
theorem withBits_testBit {hi lo : Nat} (h : lo ≤ hi) (hh : hi < 32) (v : Nat) (w : Word) (j : Nat) :
    (withBits hi lo v w).toNat.testBit j =
      (decide (j < 32) && if lo ≤ j ∧ j ≤ hi then v.testBit (j - lo) else w.toNat.testBit j) := by
  have hw := w.isLt
  generalize hn : w.toNat = n at hw
  have hk : hi + 1 = lo + (hi + 1 - lo) := by omega
  have e : n % 2 ^ lo + (v % 2 ^ (hi + 1 - lo)) * 2 ^ lo + (n / 2 ^ (hi + 1)) * 2 ^ (hi + 1) =
      2 ^ lo * (2 ^ (hi + 1 - lo) * (n / 2 ^ (hi + 1)) + v % 2 ^ (hi + 1 - lo)) + n % 2 ^ lo := by
    conv_lhs => rw [show (2 : Nat) ^ (hi + 1) = 2 ^ lo * 2 ^ (hi + 1 - lo) by rw [← pow_add, ← hk]]
    conv_rhs => rw [show (2 : Nat) ^ (hi + 1) = 2 ^ lo * 2 ^ (hi + 1 - lo) by rw [← pow_add, ← hk]]
    ring
  simp only [withBits, hn, BitVec.toNat_ofNat, Nat.testBit_mod_two_pow, e]
  congr 1
  rw [Nat.testBit_two_pow_mul_add _ (Nat.mod_lt _ (by positivity))]
  split
  · next hj => rw [if_neg (by omega), Nat.testBit_mod_two_pow]; simp [hj]
  · next hj =>
    rw [Nat.testBit_two_pow_mul_add _ (Nat.mod_lt _ (by positivity))]
    split
    · next hj2 => rw [if_pos (by omega), Nat.testBit_mod_two_pow]; simp [hj2]
    · next hj2 =>
      rw [if_neg (by omega), Nat.testBit_div_two_pow]
      congr 1; omega

theorem bitsOf_testBit (hi lo : Nat) (w : Word) (j : Nat) :
    (bitsOf hi lo w).testBit j = (decide (j < hi + 1 - lo) && w.toNat.testBit (lo + j)) := by
  simp [bitsOf, Nat.testBit_mod_two_pow, Nat.testBit_shiftRight]

/-- A field reads as what was written to it. -/
theorem bitsOf_withBits_self {hi lo : Nat} (h : lo ≤ hi) (hh : hi < 32) (v : Nat) (w : Word) :
    bitsOf hi lo (withBits hi lo v w) = v % 2 ^ (hi + 1 - lo) := by
  apply Nat.eq_of_testBit_eq
  intro j
  rw [bitsOf_testBit, withBits_testBit h hh, Nat.testBit_mod_two_pow]
  by_cases hj : j < hi + 1 - lo
  · simp only [hj, decide_true, Bool.true_and]
    rw [if_pos (by omega), decide_eq_true (show lo + j < 32 by omega)]
    simp
  · simp [hj]

/-- A field that does not overlap the written one is unchanged. -/
theorem bitsOf_withBits_ne {hi lo hi' lo' : Nat} (h : lo ≤ hi) (hh : hi < 32) (hh' : hi' < 32)
    (hd : hi < lo' ∨ hi' < lo) (v : Nat) (w : Word) : bitsOf hi' lo' (withBits hi lo v w) = bitsOf hi' lo' w := by
  apply Nat.eq_of_testBit_eq
  intro j
  rw [bitsOf_testBit, bitsOf_testBit, withBits_testBit h hh]
  by_cases hj : j < hi' + 1 - lo'
  · simp only [hj, decide_true, Bool.true_and]
    rw [if_neg (by omega), decide_eq_true (show lo' + j < 32 by omega), Bool.true_and]
  · simp [hj]

theorem bitsOf_lt (hi lo : Nat) (w : Word) : bitsOf hi lo w < 2 ^ (hi + 1 - lo) := Nat.mod_lt _ (by positivity)

end Sys2Proof
end

