-- ==== Sys2Proof/Laws/Flits.lean ====
section
/-! SUPPORT. A flit that this model builds is one its receiver takes as good (R319). -/
namespace Sys2Proof.Laws
open Sys2Proof

theorem crcBit_lt {c : Nat} (h : c < 2 ^ 32) : crcBit c < 2 ^ 32 := by
  unfold crcBit
  split
  · exact Nat.xor_lt_two_pow (by omega) (by omega)
  · omega

theorem crcByte_lt {c : Nat} (h : c < 2 ^ 32) (b : Byte) : crcByte c b < 2 ^ 32 := by
  unfold crcByte
  have : c ^^^ b.toNat < 2 ^ 32 := Nat.xor_lt_two_pow h (by have := b.isLt; omega)
  iterate 8 apply crcBit_lt
  exact this

/-- A CRC-32C is 32 bits wide. -/
theorem crc32c_lt (bs : List Byte) : crc32c bs < 2 ^ 32 := by
  have h : ∀ (l : List Byte) (c : Nat), c < 2 ^ 32 → l.foldl crcByte c < 2 ^ 32 := by
    intro l
    induction l with
    | nil => exact fun c h => h
    | cons b l ih => exact fun c h => ih _ (crcByte_lt h b)
  exact Nat.xor_lt_two_pow (h bs _ (by decide)) (by decide)

@[simp] theorem leBytes_length (n v : Nat) : (leBytes n v).length = n := by
  induction n generalizing v with
  | zero => rfl
  | succ n ih => simp [leBytes, ih]

/-- The bytes of a value give it back. -/
theorem leVal_leBytes (n v : Nat) (h : v < 256 ^ n) : leVal (leBytes n v) = v := by
  induction n generalizing v with
  | zero => simp at h; simp [leBytes, leVal, h]
  | succ n ih =>
    have : v / 256 < 256 ^ n := by rw [Nat.div_lt_iff_lt_mul (by decide)]; rw [Nat.pow_succ] at h; exact h
    simp [leBytes, leVal, ih _ this]
    omega

@[simp] theorem padTo_length (n : Nat) (l : List Byte) : (padTo n l).length = n := by
  simp [padTo]; omega

@[simp] theorem flitCovered_length (h : FlitHead) (p : List Byte) : (flitCovered h p).length = 0x270 := by
  simp [flitCovered]

/-- A flit passes its CRC where it arrives whole. -/
theorem flitBytes_good (h : FlitHead) (p : List Byte) : (RxFlit.mk false true 0 (flitBytes h p)).view.good = true := by
  have hc : leVal (leBytes 4 (crc32c (flitCovered h p))) = crc32c (flitCovered h p) :=
    leVal_leBytes _ _ (by have := crc32c_lt (flitCovered h p); omega)
  have hl := flitCovered_length h p
  have ht : (flitBytes h p).take 0x270 = flitCovered h p := by
    simp only [flitBytes, List.append_assoc]
    rw [List.take_append_of_le_length (by omega), List.take_of_length_le (by omega)]
  have hd : leAt 0x270 4 (flitBytes h p) = crc32c (flitCovered h p) := by
    simp only [leAt, slice, flitBytes, List.append_assoc]
    rw [List.drop_append_of_le_length (by omega), List.drop_of_length_le (by omega), List.nil_append,
      List.take_append_of_le_length (by simp), List.take_of_length_le (by simp), hc]
  simp [RxFlit.view, ht, hd]
  simp [flitBytes]

end Sys2Proof.Laws
end

