-- ==== Sys2Proof/Laws/Sparse.lean ====
section
/-! SUPPORT. What the sparse tables do: a read after a write, and that every operation keeps the canonical form. -/
namespace Sys2Proof

variable {α : Type}

/-- Keys strictly rising from `lo`. -/
def spSorted : Nat → List (Nat × α) → Prop
  | _, [] => True
  | lo, (k, _) :: r => lo ≤ k ∧ spSorted (k + 1) r

theorem spSorted_mono {lo lo' : Nat} {m : List (Nat × α)} (h : spSorted lo m) (hl : lo' ≤ lo) : spSorted lo' m := by
  cases m with
  | nil => trivial
  | cons e r => exact ⟨Nat.le_trans hl h.1, h.2⟩

theorem spWfFrom_iff [DecidableEq α] (d : Nat → α) (lo : Nat) (m : List (Nat × α)) :
    spWfFrom d lo m = true ↔ spSorted lo m ∧ ∀ e ∈ m, e.2 ≠ d e.1 := by
  induction m generalizing lo with
  | nil => simp [spWfFrom, spSorted]
  | cons e r ih =>
    obtain ⟨k, v⟩ := e
    simp only [spWfFrom, Bool.and_eq_true, decide_eq_true_eq, ih, spSorted, List.mem_cons, forall_eq_or_imp]
    tauto

theorem spWf_iff [DecidableEq α] (d : Nat → α) (m : List (Nat × α)) :
    spWf d m = true ↔ spSorted 0 m ∧ ∀ e ∈ m, e.2 ≠ d e.1 := spWfFrom_iff d 0 m

theorem spGet_of_lt {lo a : Nat} {m : List (Nat × α)} (d : α) (h : spSorted lo m) (ha : a < lo) : spGet d m a = d := by
  cases m with
  | nil => rfl
  | cons e r =>
    obtain ⟨k, v⟩ := e
    have h1 := h.1
    simp only [spGet]
    rw [if_neg (by omega), if_pos (by omega)]

theorem spGet_spPut_self (d : α) (a : Nat) (v : α) (m : List (Nat × α)) : spGet d (spPut a v m) a = v := by
  induction m with
  | nil => simp [spPut, spGet]
  | cons e r ih =>
    obtain ⟨k, w⟩ := e
    simp only [spPut]
    split
    · next h => subst h; simp [spGet]
    · next h =>
      split
      · simp [spGet]
      · next h2 => simp only [spGet, if_neg h, if_neg h2, ih]

theorem spGet_spPut_ne (d : α) {a b : Nat} (hab : b ≠ a) (v : α) (m : List (Nat × α)) :
    spGet d (spPut a v m) b = spGet d m b := by
  induction m with
  | nil => simp [spPut, spGet, hab]
  | cons e r ih =>
    obtain ⟨k, w⟩ := e
    simp only [spPut]
    split
    · next h => subst h; simp [spGet, hab]
    · next h =>
      split
      · next h2 =>
        simp only [spGet, if_neg hab]
        by_cases hb : b < a
        · rw [if_pos hb, if_neg (by omega), if_pos (by omega)]
        · rw [if_neg hb]
      · next h2 => simp only [spGet, ih]

theorem spGet_spDel_self (d : α) (a : Nat) {lo : Nat} {m : List (Nat × α)} (h : spSorted lo m) :
    spGet d (spDel a m) a = d := by
  induction m generalizing lo with
  | nil => rfl
  | cons e r ih =>
    obtain ⟨k, w⟩ := e
    simp only [spDel]
    split
    · next hk => subst hk; exact spGet_of_lt d h.2 (Nat.lt_succ_self _)
    · next hk =>
      split
      · next h2 => simp only [spGet, if_neg hk, if_pos h2]
      · next h2 => simp only [spGet, if_neg hk, if_neg h2, ih h.2]

theorem spGet_spDel_ne (d : α) {a b : Nat} (hab : b ≠ a) {lo : Nat} {m : List (Nat × α)} (h : spSorted lo m) :
    spGet d (spDel a m) b = spGet d m b := by
  induction m generalizing lo with
  | nil => rfl
  | cons e r ih =>
    obtain ⟨k, w⟩ := e
    simp only [spDel]
    split
    · next hk =>
      subst hk
      by_cases hb : b < a
      · rw [spGet_of_lt d h.2 (by omega)]; simp only [spGet, if_neg hab, if_pos hb]
      · simp only [spGet, if_neg hab, if_neg hb]
    · next hk =>
      split
      · rfl
      · simp only [spGet, ih h.2]

/-- A read after a write at the same key. -/
theorem spGet_spSet_self [DecidableEq α] (d : α) (a : Nat) (v : α) {lo : Nat} {m : List (Nat × α)} (h : spSorted lo m) :
    spGet d (spSet d a v m) a = v := by
  simp only [spSet]
  split
  · next hv => rw [spGet_spDel_self d a h, hv]
  · exact spGet_spPut_self d a v m

/-- A write leaves every other key alone. -/
theorem spGet_spSet_ne [DecidableEq α] (d d' : α) {a b : Nat} (hab : b ≠ a) (v : α) {lo : Nat} {m : List (Nat × α)}
    (h : spSorted lo m) : spGet d' (spSet d a v m) b = spGet d' m b := by
  simp only [spSet]
  split
  · exact spGet_spDel_ne d' hab h
  · exact spGet_spPut_ne d' hab v m

theorem spSorted_spPut {a lo : Nat} (v : α) {m : List (Nat × α)} (h : spSorted lo m) (ha : lo ≤ a) :
    spSorted lo (spPut a v m) := by
  induction m generalizing lo with
  | nil => exact ⟨ha, trivial⟩
  | cons e r ih =>
    obtain ⟨k, w⟩ := e
    have h1 := h.1
    simp only [spPut]
    split
    · next hk => exact ⟨h1, h.2⟩
    · next hk =>
      split
      · next h2 => exact ⟨ha, by omega, h.2⟩
      · next h2 => exact ⟨h1, ih h.2 (by omega)⟩

theorem spSorted_spDel {a lo : Nat} {m : List (Nat × α)} (h : spSorted lo m) : spSorted lo (spDel a m) := by
  induction m generalizing lo with
  | nil => trivial
  | cons e r ih =>
    obtain ⟨k, w⟩ := e
    have h1 := h.1
    simp only [spDel]
    split
    · exact spSorted_mono h.2 (by omega)
    · split
      · exact h
      · exact ⟨h1, ih h.2⟩

theorem spSorted_filter {lo : Nat} (p : Nat × α → Bool) {m : List (Nat × α)} (h : spSorted lo m) :
    spSorted lo (m.filter p) := by
  induction m generalizing lo with
  | nil => trivial
  | cons e r ih =>
    obtain ⟨k, w⟩ := e
    have h1 := h.1
    simp only [List.filter_cons]
    split
    · exact ⟨h1, ih h.2⟩
    · exact spSorted_mono (ih h.2) (by omega)

theorem mem_spPut {a : Nat} {v : α} {m : List (Nat × α)} {e : Nat × α} (h : e ∈ spPut a v m) : e = (a, v) ∨ e ∈ m := by
  induction m with
  | nil => simpa [spPut] using h
  | cons x r ih =>
    obtain ⟨k, w⟩ := x
    simp only [spPut] at h
    split at h
    · next hk => subst hk; simp only [List.mem_cons] at h ⊢; tauto
    · split at h
      · simpa using h
      · simp only [List.mem_cons] at h ⊢
        rcases h with h | h
        · tauto
        · rcases ih h with h | h <;> tauto

theorem mem_spDel {a : Nat} {m : List (Nat × α)} {e : Nat × α} (h : e ∈ spDel a m) : e ∈ m := by
  induction m with
  | nil => exact h
  | cons x r ih =>
    obtain ⟨k, w⟩ := x
    simp only [spDel] at h
    split at h
    · exact List.mem_cons_of_mem _ h
    · split at h
      · exact h
      · simp only [List.mem_cons] at h ⊢
        rcases h with h | h
        · exact .inl h
        · exact .inr (ih h)

/-- A write keeps the canonical form. -/
theorem spWf_spSet [DecidableEq α] (d : Nat → α) (a : Nat) (v : α) {m : List (Nat × α)} (h : spWf d m = true) :
    spWf d (spSet (d a) a v m) = true := by
  rw [spWf_iff] at h ⊢
  simp only [spSet]
  split
  · exact ⟨spSorted_spDel h.1, fun e he => h.2 e (mem_spDel he)⟩
  · next hv =>
    refine ⟨spSorted_spPut v h.1 (Nat.zero_le _), fun e he => ?_⟩
    rcases mem_spPut he with rfl | he
    · exact hv
    · exact h.2 e he

/-- Dropping entries keeps the canonical form. -/
theorem spWf_filter [DecidableEq α] (d : Nat → α) (p : Nat × α → Bool) {m : List (Nat × α)} (h : spWf d m = true) :
    spWf d (m.filter p) = true := by
  rw [spWf_iff] at h ⊢
  exact ⟨spSorted_filter p h.1, fun e he => h.2 e (List.mem_of_mem_filter he)⟩

theorem spWf_spErase [DecidableEq α] (d : Nat → α) (lo hi : Nat) {m : List (Nat × α)} (h : spWf d m = true) :
    spWf d (spErase lo hi m) = true := spWf_filter d _ h

/-- Writing a run of values keeps the canonical form. -/
theorem spWf_spWriteAll [DecidableEq α] (d : α) (a : Nat) (vs : List α) {m : List (Nat × α)}
    (h : spWf (fun _ => d) m = true) : spWf (fun _ => d) (spWriteAll d a vs m) = true := by
  induction vs generalizing a m with
  | nil => exact h
  | cons v vs ih => exact ih (a + 1) (spWf_spSet (fun _ => d) a v h)

end Sys2Proof
end

