-- ==== Sys2Proof/Laws/Keeps.lean ====
section
/-! SUPPORT. What every operation of the machine keeps: the ordering code, the queue of commands, the invariant of
Safety.lean and, but for the burning of fuses, the fuses. Stated as a relation, so that it chains. -/
namespace Sys2Proof.Machine

/-- `t` keeps of `s` what no command changes; with `fz` the fuses too. -/
structure Keeps (fz : Bool) (s t : State) : Prop where
  code : t.code = s.code
  pending : t.pending = s.pending
  fuses : fz = true → sameFuses s.rcp t.rcp
  grow : fusesGrow s.rcp t.rcp
  wf : s.wf = true → t.wf = true

variable {fz : Bool} {s0 s t : State}

theorem FuseSlot.grows_refl (f : FuseSlot) : f.grows f := ⟨fun _ h => h, fun h => ⟨h, rfl⟩, fun h => h⟩

theorem FuseSlot.grows_trans {f g h : FuseSlot} (a : f.grows g) (b : g.grows h) : f.grows h :=
  ⟨fun i hi => b.1 i (a.1 i hi), fun v => ⟨(b.2.1 (a.2.1 v).1).1, (b.2.1 (a.2.1 v).1).2.trans (a.2.1 v).2⟩,
    fun v => b.2.2 (a.2.2 v)⟩

theorem fusesGrow_refl (r : RcpState) : fusesGrow r r := ⟨rfl, fun _ => FuseSlot.grows_refl _, Nat.le_refl _⟩

theorem fusesGrow_trans {a b c : RcpState} (h : fusesGrow a b) (k : fusesGrow b c) : fusesGrow a c :=
  ⟨k.1.trans h.1, fun i => FuseSlot.grows_trans (h.2.1 i) (k.2.1 i), Nat.le_trans h.2.2 k.2.2⟩

theorem fusesGrow_of_same {r q : RcpState} (h : sameFuses r q) : fusesGrow r q := by
  obtain ⟨h1, h2⟩ := h
  refine ⟨by rw [h1], fun i => ?_, by rw [h2]⟩
  rw [h1]; exact FuseSlot.grows_refl _

theorem Keeps.refl (fz : Bool) (s : State) : Keeps fz s s :=
  ⟨rfl, rfl, fun _ => ⟨rfl, rfl⟩, fusesGrow_refl _, id⟩

theorem Keeps.trans (h : Keeps fz s0 s) (k : Keeps fz s t) : Keeps fz s0 t :=
  ⟨k.code.trans h.code, k.pending.trans h.pending,
    fun z => ⟨(k.fuses z).1.trans (h.fuses z).1, (k.fuses z).2.trans (h.fuses z).2⟩, fusesGrow_trans h.grow k.grow,
    fun w => k.wf (h.wf w)⟩

/-- A change of fields that `Keeps` does not speak of. -/
theorem Keeps.upd (h : Keeps fz s0 s) (hc : t.code = s.code) (hp : t.pending = s.pending)
    (hs : t.rcp.slots = s.rcp.slots) (hr : t.rcp.rollback = s.rcp.rollback) (hg : t.regs = s.regs)
    (hd : t.mem.dram = s.mem.dram) (ho : t.mem.poison = s.mem.poison) (hy : t.mem.pantry = s.mem.pantry)
    (hi : t.zen.insts = s.zen.insts) (hq : t.flt.queue = s.flt.queue) : Keeps fz s0 t := by
  refine h.trans ⟨hc, hp, fun _ => ⟨hs, hr⟩, fusesGrow_of_same ⟨hs, hr⟩, fun w => ?_⟩
  simp only [State.wf, MemState.wf, ZenState.wf, ZenState.running, hg, hd, ho, hy, hi, hq] at w ⊢
  exact w

/-- A change of fields that `Keeps` does not speak of, as the elaborator leaves it. -/
theorem Keeps.updMk {epoch' : Nat} {usCount' : Nat} {mono' : Nat} {pwr' : PwrState} {zen' : ZenState} {flt' :
    FltState} {awt' : Option AwtTables} {pcie' : PcieState} {side' : SideState} {fab' : FabState} {ovens' : List
    (Nat × Oven)} {mem' : MemState} {ctx' : CtxState} {str' : StrState} {mer' : MerState} {vid' : VidState} {orb' :
    OrbState} {pace' : PaceState} {nw' : NwState} {rcp' : RcpState} {port' : List PortEvent} {freeCtr' : Nat} (h :
    Keeps fz s0 s)
    (hs : rcp'.slots = s.rcp.slots) (hr : rcp'.rollback = s.rcp.rollback) (hd : mem'.dram = s.mem.dram)
    (ho : mem'.poison = s.mem.poison) (hy : mem'.pantry = s.mem.pantry) (hi : zen'.insts = s.zen.insts)
    (hq : flt'.queue = s.flt.queue) : Keeps fz s0 ⟨s.code, epoch', usCount', mono', s.regs, pwr', zen', flt', awt',
        pcie', side', fab', ovens', mem', ctx', str', mer', vid', orb', pace', nw', rcp', s.pending, port',
        freeCtr'⟩ :=
  h.upd rfl rfl hs hr rfl hd ho hy hi hq

theorem wf_parts : s.wf = true ↔ spWf regReset s.regs = true ∧ s.mem.wf = true ∧ s.zen.wf = true ∧
    s.flt.queue.length ≤ 64 := by
  simp only [State.wf, Bool.and_eq_true, decide_eq_true_eq, and_assoc]

/-- A change of any field that keeps the fuses and the invariant. -/
theorem Keeps.updMkW {epoch' : Nat} {usCount' : Nat} {mono' : Nat} {regs' : List (Nat × Word)} {pwr' : PwrState}
    {zen' : ZenState} {flt' : FltState} {awt' : Option AwtTables} {pcie' : PcieState} {side' : SideState} {fab' :
    FabState} {ovens' : List (Nat × Oven)} {mem' : MemState} {ctx' : CtxState} {str' : StrState} {mer' : MerState}
    {vid' : VidState} {orb' : OrbState} {pace' : PaceState} {nw' : NwState} {rcp' : RcpState} {port' : List
    PortEvent} {freeCtr' : Nat} (h : Keeps fz s0 s)
    (hs : rcp'.slots = s.rcp.slots) (hr : rcp'.rollback = s.rcp.rollback)
    (hg : spWf regReset s.regs = true → spWf regReset regs' = true) (hm : s.mem.wf = true → mem'.wf = true)
    (hz : s.zen.wf = true → zen'.wf = true) (hq : s.flt.queue.length ≤ 64 → flt'.queue.length ≤ 64) :
    Keeps fz s0 ⟨s.code, epoch', usCount', mono', regs', pwr', zen', flt', awt', pcie', side', fab', ovens', mem',
    ctx', str', mer', vid', orb', pace', nw', rcp', s.pending, port', freeCtr'⟩ := by
  refine h.trans ⟨rfl, rfl, fun _ => ⟨hs, hr⟩, fusesGrow_of_same ⟨hs, hr⟩, fun w => ?_⟩
  rw [wf_parts] at w ⊢
  exact ⟨hg w.1, hm w.2.1, hz w.2.2.1, hq w.2.2.2⟩

/-- A change of the registers alone. -/
theorem Keeps.updRegs (h : Keeps fz s0 s) (g : List (Nat × Word))
    (hg : spWf regReset s.regs = true → spWf regReset g = true) : Keeps fz s0 { s with regs := g } := by
  refine h.trans ⟨rfl, rfl, fun _ => ⟨rfl, rfl⟩, fusesGrow_refl _, fun w => ?_⟩
  rw [wf_parts] at w ⊢
  exact ⟨hg w.1, w.2⟩

theorem State.setReg_keeps (off : Nat) (v : Word) (h : Keeps fz s0 s) : Keeps fz s0 (s.setReg off v) :=
  h.updRegs _ (spWf_spSet regReset off v)

theorem State.resetRegs_keeps (lo hi : Nat) (h : Keeps fz s0 s) : Keeps fz s0 (s.resetRegs lo hi) :=
  h.updRegs _ (spWf_spErase regReset lo hi)

/-- A change of memory that keeps its form. -/
theorem Keeps.updMem (h : Keeps fz s0 s) (m : MemState) (hm : s.mem.wf = true → m.wf = true) :
    Keeps fz s0 { s with mem := m } := by
  refine h.trans ⟨rfl, rfl, fun _ => ⟨rfl, rfl⟩, fusesGrow_refl _, fun w => ?_⟩
  rw [wf_parts] at w ⊢
  exact ⟨w.1, hm w.2.1, w.2.2⟩

/-- A change of Zenith that keeps R177. -/
theorem Keeps.updZen (h : Keeps fz s0 s) (z : ZenState) (hz : s.zen.wf = true → z.wf = true) :
    Keeps fz s0 { s with zen := z } := by
  refine h.trans ⟨rfl, rfl, fun _ => ⟨rfl, rfl⟩, fusesGrow_refl _, fun w => ?_⟩
  rw [wf_parts] at w ⊢
  exact ⟨w.1, w.2.1, hz w.2.2.1, w.2.2.2⟩

theorem foldl_keeps {α : Type} {g : State → α → State} (hg : ∀ (s : State) (x : α), Keeps fz s0 s → Keeps fz s0 (g s x))
    (l : List α) (h : Keeps fz s0 s) : Keeps fz s0 (l.foldl g s) := by
  induction l generalizing s with
  | nil => exact h
  | cons x xs ih => exact ih (hg s x h)

theorem foldr_keeps {α : Type} {g : α → State → State} (hg : ∀ (x : α) (s : State), Keeps fz s0 s → Keeps fz s0 (g x s))
    (l : List α) (h : Keeps fz s0 s) : Keeps fz s0 (l.foldr g s) := by
  induction l with
  | nil => exact h
  | cons x xs ih => exact hg x _ ih

/-- What a next state of `ok` is. -/
theorem ok_next {f : State → State} (h : ok f s = .next t) : s.pwr.undef = false ∧ t = f s := by
  unfold ok at h
  split at h
  · cases h
  · next hu => cases h; exact ⟨by simpa using hu, rfl⟩

theorem ok_keeps {f : State → State} (h : ok f s = .next t) (hf : Keeps fz s (f s)) : Keeps fz s t := by
  rw [(ok_next h).2]; exact hf

theorem ite_keeps {c : Prop} [Decidable c] {a b : State} (ha : Keeps fz s0 a) (hb : Keeps fz s0 b) :
    Keeps fz s0 (if c then a else b) := by split <;> assumption

/-! ## Instances of Zenith (R177) -/

/-- Instances with the same Procedures, as many of them, keep R177. -/
theorem wf_insts_of_running {z z' : ZenState} (hl : z'.insts.length = z.insts.length) (hr : z'.running = z.running)
    (w : z.wf = true) : z'.wf = true := by
  simp only [ZenState.wf, hl, hr] at w ⊢
  exact w

theorem running_map (l : List (Option ZenInst)) (g : ZenInst → ZenInst) (hg : ∀ z, (g z).proc = z.proc) :
    ((l.map (Option.map g)).filterMap fun o => o.map ZenInst.proc) = l.filterMap fun o => o.map ZenInst.proc := by
  induction l with
  | nil => rfl
  | cons o r ih => cases o <;> simp_all

theorem running_modify (l : List (Option ZenInst)) (i : Nat) (g : ZenInst → ZenInst) (hg : ∀ z, (g z).proc = z.proc) :
    ((l.modify i (Option.map g)).filterMap fun o => o.map ZenInst.proc) = l.filterMap fun o => o.map ZenInst.proc := by
  induction l generalizing i with
  | nil => simp
  | cons o r ih => cases i <;> cases o <;> simp_all

theorem running_set_none (l : List (Option ZenInst)) (i : Nat) :
    ((l.set i none).filterMap fun o => o.map ZenInst.proc).Sublist (l.filterMap fun o => o.map ZenInst.proc) := by
  induction l generalizing i with
  | nil => simp
  | cons o r ih => cases i <;> cases o <;> simp_all

theorem nodup_set_some (l : List (Option ZenInst)) (i : Nat) (x : ZenInst)
    (hn : x.proc ∉ l.filterMap fun o => o.map ZenInst.proc) (hd : (l.filterMap fun o => o.map ZenInst.proc).Nodup) :
    ((l.set i (some x)).filterMap fun o => o.map ZenInst.proc).Nodup := by
  induction l generalizing i with
  | nil => simp
  | cons o r ih =>
    have hs : ∀ j, ((r.set j (some x)).filterMap fun o => o.map ZenInst.proc) ⊆
        x.proc :: r.filterMap fun o => o.map ZenInst.proc := by
      intro j
      clear ih hn hd
      induction r generalizing j with
      | nil => simp
      | cons q t iht =>
        cases j with
        | zero => cases q <;> simp <;> intro a ha <;> simp_all
        | succ j =>
          have := iht j
          cases q <;> simp_all [List.subset_def] <;> grind
    cases i with
    | zero => cases o <;> simp_all
    | succ i =>
      cases o with
      | none => simp_all
      | some q =>
        simp only [List.set_cons_succ, List.filterMap_cons, Option.map_some, List.nodup_cons, List.mem_cons,
          not_or] at hn hd ⊢
        refine ⟨fun hm => ?_, ih i hn.2 hd.2⟩
        rcases List.mem_cons.mp (hs i hm) with he | he
        · exact hn.1 he.symm
        · exact hd.1 he

end Sys2Proof.Machine
end

