-- ==== Sys2Proof/Laws/KeepsOps.lean ====
section
/-! SUPPORT. What the operations of Machine/Ops.lean keep (Laws/Keeps.lean). -/
namespace Sys2Proof.Machine

variable {fz : Bool} {s0 : State}

theorem State.fset_keeps (f : Fld) (v : Nat) (s : State) (hk : Keeps fz s0 s) : Keeps fz s0 (State.fset f v s) := by
  unfold State.fset
  repeat' first
    | (with_reducible assumption)
    | (intro _)
    | (with_reducible apply ite_keeps)
    | (with_reducible apply State.setReg_keeps)
    | split
    | dsimp only

theorem State.fadd_keeps (f : Fld) (n : Nat) (s : State) (hk : Keeps fz s0 s) : Keeps fz s0 (State.fadd f n s) := by
  unfold State.fadd
  repeat' first
    | (with_reducible assumption)
    | (intro _)
    | (with_reducible apply ite_keeps)
    | (with_reducible apply State.fset_keeps)
    | split
    | dsimp only

theorem State.fsat_keeps (f : Fld) (s : State) (hk : Keeps fz s0 s) : Keeps fz s0 (State.fsat f s) := by
  unfold State.fsat
  repeat' first
    | (with_reducible assumption)
    | (intro _)
    | (with_reducible apply ite_keeps)
    | (with_reducible apply State.fset_keeps)
    | split
    | dsimp only

theorem State.setPair_keeps (lo hi v : Nat) (s : State) (hk : Keeps fz s0 s) : Keeps fz s0 (State.setPair lo hi v s)
    := by
  unfold State.setPair
  repeat' first
    | (with_reducible assumption)
    | (intro _)
    | (with_reducible apply ite_keeps)
    | (with_reducible apply State.setReg_keeps)
    | split
    | dsimp only

theorem State.out_keeps (e : PortEvent) (s : State) (hk : Keeps fz s0 s) : Keeps fz s0 (State.out e s) := by
  unfold State.out
  repeat' first
    | (with_reducible assumption)
    | (intro _)
    | (with_reducible apply ite_keeps)
    | split
    | dsimp only
    | (fail_if_no_progress with_reducible refine Keeps.updMk ?_ rfl rfl rfl rfl rfl rfl rfl)

theorem State.free_keeps (s : State) (hk : Keeps fz s0 s) : Keeps fz s0 (State.free s).2 := by
  unfold State.free
  repeat' first
    | (with_reducible assumption)
    | (intro _)
    | (with_reducible apply ite_keeps)
    | split
    | dsimp only
    | (fail_if_no_progress with_reducible refine Keeps.updMk ?_ rfl rfl rfl rfl rfl rfl rfl)

theorem State.free_keeps'  {s : State} {res : Word} {u : State} (heq : State.free s = (res, u)) (hk : Keeps fz s0 s)
    : Keeps fz s0 u := by
  have k := State.free_keeps s hk
  rw [heq] at k
  exact k

theorem State.setCfgWord_keeps (f : HostFn) (off : Nat) (v : Word) (s : State) (hk : Keeps fz s0 s) : Keeps fz s0
    (State.setCfgWord f off v s) := by
  unfold State.setCfgWord
  repeat' first
    | (with_reducible assumption)
    | (intro _)
    | (with_reducible apply ite_keeps)
    | split
    | dsimp only
    | (fail_if_no_progress with_reducible refine Keeps.updMk ?_ rfl rfl rfl rfl rfl rfl rfl)

theorem State.setMsix_keeps (f : HostFn) (v : Nat) (e : MsixEntry) (s : State) (hk : Keeps fz s0 s) : Keeps fz s0
    (State.setMsix f v e s) := by
  unfold State.setMsix
  repeat' first
    | (with_reducible assumption)
    | (intro _)
    | (with_reducible apply ite_keeps)
    | split
    | dsimp only
    | (fail_if_no_progress with_reducible refine Keeps.updMk ?_ rfl rfl rfl rfl rfl rfl rfl)

theorem messageDue_keeps (f : HostFn) (v : Nat) (s : State) (hk : Keeps fz s0 s) : Keeps fz s0 (messageDue f v s) :=
    by
  unfold messageDue
  repeat' first
    | (with_reducible assumption)
    | (intro _)
    | (with_reducible apply ite_keeps)
    | (with_reducible apply State.fadd_keeps)
    | (with_reducible apply State.setMsix_keeps)
    | (with_reducible apply State.out_keeps)
    | split
    | dsimp only

theorem signalMisc_keeps (v : Nat) (s : State) (hk : Keeps fz s0 s) : Keeps fz s0 (signalMisc v s) := by
  unfold signalMisc
  repeat' first
    | (with_reducible assumption)
    | (intro _)
    | (with_reducible apply ite_keeps)
    | (with_reducible apply messageDue_keeps)
    | split
    | dsimp only

theorem advanceSeq_keeps (f : Fld) (v : Nat) (s : State) (hk : Keeps fz s0 s) : Keeps fz s0 (advanceSeq f v s) := by
  unfold advanceSeq
  repeat' first
    | (with_reducible assumption)
    | (intro _)
    | (with_reducible apply ite_keeps)
    | (with_reducible apply signalMisc_keeps)
    | (with_reducible apply State.fadd_keeps)
    | split
    | dsimp only

theorem logFault_keeps (kind flags master target detail addr : Nat) (s : State) (hk : Keeps fz s0 s) : Keeps fz s0
    (logFault kind flags master target detail addr s) := by
  unfold logFault
  repeat' first
    | (with_reducible assumption)
    | (intro _)
    | (with_reducible apply ite_keeps)
    | (with_reducible apply State.fadd_keeps)
    | (with_reducible apply State.fset_keeps)
    | split
    | dsimp only
    | (fail_if_no_progress with_reducible refine Keeps.updMk ?_ rfl rfl rfl rfl rfl rfl rfl)
    | (refine Keeps.updMkW ?_ rfl rfl id id id (fun _ => by simp only [List.length_take]; omega))

theorem syncZen_keeps (s : State) (hk : Keeps fz s0 s) : Keeps fz s0 (syncZen s) := by
  unfold syncZen
  repeat' first
    | (with_reducible assumption)
    | (intro _)
    | (with_reducible apply ite_keeps)
    | (with_reducible apply State.fset_keeps)
    | (with_reducible apply foldl_keeps)
    | split
    | dsimp only

theorem running_set_some {z : ZenState} {i : Nat} (x : ZenInst) (hf : z.freeInst = some i)
    (hr : z.runs x.proc = false) (w : z.wf = true) : ({ z with insts := z.insts.set i (some x) } : ZenState).wf =
        true := by
  simp only [ZenState.wf, ZenState.running, Bool.and_eq_true, beq_iff_eq] at w ⊢
  refine ⟨by simpa using w.1, decide_eq_true ?_⟩
  have hn : x.proc ∉ z.insts.filterMap fun o => o.map ZenInst.proc := by
    intro hm
    simp only [List.mem_filterMap, Option.map_eq_some_iff] at hm
    obtain ⟨_, ho, y, rfl, hy⟩ := hm
    simp only [ZenState.runs, List.any_eq_false] at hr
    have := hr _ ho
    simp [hy] at this
  exact nodup_set_some _ i x hn (of_decide_eq_true w.2)

theorem startInst_keeps (r : ZenReq) (s : State) (hr : s.zen.runs r.proc = false) (h : Keeps fz s0 s) :
    Keeps fz s0 (startInst r s) := by
  unfold startInst
  split
  · next i t hf ht =>
    apply syncZen_keeps
    exact h.updZen _ (running_set_some _ hf hr)
  · exact h

theorem dropStart_keeps (p : Nat) (s : State) (hk : Keeps fz s0 s) : Keeps fz s0 (dropStart p s) := by
  unfold dropStart
  repeat' first
    | (with_reducible assumption)
    | (intro _)
    | (with_reducible apply ite_keeps)
    | (with_reducible apply State.fsat_keeps)
    | split
    | dsimp only

theorem startRequest_keeps (proc cause : Nat) (arg : Word) (s : State) (h : Keeps fz s0 s) :
    Keeps fz s0 (startRequest proc cause arg s) := by
  unfold startRequest
  dsimp only
  split
  · exact dropStart_keeps _ _ h
  · split
    · next hc => exact startInst_keeps _ _ (by simpa using (Bool.and_eq_true_iff.mp hc).1) h
    · split
      · split
        · exact h.updMk rfl rfl rfl rfl rfl rfl rfl
        · exact dropStart_keeps _ _ h
      · split
        · exact h.updMk rfl rfl rfl rfl rfl rfl rfl
        · exact dropStart_keeps _ _ (h.updMk rfl rfl rfl rfl rfl rfl rfl)
      · exact dropStart_keeps _ _ h

theorem raiseZen_keeps (e : Nat) (s : State) (h : Keeps fz s0 s) : Keeps fz s0 (raiseZen e s) := by
  unfold raiseZen
  have k : Keeps fz s0 { s with zen := { s.zen with
      insts := s.zen.insts.map (Option.map fun z => { z with inst := z.inst.arrive e }) } } :=
    h.updZen _ (wf_insts_of_running (by simp) (running_map _ _ fun _ => rfl))
  dsimp only
  split
  · exact startRequest_keeps _ _ _ _ k
  · exact k

theorem onInst_keeps (i : Nat) (g : ZenInst → ZenInst) (s : State) (hg : ∀ z, (g z).proc = z.proc)
    (h : Keeps fz s0 s) : Keeps fz s0 (onInst i g s) :=
  h.updZen _ (wf_insts_of_running (by simp) (running_modify _ _ _ hg))

theorem writeDone_keeps (i : Nat) (s : State) (h : Keeps fz s0 s) : Keeps fz s0 (writeDone i s) :=
  onInst_keeps _ _ _ (fun _ => rfl) h

end Sys2Proof.Machine
end

