-- ==== Sys2Proof/Laws/KeepsAccess.lean ====
section
/-! SUPPORT. What the operations of Machine/Access.lean keep (Laws/Keeps.lean). -/
namespace Sys2Proof.Machine

variable {fz : Bool} {s0 : State}

theorem denyAccess_keeps (t m flags addr : Nat) (s : State) (hk : Keeps fz s0 s) : Keeps fz s0 (denyAccess t m flags
    addr s) := by
  unfold denyAccess
  repeat' first
    | (with_reducible assumption)
    | (intro _)
    | (with_reducible apply ite_keeps)
    | (with_reducible apply logFault_keeps)
    | (with_reducible apply State.fadd_keeps)
    | split
    | dsimp only

theorem gateFaults_keeps (g : RegGate) (m : Nat) (write : Bool) (off : Nat) (s : State) (hk : Keeps fz s0 s) : Keeps
    fz s0 (gateFaults g m write off s) := by
  unfold gateFaults
  repeat' first
    | (with_reducible assumption)
    | (intro _)
    | (with_reducible apply ite_keeps)
    | (with_reducible apply denyAccess_keeps)
    | (with_reducible apply logFault_keeps)
    | split
    | dsimp only

theorem hostWrite_keeps (f : HostFn) (off : Nat) (act : State → State) (s : State) (hact : ∀ (s : State), Keeps fz
    s0 s → Keeps fz s0 (act s)) (hk : Keeps fz s0 s) : Keeps fz s0 (hostWrite f off act s) := by
  unfold hostWrite
  repeat' first
    | (with_reducible assumption)
    | (intro _)
    | (with_reducible apply ite_keeps)
    | (apply hact)
    | (with_reducible apply gateFaults_keeps)
    | split
    | dsimp only

end Sys2Proof.Machine
end

