-- ==== Sys2Proof/Laws/KeepsFabric.lean ====
section
/-! SUPPORT. What the operations of Machine/Fabric.lean keep (Laws/Keeps.lean). -/
namespace Sys2Proof.Machine

variable {fz : Bool} {s0 : State}

theorem latchMv_keeps (s : State) (hk : Keeps fz s0 s) : Keeps fz s0 (latchMv s) := by
  unfold latchMv
  repeat' first
    | (with_reducible assumption)
    | (intro _)
    | (with_reducible apply ite_keeps)
    | split
    | dsimp only
    | (fail_if_no_progress with_reducible refine Keeps.updMk ?_ rfl rfl rfl rfl rfl rfl rfl)

theorem State.onBakery_keeps (b : Nat) (g : Bakery → Bakery) (s : State) (hk : Keeps fz s0 s) : Keeps fz s0
    (State.onBakery b g s) := by
  unfold State.onBakery
  repeat' first
    | (with_reducible assumption)
    | (intro _)
    | (with_reducible apply ite_keeps)
    | split
    | dsimp only
    | (fail_if_no_progress with_reducible refine Keeps.updMk ?_ rfl rfl rfl rfl rfl rfl rfl)

theorem setMeter_keeps (t g v : Nat) (s : State) (hk : Keeps fz s0 s) : Keeps fz s0 (setMeter t g v s) := by
  unfold setMeter
  repeat' first
    | (with_reducible assumption)
    | (intro _)
    | (with_reducible apply ite_keeps)
    | split
    | dsimp only
    | (fail_if_no_progress with_reducible refine Keeps.updMk ?_ rfl rfl rfl rfl rfl rfl rfl)

theorem meterStep_keeps (n t g : Nat) (s : State) (hk : Keeps fz s0 s) : Keeps fz s0 (meterStep n t g s) := by
  unfold meterStep
  repeat' first
    | (with_reducible assumption)
    | (intro _)
    | (with_reducible apply ite_keeps)
    | (with_reducible apply setMeter_keeps)
    | split
    | dsimp only

theorem gainMeters_keeps (s : State) (hk : Keeps fz s0 s) : Keeps fz s0 (gainMeters s) := by
  unfold gainMeters
  repeat' first
    | (with_reducible assumption)
    | (intro _)
    | (with_reducible apply ite_keeps)
    | (with_reducible apply meterStep_keeps)
    | (with_reducible apply foldl_keeps)
    | split
    | dsimp only
    | (fail_if_no_progress with_reducible refine Keeps.updMk ?_ rfl rfl rfl rfl rfl rfl rfl)

theorem execMeterGain_keeps (s : State) {t : State} (e : execMeterGain s = .next t) : Keeps true s t :=
  ok_keeps e (gainMeters_keeps _ (Keeps.refl _ _))

theorem charge_keeps (t : Nat) (ch : Chosen) (s : State) (hk : Keeps fz s0 s) : Keeps fz s0 (charge t ch s) := by
  unfold charge
  repeat' first
    | (with_reducible assumption)
    | (intro _)
    | (with_reducible apply ite_keeps)
    | (with_reducible apply setMeter_keeps)
    | (with_reducible apply State.fadd_keeps)
    | split
    | dsimp only
    | (fail_if_no_progress with_reducible refine Keeps.updMk ?_ rfl rfl rfl rfl rfl rfl rfl)

theorem slotMoved_keeps (b : Nat) (s : State) (hk : Keeps fz s0 s) : Keeps fz s0 (slotMoved b s) := by
  unfold slotMoved
  repeat' first
    | (with_reducible assumption)
    | (intro _)
    | (with_reducible apply ite_keeps)
    | (with_reducible apply State.fset_keeps)
    | (with_reducible apply State.onBakery_keeps)
    | split
    | dsimp only

theorem stallBakery_keeps (b : Nat) (s : State) (hk : Keeps fz s0 s) : Keeps fz s0 (stallBakery b s) := by
  unfold stallBakery
  repeat' first
    | (with_reducible assumption)
    | (intro _)
    | (with_reducible apply ite_keeps)
    | (with_reducible apply logFault_keeps)
    | (with_reducible apply signalMisc_keeps)
    | (with_reducible apply State.fset_keeps)
    | split
    | dsimp only

theorem execBakeryStall_keeps (bakery : Fin 16) (s : State) {nx : State} (hn : execBakeryStall bakery s = .next nx)
    : Keeps true s nx := by
  unfold execBakeryStall at hn
  have hk := Keeps.refl true s
  refine ok_keeps hn ?_
  repeat' first
    | (with_reducible assumption)
    | (intro _)
    | (with_reducible apply ite_keeps)
    | (with_reducible apply stallBakery_keeps)
    | split
    | dsimp only

end Sys2Proof.Machine
end

