-- ==== Sys2Proof/Laws/KeepsMerOps.lean ====
section
/-! SUPPORT. What the operations of Machine/MerOps.lean keep (Laws/Keeps.lean). -/
namespace Sys2Proof.Machine

variable {fz : Bool} {s0 : State}

theorem onLink_keeps (l : Nat) (g : MLink → MLink) (s : State) (hk : Keeps fz s0 s) : Keeps fz s0 (onLink l g s) :=
    by
  unfold onLink
  repeat' first
    | (with_reducible assumption)
    | (intro _)
    | (with_reducible apply ite_keeps)
    | split
    | dsimp only
    | (fail_if_no_progress with_reducible refine Keeps.updMk ?_ rfl rfl rfl rfl rfl rfl rfl)

theorem merEvent_keeps (s : State) (hk : Keeps fz s0 s) : Keeps fz s0 (merEvent s) := by
  unfold merEvent
  repeat' first
    | (with_reducible assumption)
    | (intro _)
    | (with_reducible apply ite_keeps)
    | (with_reducible apply advanceSeq_keeps)
    | split
    | dsimp only

theorem setLinkState_keeps (l v : Nat) (s : State) (hk : Keeps fz s0 s) : Keeps fz s0 (setLinkState l v s) := by
  unfold setLinkState
  repeat' first
    | (with_reducible assumption)
    | (intro _)
    | (with_reducible apply ite_keeps)
    | (with_reducible apply merEvent_keeps)
    | (with_reducible apply State.fset_keeps)
    | split
    | dsimp only

theorem sendFlit_keeps (l : Nat) (bytes : List Byte) (s : State) (hk : Keeps fz s0 s) : Keeps fz s0 (sendFlit l
    bytes s) := by
  unfold sendFlit
  repeat' first
    | (with_reducible assumption)
    | (intro _)
    | (with_reducible apply ite_keeps)
    | (with_reducible apply onLink_keeps)
    | (with_reducible apply State.out_keeps)
    | split
    | dsimp only

theorem returnCredits_keeps (l req rsp ctl : Nat) (racks : List (Nat × Nat)) (s : State) (hk : Keeps fz s0 s) :
    Keeps fz s0 (returnCredits l req rsp ctl racks s) := by
  unfold returnCredits
  repeat' first
    | (with_reducible assumption)
    | (intro _)
    | (with_reducible apply ite_keeps)
    | (with_reducible apply sendFlit_keeps)
    | split
    | dsimp only

theorem returnUnits_keeps (l : Nat) (m : MerMsg) (s : State) (hk : Keeps fz s0 s) : Keeps fz s0 (returnUnits l m s)
    := by
  unfold returnUnits
  repeat' first
    | (with_reducible assumption)
    | (intro _)
    | (with_reducible apply ite_keeps)
    | (with_reducible apply returnCredits_keeps)
    | split
    | dsimp only

theorem sendMsg_keeps (l : Nat) (m : MerMsg) (s : State) (hk : Keeps fz s0 s) : Keeps fz s0 (sendMsg l m s) := by
  unfold sendMsg
  repeat' first
    | (with_reducible assumption)
    | (intro _)
    | (with_reducible apply ite_keeps)
    | (with_reducible apply onLink_keeps)
    | (with_reducible apply sendFlit_keeps)
    | (with_reducible apply State.fadd_keeps)
    | split
    | dsimp only

theorem sendCtl_keeps (l : Nat) (m : MerMsg) (s : State) (hk : Keeps fz s0 s) : Keeps fz s0 (sendCtl l m s) := by
  unfold sendCtl
  repeat' first
    | (with_reducible assumption)
    | (intro _)
    | (with_reducible apply ite_keeps)
    | (with_reducible apply sendMsg_keeps)
    | (with_reducible apply onLink_keeps)
    | split
    | dsimp only

theorem flushCtl_keeps (l : Nat) (x0 : List MerMsg) (s : State) (hk : Keeps fz s0 s) : Keeps fz s0 (flushCtl l x0 s)
    := by
  induction x0 generalizing s with
  | nil => simpa only [flushCtl] using hk
  | cons x xs ih =>
    rw [flushCtl]
    repeat' first
      | (with_reducible assumption)
      | (intro _)
      | (with_reducible apply ite_keeps)
      | (with_reducible apply sendMsg_keeps)
      | (with_reducible apply onLink_keeps)
      | (with_reducible apply ih)
      | split
      | dsimp only

theorem enqueueFrom_keeps (from_ : Option Nat) (l cls g : Nat) (deadline : Int) (m : MerMsg) (s : State) (hk : Keeps
    fz s0 s) : Keeps fz s0 (enqueueFrom from_ l cls g deadline m s) := by
  unfold enqueueFrom
  repeat' first
    | (with_reducible assumption)
    | (intro _)
    | (with_reducible apply ite_keeps)
    | split
    | dsimp only
    | (fail_if_no_progress with_reducible refine Keeps.updMk ?_ rfl rfl rfl rfl rfl rfl rfl)

theorem enqueueMsg_keeps (l cls g : Nat) (deadline : Int) (m : MerMsg) (s : State) (hk : Keeps fz s0 s) : Keeps fz
    s0 (enqueueMsg l cls g deadline m s) := by
  unfold enqueueMsg
  repeat' first
    | (with_reducible assumption)
    | (intro _)
    | (with_reducible apply ite_keeps)
    | (with_reducible apply enqueueFrom_keeps)
    | split
    | dsimp only

theorem issueRemote_keeps (h : Nat) (m : MerMsg) (g : Nat) (deadline : Int) (op : ReqOp) (s : State) (hk : Keeps fz
    s0 s) : Keeps fz s0 (issueRemote h m g deadline op s) := by
  unfold issueRemote
  repeat' first
    | (with_reducible assumption)
    | (intro _)
    | (with_reducible apply ite_keeps)
    | (with_reducible apply enqueueMsg_keeps)
    | split
    | dsimp only
    | (fail_if_no_progress with_reducible refine Keeps.updMk ?_ rfl rfl rfl rfl rfl rfl rfl)

theorem sendRemote_keeps (h : Nat) (m : MerMsg) (g : Nat) (deadline : Int) (s : State) (hk : Keeps fz s0 s) : Keeps
    fz s0 (sendRemote h m g deadline s) := by
  unfold sendRemote
  repeat' first
    | (with_reducible assumption)
    | (intro _)
    | (with_reducible apply ite_keeps)
    | (with_reducible apply sendMsg_keeps)
    | (with_reducible apply enqueueMsg_keeps)
    | split
    | dsimp only
    | (fail_if_no_progress with_reducible refine Keeps.updMk ?_ rfl rfl rfl rfl rfl rfl rfl)

end Sys2Proof.Machine
end

