-- ==== Sys2Proof/Laws/KeepsMemPath.lean ====
section
/-! SUPPORT. What the operations of Machine/MemPath.lean keep (Laws/Keeps.lean). -/
namespace Sys2Proof.Machine

variable {fz : Bool} {s0 : State}

theorem freeBytes_keeps (n : Nat) (s : State) (h : Keeps fz s0 s) : Keeps fz s0 (freeBytes n s).2 := by
  induction n generalizing s with
  | zero => exact h
  | succ n ih => exact ih _ (h.updMk rfl rfl rfl rfl rfl rfl rfl)

theorem freeBytes_keeps' {n : Nat} {s : State} {p : List Byte} {t : State} (e : freeBytes n s = (p, t))
    (h : Keeps fz s0 s) : Keeps fz s0 t := by
  have k := freeBytes_keeps n s h
  rw [e] at k
  exact k

theorem logUnmapped_keeps (w : Who) (write bar : Bool) (a : Nat) (s : State) (hk : Keeps fz s0 s) : Keeps fz s0
    (logUnmapped w write bar a s) := by
  unfold logUnmapped
  repeat' first
    | (with_reducible assumption)
    | (intro _)
    | (with_reducible apply ite_keeps)
    | (with_reducible apply logFault_keeps)
    | split
    | dsimp only

theorem logPower_keeps (w : Who) (write : Bool) (t d a : Nat) (s : State) (hk : Keeps fz s0 s) : Keeps fz s0
    (logPower w write t d a s) := by
  unfold logPower
  repeat' first
    | (with_reducible assumption)
    | (intro _)
    | (with_reducible apply ite_keeps)
    | (with_reducible apply logFault_keeps)
    | split
    | dsimp only

theorem denyMem_keeps (w : Who) (write : Bool) (t a : Nat) (s : State) (hk : Keeps fz s0 s) : Keeps fz s0 (denyMem w
    write t a s) := by
  unfold denyMem
  repeat' first
    | (with_reducible assumption)
    | (intro _)
    | (with_reducible apply ite_keeps)
    | (with_reducible apply denyAccess_keeps)
    | split
    | dsimp only

theorem State.putDram_keeps (a : Nat) (d : List Byte) (s : State) (h : Keeps fz s0 s) : Keeps fz s0 (s.putDram a d)
    := by
  refine h.updMem _ fun w => ?_
  simp only [MemState.wf, Bool.and_eq_true] at w ⊢
  exact ⟨⟨spWf_spWriteAll 0 a d w.1.1, w.1.2⟩, w.2⟩

theorem State.setPoison_keeps (blk : Nat) (p : Bool) (s : State) (h : Keeps fz s0 s) :
    Keeps fz s0 (s.setPoison blk p) := by
  refine h.updMem _ fun w => ?_
  simp only [MemState.wf, Bool.and_eq_true] at w ⊢
  exact ⟨⟨w.1.1, spWf_spSet (fun _ => false) blk p w.1.2⟩, w.2⟩

theorem memUe_keeps (w : Who) (write : Bool) (c link a : Nat) (s : State) (hk : Keeps fz s0 s) : Keeps fz s0 (memUe
    w write c link a s) := by
  unfold memUe
  repeat' first
    | (with_reducible assumption)
    | (intro _)
    | (with_reducible apply ite_keeps)
    | (with_reducible apply logFault_keeps)
    | (with_reducible apply State.fadd_keeps)
    | split
    | dsimp only

theorem touchCode_keeps (a : Nat) (s : State) (hk : Keeps fz s0 s) : Keeps fz s0 (touchCode a s) := by
  unfold touchCode
  repeat' first
    | (with_reducible assumption)
    | (intro _)
    | (with_reducible apply ite_keeps)
    | split
    | dsimp only
    | (fail_if_no_progress with_reducible refine Keeps.updMk ?_ rfl rfl rfl rfl rfl rfl rfl)

theorem wakeChannel_keeps (c : Nat) (s : State) (hk : Keeps fz s0 s) : Keeps fz s0 (wakeChannel c s) := by
  unfold wakeChannel
  repeat' first
    | (with_reducible assumption)
    | (intro _)
    | (with_reducible apply ite_keeps)
    | split
    | dsimp only
    | (fail_if_no_progress with_reducible refine Keeps.updMk ?_ rfl rfl rfl rfl rfl rfl rfl)

theorem takeService_keeps (w : Who) (t units : Nat) (s : State) (hk : Keeps fz s0 s) : Keeps fz s0 (takeService w t
    units s) := by
  unfold takeService
  repeat' first
    | (with_reducible assumption)
    | (intro _)
    | (with_reducible apply ite_keeps)
    | (with_reducible apply charge_keeps)
    | split
    | dsimp only

theorem dramService_keeps (w : Who) (a n : Nat) (write : Bool) (s : State) (hk : Keeps fz s0 s) : Keeps fz s0
    (dramService w a n write s) := by
  unfold dramService
  repeat' first
    | (with_reducible assumption)
    | (intro _)
    | (with_reducible apply ite_keeps)
    | (with_reducible apply wakeChannel_keeps)
    | (with_reducible apply touchCode_keeps)
    | (with_reducible apply takeService_keeps)
    | split
    | dsimp only

theorem pantryService_keeps (w : Who) (k off n : Nat) (s : State) (hk : Keeps fz s0 s) : Keeps fz s0 (pantryService
    w k off n s) := by
  unfold pantryService
  repeat' first
    | (with_reducible assumption)
    | (intro _)
    | (with_reducible apply ite_keeps)
    | (with_reducible apply takeService_keeps)
    | split
    | dsimp only

theorem dramRead_keeps (w : Who) (a n : Nat) (err : MemErr) (s : State) (hk : Keeps fz s0 s) : Keeps fz s0 (dramRead
    w a n err s).2 := by
  unfold dramRead
  repeat' first
    | (with_reducible assumption)
    | (intro _)
    | (with_reducible apply ite_keeps)
    | (with_reducible apply State.fadd_keeps)
    | (with_reducible apply freeBytes_keeps)
    | (with_reducible refine freeBytes_keeps' (by assumption) ?_)
    | (with_reducible apply memUe_keeps)
    | split
    | dsimp only

theorem dramRead_keeps' {w : Who} {a : Nat} {n : Nat} {err : MemErr} {s : State} {res : AccRes} {u : State} (heq :
    dramRead w a n err s = (res, u)) (hk : Keeps fz s0 s) : Keeps fz s0 u := by
  have k := dramRead_keeps w a n err s hk
  rw [heq] at k
  exact k

theorem dramMark_keeps (w : Who) (a n : Nat) (p : Bool) (s : State) (hk : Keeps fz s0 s) : Keeps fz s0 (dramMark w a
    n p s) := by
  unfold dramMark
  repeat' first
    | (with_reducible assumption)
    | (intro _)
    | (with_reducible apply ite_keeps)
    | (with_reducible apply State.setPoison_keeps)
    | (with_reducible apply logFault_keeps)
    | (with_reducible apply State.fadd_keeps)
    | split
    | dsimp only

theorem dramWrite_keeps (w : Who) (a : Nat) (d : List Byte) (p : Bool) (err : MemErr) (s : State) (hk : Keeps fz s0
    s) : Keeps fz s0 (dramWrite w a d p err s) := by
  unfold dramWrite
  repeat' first
    | (with_reducible assumption)
    | (intro _)
    | (with_reducible apply ite_keeps)
    | (with_reducible apply dramMark_keeps)
    | (with_reducible apply State.putDram_keeps)
    | (with_reducible apply State.fadd_keeps)
    | (with_reducible apply freeBytes_keeps)
    | (with_reducible refine freeBytes_keeps' (by assumption) ?_)
    | (with_reducible apply State.setPoison_keeps)
    | (with_reducible apply memUe_keeps)
    | split
    | dsimp only

theorem State.putPantry_keeps (n off : Nat) (d : List Byte) (s : State) (h : Keeps fz s0 s) :
    Keeps fz s0 (s.putPantry n off d) := by
  induction d generalizing off s with
  | nil => exact h
  | cons b bs ih =>
    rw [State.putPantry]
    refine ih _ _ (h.updMem _ fun w => ?_)
    simp only [MemState.wf, Bool.and_eq_true] at w ⊢
    exact ⟨w.1, spWf_spSet (fun _ => 0) _ b w.2⟩

theorem logHostRead_keeps (w : Who) (p : PPort) (kind a : Nat) (s : State) (hk : Keeps fz s0 s) : Keeps fz s0
    (logHostRead w p kind a s) := by
  unfold logHostRead
  repeat' first
    | (with_reducible assumption)
    | (intro _)
    | (with_reducible apply ite_keeps)
    | (with_reducible apply logFault_keeps)
    | split
    | dsimp only

theorem hostResult_keeps (w : Who) (p : PPort) (fn addr a n : Nat) (e : ExtReply) (s : State) (hk : Keeps fz s0 s) :
    Keeps fz s0 (hostResult w p fn addr a n e s).2 := by
  unfold hostResult
  repeat' first
    | (with_reducible assumption)
    | (intro _)
    | (with_reducible apply ite_keeps)
    | (with_reducible apply logHostRead_keeps)
    | (with_reducible apply State.out_keeps)
    | split
    | dsimp only
    | (fail_if_no_progress with_reducible refine Keeps.updMk ?_ rfl rfl rfl rfl rfl rfl rfl)

theorem hostResult_keeps' {w : Who} {p : PPort} {fn : Nat} {addr : Nat} {a : Nat} {n : Nat} {e : ExtReply} {s :
    State} {res : AccRes} {u : State} (heq : hostResult w p fn addr a n e s = (res, u)) (hk : Keeps fz s0 s) : Keeps
    fz s0 u := by
  have k := hostResult_keeps w p fn addr a n e s hk
  rw [heq] at k
  exact k

theorem hostSend_keeps (w : Who) (k fn addr a : Nat) (d : List Byte) (p : Bool) (s : State) (hk : Keeps fz s0 s) :
    Keeps fz s0 (hostSend w k fn addr a d p s) := by
  unfold hostSend
  repeat' first
    | (with_reducible assumption)
    | (intro _)
    | (with_reducible apply ite_keeps)
    | (with_reducible apply State.out_keeps)
    | (with_reducible apply logFault_keeps)
    | split
    | dsimp only
    | (fail_if_no_progress with_reducible refine Keeps.updMk ?_ rfl rfl rfl rfl rfl rfl rfl)

theorem holdWrite_keeps (a : Nat) (d : List Byte) (p : Bool) (op : ReqOp) (s : State) (hk : Keeps fz s0 s) : Keeps
    fz s0 (holdWrite a d p op s) := by
  unfold holdWrite
  repeat' first
    | (with_reducible assumption)
    | (intro _)
    | (with_reducible apply ite_keeps)
    | split
    | dsimp only
    | (fail_if_no_progress with_reducible refine Keeps.updMk ?_ rfl rfl rfl rfl rfl rfl rfl)

theorem readPiece_keeps (w : Who) (addr n : Nat) (errs : List MemErr) (e : ExtReply) (s : State) (hk : Keeps fz s0
    s) : Keeps fz s0 (readPiece w addr n errs e s).2 := by
  unfold readPiece
  repeat' first
    | (with_reducible assumption)
    | (intro _)
    | (with_reducible apply ite_keeps)
    | (with_reducible apply logUnmapped_keeps)
    | (with_reducible apply sendRemote_keeps)
    | (with_reducible apply denyMem_keeps)
    | (with_reducible apply logPower_keeps)
    | (with_reducible apply dramRead_keeps)
    | (with_reducible refine dramRead_keeps' (by assumption) ?_)
    | (with_reducible apply dramService_keeps)
    | (with_reducible apply pantryService_keeps)
    | (with_reducible apply hostResult_keeps)
    | (with_reducible refine hostResult_keeps' (by assumption) ?_)
    | split
    | dsimp only

theorem readPiece_keeps' {w : Who} {addr : Nat} {n : Nat} {errs : List MemErr} {e : ExtReply} {s : State} {res :
    AccRes} {u : State} (heq : readPiece w addr n errs e s = (res, u)) (hk : Keeps fz s0 s) : Keeps fz s0 u := by
  have k := readPiece_keeps w addr n errs e s hk
  rw [heq] at k
  exact k

theorem writePiece_keeps (w : Who) (addr : Nat) (d : List Byte) (p : Bool) (errs : List MemErr) (e : ExtReply) (s :
    State) (hk : Keeps fz s0 s) : Keeps fz s0 (writePiece w addr d p errs e s).2 := by
  unfold writePiece
  repeat' first
    | (with_reducible assumption)
    | (intro _)
    | (with_reducible apply ite_keeps)
    | (with_reducible apply logUnmapped_keeps)
    | (with_reducible apply sendRemote_keeps)
    | (with_reducible apply denyMem_keeps)
    | (with_reducible apply logPower_keeps)
    | (with_reducible apply holdWrite_keeps)
    | (with_reducible apply dramWrite_keeps)
    | (with_reducible apply dramService_keeps)
    | (with_reducible apply State.putPantry_keeps)
    | (with_reducible apply pantryService_keeps)
    | (with_reducible apply logFault_keeps)
    | (with_reducible apply State.fadd_keeps)
    | (with_reducible apply hostSend_keeps)
    | split
    | dsimp only

theorem writePiece_keeps' {w : Who} {addr : Nat} {d : List Byte} {p : Bool} {errs : List MemErr} {e : ExtReply} {s :
    State} {res : AccRes} {u : State} (heq : writePiece w addr d p errs e s = (res, u)) (hk : Keeps fz s0 s) : Keeps
    fz s0 u := by
  have k := writePiece_keeps w addr d p errs e s hk
  rw [heq] at k
  exact k

theorem readLoop_keeps (w : Who) (x0 x1 x2 : Nat) (x3 : List MemErr) (x4 : ExtReply) (s : State) (hk : Keeps fz s0
    s) : Keeps fz s0 (readLoop w x0 x1 x2 x3 x4 s).2 := by
  induction x0 generalizing x1 x2 x3 x4 s with
  | zero => simpa only [readLoop] using hk
  | succ fuel ih =>
    rw [readLoop]
    have ih' : ∀ {x1} {x2} {x3} {x4} {s} {res0} {u}, readLoop w fuel x1 x2 x3 x4 s = (res0, u) → Keeps fz s0 s → Keeps
        fz s0 u := by
      intro x1 x2 x3 x4 s res0 u hq k
      have := ih x1 x2 x3 x4 s k
      rw [hq] at this; exact this
    repeat' first
      | (with_reducible assumption)
      | (intro _)
      | (with_reducible apply ite_keeps)
      | (with_reducible apply readPiece_keeps)
      | (with_reducible refine readPiece_keeps' (by assumption) ?_)
      | (with_reducible apply ih)
      | (with_reducible refine ih' (by assumption) ?_)
      | split
      | dsimp only

theorem readLoop_keeps' {w : Who} {x0 : Nat} {x1 : Nat} {x2 : Nat} {x3 : List MemErr} {x4 : ExtReply} {s : State}
    {res : AccRes} {u : State} (heq : readLoop w x0 x1 x2 x3 x4 s = (res, u)) (hk : Keeps fz s0 s) : Keeps fz s0 u
    := by
  have k := readLoop_keeps w x0 x1 x2 x3 x4 s hk
  rw [heq] at k
  exact k

theorem readBytes_keeps (w : Who) (addr n : Nat) (errs : List MemErr) (e : ExtReply) (s : State) (hk : Keeps fz s0
    s) : Keeps fz s0 (readBytes w addr n errs e s).2 := by
  unfold readBytes
  repeat' first
    | (with_reducible assumption)
    | (intro _)
    | (with_reducible apply ite_keeps)
    | (with_reducible apply readLoop_keeps)
    | (with_reducible refine readLoop_keeps' (by assumption) ?_)
    | split
    | dsimp only

theorem readBytes_keeps' {w : Who} {addr : Nat} {n : Nat} {errs : List MemErr} {e : ExtReply} {s : State} {res :
    AccRes} {u : State} (heq : readBytes w addr n errs e s = (res, u)) (hk : Keeps fz s0 s) : Keeps fz s0 u := by
  have k := readBytes_keeps w addr n errs e s hk
  rw [heq] at k
  exact k

theorem writeLoop_keeps (w : Who) (x0 x1 : Nat) (x2 : List Byte) (x3 : List Bool) (x4 : List MemErr) (x5 : ExtReply)
    (s : State) (hk : Keeps fz s0 s) : Keeps fz s0 (writeLoop w x0 x1 x2 x3 x4 x5 s).2 := by
  induction x0 generalizing x1 x2 x3 x4 x5 s with
  | zero => simpa only [writeLoop] using hk
  | succ fuel ih =>
    rw [writeLoop]
    have ih' : ∀ {x1} {x2} {x3} {x4} {x5} {s} {res0} {u}, writeLoop w fuel x1 x2 x3 x4 x5 s = (res0, u) → Keeps fz s0 s
        → Keeps fz s0 u := by
      intro x1 x2 x3 x4 x5 s res0 u hq k
      have := ih x1 x2 x3 x4 x5 s k
      rw [hq] at this; exact this
    repeat' first
      | (with_reducible assumption)
      | (intro _)
      | (with_reducible apply ite_keeps)
      | (with_reducible apply writePiece_keeps)
      | (with_reducible refine writePiece_keeps' (by assumption) ?_)
      | (with_reducible apply ih)
      | (with_reducible refine ih' (by assumption) ?_)
      | split
      | dsimp only

theorem writeLoop_keeps' {w : Who} {x0 : Nat} {x1 : Nat} {x2 : List Byte} {x3 : List Bool} {x4 : List MemErr} {x5 :
    ExtReply} {s : State} {res : AccRes} {u : State} (heq : writeLoop w x0 x1 x2 x3 x4 x5 s = (res, u)) (hk : Keeps
    fz s0 s) : Keeps fz s0 u := by
  have k := writeLoop_keeps w x0 x1 x2 x3 x4 x5 s hk
  rw [heq] at k
  exact k

theorem writeMarked_keeps (w : Who) (addr : Nat) (d : List Byte) (marks : List Bool) (errs : List MemErr) (e :
    ExtReply) (s : State) (hk : Keeps fz s0 s) : Keeps fz s0 (writeMarked w addr d marks errs e s).2 := by
  unfold writeMarked
  repeat' first
    | (with_reducible assumption)
    | (intro _)
    | (with_reducible apply ite_keeps)
    | (with_reducible apply writeLoop_keeps)
    | (with_reducible refine writeLoop_keeps' (by assumption) ?_)
    | split
    | dsimp only

theorem writeMarked_keeps' {w : Who} {addr : Nat} {d : List Byte} {marks : List Bool} {errs : List MemErr} {e :
    ExtReply} {s : State} {res : AccRes} {u : State} (heq : writeMarked w addr d marks errs e s = (res, u)) (hk :
    Keeps fz s0 s) : Keeps fz s0 u := by
  have k := writeMarked_keeps w addr d marks errs e s hk
  rw [heq] at k
  exact k

theorem writeBytes_keeps (w : Who) (addr : Nat) (d : List Byte) (p : Bool) (errs : List MemErr) (e : ExtReply) (s :
    State) (hk : Keeps fz s0 s) : Keeps fz s0 (writeBytes w addr d p errs e s).2 := by
  unfold writeBytes
  repeat' first
    | (with_reducible assumption)
    | (intro _)
    | (with_reducible apply ite_keeps)
    | (with_reducible apply writeMarked_keeps)
    | (with_reducible refine writeMarked_keeps' (by assumption) ?_)
    | split
    | dsimp only

theorem writeBytes_keeps' {w : Who} {addr : Nat} {d : List Byte} {p : Bool} {errs : List MemErr} {e : ExtReply} {s :
    State} {res : AccRes} {u : State} (heq : writeBytes w addr d p errs e s = (res, u)) (hk : Keeps fz s0 s) : Keeps
    fz s0 u := by
  have k := writeBytes_keeps w addr d p errs e s hk
  rw [heq] at k
  exact k

end Sys2Proof.Machine
end

