-- ==== Sys2Proof/Laws/KeepsStreamOps.lean ====
section
/-! SUPPORT. What the operations of Machine/StreamOps.lean keep (Laws/Keeps.lean). -/
namespace Sys2Proof.Machine

variable {fz : Bool} {s0 : State}

theorem onChan_keeps (k : Nat) (g : SChan → SChan) (s : State) (hk : Keeps fz s0 s) : Keeps fz s0 (onChan k g s) :=
    by
  unfold onChan
  repeat' first
    | (with_reducible assumption)
    | (intro _)
    | (with_reducible apply ite_keeps)
    | split
    | dsimp only
    | (fail_if_no_progress with_reducible refine Keeps.updMk ?_ rfl rfl rfl rfl rfl rfl rfl)

theorem onChanInst_keeps (k : Nat) (g : TInst → TInst) (s : State) (hk : Keeps fz s0 s) : Keeps fz s0 (onChanInst k
    g s) := by
  unfold onChanInst
  repeat' first
    | (with_reducible assumption)
    | (intro _)
    | (with_reducible apply ite_keeps)
    | (with_reducible apply onChan_keeps)
    | split
    | dsimp only

theorem raiseStr_keeps (k e : Nat) (s : State) (hk : Keeps fz s0 s) : Keeps fz s0 (raiseStr k e s) := by
  unfold raiseStr
  repeat' first
    | (with_reducible assumption)
    | (intro _)
    | (with_reducible apply ite_keeps)
    | (with_reducible apply onChanInst_keeps)
    | split
    | dsimp only

theorem strEvent_keeps (k : Nat) (s : State) (hk : Keeps fz s0 s) : Keeps fz s0 (strEvent k s) := by
  unfold strEvent
  repeat' first
    | (with_reducible assumption)
    | (intro _)
    | (with_reducible apply ite_keeps)
    | (with_reducible apply advanceSeq_keeps)
    | split
    | dsimp only

theorem mailboxNews_keeps (m : Nat) (s : State) (hk : Keeps fz s0 s) : Keeps fz s0 (mailboxNews m s) := by
  unfold mailboxNews
  repeat' first
    | (with_reducible assumption)
    | (intro _)
    | (with_reducible apply ite_keeps)
    | (with_reducible apply raiseStr_keeps)
    | (with_reducible apply foldl_keeps)
    | split
    | dsimp only

theorem dropTrigger_keeps (k : Nat) (s : State) (hk : Keeps fz s0 s) : Keeps fz s0 (dropTrigger k s) := by
  unfold dropTrigger
  repeat' first
    | (with_reducible assumption)
    | (intro _)
    | (with_reducible apply ite_keeps)
    | (with_reducible apply State.fsat_keeps)
    | split
    | dsimp only

theorem deliver_keeps (k : Nat) (x : Trigger) (s : State) (hk : Keeps fz s0 s) : Keeps fz s0 (deliver k x s) := by
  unfold deliver
  repeat' first
    | (with_reducible assumption)
    | (intro _)
    | (with_reducible apply ite_keeps)
    | (with_reducible apply dropTrigger_keeps)
    | (with_reducible apply raiseStr_keeps)
    | (with_reducible apply onChan_keeps)
    | split
    | dsimp only

theorem queueTrigger_keeps (k : Nat) (c : SChan) (x : Trigger) (s : State) (hk : Keeps fz s0 s) : Keeps fz s0
    (queueTrigger k c x s) := by
  unfold queueTrigger
  repeat' first
    | (with_reducible assumption)
    | (intro _)
    | (with_reducible apply ite_keeps)
    | (with_reducible apply onChan_keeps)
    | (with_reducible apply dropTrigger_keeps)
    | split
    | dsimp only

theorem arriveTrigger_keeps (k : Nat) (arg : Word) (s : State) (hk : Keeps fz s0 s) : Keeps fz s0 (arriveTrigger k
    arg s) := by
  unfold arriveTrigger
  repeat' first
    | (with_reducible assumption)
    | (intro _)
    | (with_reducible apply ite_keeps)
    | (with_reducible apply onChan_keeps)
    | (with_reducible apply dropTrigger_keeps)
    | (with_reducible apply deliver_keeps)
    | split
    | dsimp only

theorem judgeTrigger_keeps (k : Nat) (x : Trigger) (s : State) (hk : Keeps fz s0 s) : Keeps fz s0 (judgeTrigger k x
    s) := by
  unfold judgeTrigger
  repeat' first
    | (with_reducible assumption)
    | (intro _)
    | (with_reducible apply ite_keeps)
    | (with_reducible apply dropTrigger_keeps)
    | (with_reducible apply queueTrigger_keeps)
    | (with_reducible apply deliver_keeps)
    | split
    | dsimp only

theorem judgeTriggers_keeps (s : State) (hk : Keeps fz s0 s) : Keeps fz s0 (judgeTriggers s) := by
  unfold judgeTriggers
  repeat' first
    | (with_reducible assumption)
    | (intro _)
    | (with_reducible apply ite_keeps)
    | (with_reducible apply judgeTrigger_keeps)
    | (with_reducible apply onChan_keeps)
    | (with_reducible apply foldl_keeps)
    | split
    | dsimp only

theorem readyChan_keeps (k : Nat) (s : State) (hk : Keeps fz s0 s) : Keeps fz s0 (readyChan k s) := by
  unfold readyChan
  repeat' first
    | (with_reducible assumption)
    | (intro _)
    | (with_reducible apply ite_keeps)
    | (with_reducible apply onChan_keeps)
    | (with_reducible apply deliver_keeps)
    | split
    | dsimp only

end Sys2Proof.Machine
end

