-- ==== Sys2Proof/Laws/KeepsJobs.lean ====
section
/-! SUPPORT. What the operations of Machine/Jobs.lean keep (Laws/Keeps.lean). -/
namespace Sys2Proof.Machine

variable {fz : Bool} {s0 : State}

theorem onJob_keeps (id : Nat) (g : Job → Job) (s : State) (hk : Keeps fz s0 s) : Keeps fz s0 (onJob id g s) := by
  unfold onJob
  repeat' first
    | (with_reducible assumption)
    | (intro _)
    | (with_reducible apply ite_keeps)
    | split
    | dsimp only
    | (fail_if_no_progress with_reducible refine Keeps.updMk ?_ rfl rfl rfl rfl rfl rfl rfl)

theorem onJobs_keeps (g : Job → Job) (s : State) (hk : Keeps fz s0 s) : Keeps fz s0 (onJobs g s) := by
  unfold onJobs
  repeat' first
    | (with_reducible assumption)
    | (intro _)
    | (with_reducible apply ite_keeps)
    | split
    | dsimp only
    | (fail_if_no_progress with_reducible refine Keeps.updMk ?_ rfl rfl rfl rfl rfl rfl rfl)

theorem dropJob_keeps (id : Nat) (s : State) (hk : Keeps fz s0 s) : Keeps fz s0 (dropJob id s) := by
  unfold dropJob
  repeat' first
    | (with_reducible assumption)
    | (intro _)
    | (with_reducible apply ite_keeps)
    | split
    | dsimp only
    | (fail_if_no_progress with_reducible refine Keeps.updMk ?_ rfl rfl rfl rfl rfl rfl rfl)

theorem noteAccess_keeps (id : Nat) (r : AccRes) (s : State) (hk : Keeps fz s0 s) : Keeps fz s0 (noteAccess id r s)
    := by
  unfold noteAccess
  repeat' first
    | (with_reducible assumption)
    | (intro _)
    | (with_reducible apply ite_keeps)
    | (with_reducible apply onJob_keeps)
    | split
    | dsimp only

theorem onSJob_keeps (k id : Nat) (g : SJob → SJob) (s : State) (hk : Keeps fz s0 s) : Keeps fz s0 (onSJob k id g s)
    := by
  unfold onSJob
  repeat' first
    | (with_reducible assumption)
    | (intro _)
    | (with_reducible apply ite_keeps)
    | (with_reducible apply onChan_keeps)
    | split
    | dsimp only

theorem tellChannel_keeps (j : Job) (s : State) (hk : Keeps fz s0 s) : Keeps fz s0 (tellChannel j s) := by
  unfold tellChannel
  repeat' first
    | (with_reducible assumption)
    | (intro _)
    | (with_reducible apply ite_keeps)
    | (with_reducible apply onSJob_keeps)
    | split
    | dsimp only

theorem copyTriggers_keeps (j : Job) (s : State) (hk : Keeps fz s0 s) : Keeps fz s0 (copyTriggers j s) := by
  unfold copyTriggers
  repeat' first
    | (with_reducible assumption)
    | (intro _)
    | (with_reducible apply ite_keeps)
    | (with_reducible apply arriveTrigger_keeps)
    | (with_reducible apply foldl_keeps)
    | split
    | dsimp only

theorem completeJob_keeps (id : Nat) (s : State) (hk : Keeps fz s0 s) : Keeps fz s0 (completeJob id s) := by
  unfold completeJob
  repeat' first
    | (with_reducible assumption)
    | (intro _)
    | (with_reducible apply ite_keeps)
    | (with_reducible apply dropJob_keeps)
    | (with_reducible apply tellChannel_keeps)
    | (with_reducible apply copyTriggers_keeps)
    | split
    | dsimp only
    | (fail_if_no_progress with_reducible refine Keeps.updMk ?_ rfl rfl rfl rfl rfl rfl rfl)

theorem ringFault_keeps (c write addr : Nat) (s : State) (hk : Keeps fz s0 s) : Keeps fz s0 (ringFault c write addr
    s) := by
  unfold ringFault
  repeat' first
    | (with_reducible assumption)
    | (intro _)
    | (with_reducible apply ite_keeps)
    | (with_reducible apply State.fset_keeps)
    | (with_reducible apply logFault_keeps)
    | split
    | dsimp only
    | (fail_if_no_progress with_reducible refine Keeps.updMk ?_ rfl rfl rfl rfl rfl rfl rfl)

theorem gainJob_keeps (b : Nat) (frame : Bool) (s : State) (hk : Keeps fz s0 s) : Keeps fz s0 (gainJob b frame s) :=
    by
  unfold gainJob
  repeat' first
    | (with_reducible assumption)
    | (intro _)
    | (with_reducible apply ite_keeps)
    | (with_reducible apply State.onBakery_keeps)
    | split
    | dsimp only

theorem admitJob_keeps (j : Job) (s : State) (hk : Keeps fz s0 s) : Keeps fz s0 (admitJob j s) := by
  unfold admitJob
  repeat' first
    | (with_reducible assumption)
    | (intro _)
    | (with_reducible apply ite_keeps)
    | (with_reducible apply gainJob_keeps)
    | (with_reducible apply onJob_keeps)
    | (with_reducible apply completeJob_keeps)
    | split
    | dsimp only
    | (fail_if_no_progress with_reducible refine Keeps.updMk ?_ rfl rfl rfl rfl rfl rfl rfl)

theorem forceJob_keeps (j : Job) (o d : Nat) (s : State) (hk : Keeps fz s0 s) : Keeps fz s0 (forceJob j o d s) := by
  unfold forceJob
  repeat' first
    | (with_reducible assumption)
    | (intro _)
    | (with_reducible apply ite_keeps)
    | (with_reducible apply State.fadd_keeps)
    | (with_reducible apply logFault_keeps)
    | (with_reducible apply completeJob_keeps)
    | (with_reducible apply onJob_keeps)
    | split
    | dsimp only

theorem leaveRing_keeps (j : Job) (s : State) (hk : Keeps fz s0 s) : Keeps fz s0 (leaveRing j s) := by
  unfold leaveRing
  repeat' first
    | (with_reducible assumption)
    | (intro _)
    | (with_reducible apply ite_keeps)
    | (with_reducible apply State.fset_keeps)
    | split
    | dsimp only
    | (fail_if_no_progress with_reducible refine Keeps.updMk ?_ rfl rfl rfl rfl rfl rfl rfl)

theorem proceedOne_keeps {s t : State} (e : proceedOne s = some t) (h : Keeps fz s0 s) : Keeps fz s0 t := by
  unfold proceedOne at e
  split at e
  · cases e
  · injection e with e; subst e; exact forceJob_keeps _ _ _ _ (leaveRing_keeps _ _ h)
  · injection e with e; subst e; exact admitJob_keeps _ _ (leaveRing_keeps _ _ h)

theorem proceedOne_getD_keeps (s : State) (h : Keeps fz s0 s) : Keeps fz s0 ((proceedOne s).getD s) := by
  cases e : proceedOne s with
  | none => exact h
  | some t => exact proceedOne_keeps e h

theorem proceedAll_keeps (x0 : Nat) (s : State) (hk : Keeps fz s0 s) : Keeps fz s0 (proceedAll x0 s) := by
  induction x0 generalizing s with
  | zero => simpa only [proceedAll] using hk
  | succ fuel ih =>
    rw [proceedAll]
    repeat' first
      | (with_reducible assumption)
      | (intro _)
      | (with_reducible apply ite_keeps)
      | (with_reducible refine proceedOne_keeps (by assumption) ?_)
      | (with_reducible apply ih)
      | split
      | dsimp only

theorem submitJob_keeps (j : Job) (s : State) (hk : Keeps fz s0 s) : Keeps fz s0 (submitJob j s) := by
  unfold submitJob
  repeat' first
    | (with_reducible assumption)
    | (intro _)
    | (with_reducible apply ite_keeps)
    | (with_reducible apply proceedAll_keeps)
    | split
    | dsimp only
    | (fail_if_no_progress with_reducible refine Keeps.updMk ?_ rfl rfl rfl rfl rfl rfl rfl)

theorem execWaitingJobProceeds_keeps (s : State) {t : State} (e : execWaitingJobProceeds s = .next t) :
    Keeps true s t := ok_keeps e (proceedOne_getD_keeps _ (Keeps.refl _ _))

theorem takeDescriptor_keeps (x : Submitted) (r : AccRes) (s : State) (hk : Keeps fz s0 s) : Keeps fz s0
    (takeDescriptor x r s) := by
  unfold takeDescriptor
  repeat' first
    | (with_reducible assumption)
    | (intro _)
    | (with_reducible apply ite_keeps)
    | (with_reducible apply submitJob_keeps)
    | (with_reducible apply State.fset_keeps)
    | (with_reducible apply ringFault_keeps)
    | (with_reducible apply completeJob_keeps)
    | split
    | dsimp only
    | (fail_if_no_progress with_reducible refine Keeps.updMk ?_ rfl rfl rfl rfl rfl rfl rfl)

theorem descriptorFetched_keeps (c : Nat) (err : List MemErr) (e : ExtReply) (s : State) (h : Keeps fz s0 s) :
    Keeps fz s0 (descriptorFetched c err e s) := by
  unfold descriptorFetched
  split
  · split
    · generalize hr : readBytes _ _ _ _ _ _ = x
      obtain ⟨r, u⟩ := x
      exact takeDescriptor_keeps _ _ _ (readBytes_keeps' hr h)
    · exact h
  · exact h

theorem execDescriptorFetched_keeps (c : Fin 1024) (err : List MemErr) (e : ExtReply) (s : State) {nx : State} (hn :
    execDescriptorFetched c err e s = .next nx) : Keeps true s nx := by
  unfold execDescriptorFetched at hn
  have hk := Keeps.refl true s
  refine ok_keeps hn ?_
  repeat' first
    | (with_reducible assumption)
    | (intro _)
    | (with_reducible apply ite_keeps)
    | (with_reducible apply descriptorFetched_keeps)
    | split
    | dsimp only

theorem actCtxEnable_keeps (c : Nat) (s : State) (hk : Keeps fz s0 s) : Keeps fz s0 (actCtxEnable c s) := by
  unfold actCtxEnable
  repeat' first
    | (with_reducible assumption)
    | (intro _)
    | (with_reducible apply ite_keeps)
    | (with_reducible apply State.setReg_keeps)
    | (with_reducible apply State.fset_keeps)
    | split
    | dsimp only
    | (fail_if_no_progress with_reducible refine Keeps.updMk ?_ rfl rfl rfl rfl rfl rfl rfl)

theorem actCtxDisable_keeps (c : Nat) (s : State) (hk : Keeps fz s0 s) : Keeps fz s0 (actCtxDisable c s) := by
  unfold actCtxDisable
  repeat' first
    | (with_reducible assumption)
    | (intro _)
    | (with_reducible apply ite_keeps)
    | (with_reducible apply State.fset_keeps)
    | split
    | dsimp only
    | (fail_if_no_progress with_reducible refine Keeps.updMk ?_ rfl rfl rfl rfl rfl rfl rfl)

theorem execCtxEnable_keeps (f : HostFn) (c : Fin 1024) (s : State) {nx : State} (hn : execCtxEnable f c s = .next
    nx) : Keeps true s nx := by
  unfold execCtxEnable at hn
  have hk := Keeps.refl true s
  refine ok_keeps hn ?_
  repeat' first
    | (with_reducible assumption)
    | (intro _)
    | (with_reducible apply ite_keeps)
    | (with_reducible apply hostWrite_keeps)
    | (with_reducible apply actCtxEnable_keeps)
    | split
    | dsimp only

theorem execCtxDisable_keeps (f : HostFn) (c : Fin 1024) (s : State) {nx : State} (hn : execCtxDisable f c s = .next
    nx) : Keeps true s nx := by
  unfold execCtxDisable at hn
  have hk := Keeps.refl true s
  refine ok_keeps hn ?_
  repeat' first
    | (with_reducible assumption)
    | (intro _)
    | (with_reducible apply ite_keeps)
    | (with_reducible apply hostWrite_keeps)
    | (with_reducible apply actCtxDisable_keeps)
    | split
    | dsimp only

theorem doorbell_keeps (f : HostFn) (c off : Nat) (act : State → State) (s : State) (hact : ∀ (s : State), Keeps fz
    s0 s → Keeps fz s0 (act s)) (hk : Keeps fz s0 s) : Keeps fz s0 (doorbell f c off act s) := by
  unfold doorbell
  repeat' first
    | (with_reducible assumption)
    | (intro _)
    | (with_reducible apply ite_keeps)
    | (apply hact)
    | (with_reducible apply denyAccess_keeps)
    | (with_reducible apply logFault_keeps)
    | split
    | dsimp only

theorem actSqTail_keeps (c v : Nat) (s : State) (hk : Keeps fz s0 s) : Keeps fz s0 (actSqTail c v s) := by
  unfold actSqTail
  repeat' first
    | (with_reducible assumption)
    | (intro _)
    | (with_reducible apply ite_keeps)
    | (with_reducible apply State.fset_keeps)
    | (with_reducible apply foldl_keeps)
    | split
    | dsimp only
    | (fail_if_no_progress with_reducible refine Keeps.updMk ?_ rfl rfl rfl rfl rfl rfl rfl)

theorem execSqTailDoorbell_keeps (f : HostFn) (c : Fin 1024) (v : Word) (s : State) {nx : State} (hn :
    execSqTailDoorbell f c v s = .next nx) : Keeps true s nx := by
  unfold execSqTailDoorbell at hn
  have hk := Keeps.refl true s
  refine ok_keeps hn ?_
  repeat' first
    | (with_reducible assumption)
    | (intro _)
    | (with_reducible apply ite_keeps)
    | (with_reducible apply doorbell_keeps)
    | (with_reducible apply actSqTail_keeps)
    | split
    | dsimp only

theorem actCqHead_keeps (c v : Nat) (s : State) (hk : Keeps fz s0 s) : Keeps fz s0 (actCqHead c v s) := by
  unfold actCqHead
  repeat' first
    | (with_reducible assumption)
    | (intro _)
    | (with_reducible apply ite_keeps)
    | (with_reducible apply State.fset_keeps)
    | split
    | dsimp only

theorem messageOn_keeps (c : Nat) (s : State) (hk : Keeps fz s0 s) : Keeps fz s0 (messageOn c s) := by
  unfold messageOn
  repeat' first
    | (with_reducible assumption)
    | (intro _)
    | (with_reducible apply ite_keeps)
    | (with_reducible apply messageDue_keeps)
    | split
    | dsimp only

theorem sendCtx_keeps (c : Nat) (s : State) (hk : Keeps fz s0 s) : Keeps fz s0 (sendCtx c s) := by
  unfold sendCtx
  repeat' first
    | (with_reducible assumption)
    | (intro _)
    | (with_reducible apply ite_keeps)
    | (with_reducible apply messageOn_keeps)
    | (with_reducible apply State.fset_keeps)
    | split
    | dsimp only

theorem actCqArm_keeps (c v : Nat) (s : State) (hk : Keeps fz s0 s) : Keeps fz s0 (actCqArm c v s) := by
  unfold actCqArm
  repeat' first
    | (with_reducible assumption)
    | (intro _)
    | (with_reducible apply ite_keeps)
    | (with_reducible apply State.fset_keeps)
    | (with_reducible apply actCqHead_keeps)
    | (with_reducible apply sendCtx_keeps)
    | split
    | dsimp only

theorem execCqHeadUpdate_keeps (f : HostFn) (c : Fin 1024) (v : BitVec 12) (s : State) {nx : State} (hn :
    execCqHeadUpdate f c v s = .next nx) : Keeps true s nx := by
  unfold execCqHeadUpdate at hn
  have hk := Keeps.refl true s
  refine ok_keeps hn ?_
  repeat' first
    | (with_reducible assumption)
    | (intro _)
    | (with_reducible apply ite_keeps)
    | (with_reducible apply doorbell_keeps)
    | (with_reducible apply actCqHead_keeps)
    | split
    | dsimp only

theorem execCqArm_keeps (f : HostFn) (c : Fin 1024) (v : BitVec 12) (s : State) {nx : State} (hn : execCqArm f c v s
    = .next nx) : Keeps true s nx := by
  unfold execCqArm at hn
  have hk := Keeps.refl true s
  refine ok_keeps hn ?_
  repeat' first
    | (with_reducible assumption)
    | (intro _)
    | (with_reducible apply ite_keeps)
    | (with_reducible apply doorbell_keeps)
    | (with_reducible apply actCqArm_keeps)
    | split
    | dsimp only

theorem recordNews_keeps (j : Job) (s : State) (hk : Keeps fz s0 s) : Keeps fz s0 (recordNews j s) := by
  unfold recordNews
  repeat' first
    | (with_reducible assumption)
    | (intro _)
    | (with_reducible apply ite_keeps)
    | (with_reducible apply raiseStr_keeps)
    | (with_reducible apply onChan_keeps)
    | split
    | dsimp only

theorem releaseJob_keeps (j : Job) (s : State) (hk : Keeps fz s0 s) : Keeps fz s0 (releaseJob j s) := by
  unfold releaseJob
  repeat' first
    | (with_reducible assumption)
    | (intro _)
    | (with_reducible apply ite_keeps)
    | (with_reducible apply dropJob_keeps)
    | (with_reducible apply State.fset_keeps)
    | split
    | dsimp only

theorem recordWritten_keeps (j : Job) (s : State) (hk : Keeps fz s0 s) : Keeps fz s0 (recordWritten j s) := by
  unfold recordWritten
  repeat' first
    | (with_reducible assumption)
    | (intro _)
    | (with_reducible apply ite_keeps)
    | (with_reducible apply State.fadd_keeps)
    | (with_reducible apply State.fset_keeps)
    | (with_reducible apply releaseJob_keeps)
    | (with_reducible apply recordNews_keeps)
    | split
    | dsimp only
    | (fail_if_no_progress with_reducible refine Keeps.updMk ?_ rfl rfl rfl rfl rfl rfl rfl)

theorem writeRecord_keeps (c : Nat) (e : ExtReply) (s : State) (h : Keeps fz s0 s) : Keeps fz s0 (writeRecord c e s)
    := by
  unfold writeRecord
  split
  · exact h
  · split
    · exact h
    · extract_lets a
      generalize hr : writeBytes _ _ _ _ _ _ _ = x
      obtain ⟨r, u⟩ := x
      have k := writeBytes_keeps' hr h
      clear hr
      show Keeps fz s0 (if _ then _ else _)
      exact ite_keeps (releaseJob_keeps _ _ (ringFault_keeps _ _ _ _ k)) (recordWritten_keeps _ _ k)

theorem execCompletionRecordWrite_keeps (c : Fin 1024) (e : ExtReply) (s : State) {nx : State} (hn :
    execCompletionRecordWrite c e s = .next nx) : Keeps true s nx := by
  unfold execCompletionRecordWrite at hn
  have hk := Keeps.refl true s
  refine ok_keeps hn ?_
  repeat' first
    | (with_reducible assumption)
    | (intro _)
    | (with_reducible apply ite_keeps)
    | (with_reducible apply writeRecord_keeps)
    | split
    | dsimp only

theorem msixMessage_keeps (c : Nat) (s : State) (hk : Keeps fz s0 s) : Keeps fz s0 (msixMessage c s) := by
  unfold msixMessage
  repeat' first
    | (with_reducible assumption)
    | (intro _)
    | (with_reducible apply ite_keeps)
    | (with_reducible apply messageOn_keeps)
    | split
    | dsimp only
    | (fail_if_no_progress with_reducible refine Keeps.updMk ?_ rfl rfl rfl rfl rfl rfl rfl)

theorem execMsixMessage_keeps (c : Fin 1024) (s : State) {nx : State} (hn : execMsixMessage c s = .next nx) : Keeps
    true s nx := by
  unfold execMsixMessage at hn
  have hk := Keeps.refl true s
  refine ok_keeps hn ?_
  repeat' first
    | (with_reducible assumption)
    | (intro _)
    | (with_reducible apply ite_keeps)
    | (with_reducible apply msixMessage_keeps)
    | split
    | dsimp only

theorem putMailbox_keeps (m : Nat) (d : List Byte) (poison : Bool) (s : State) (hk : Keeps fz s0 s) : Keeps fz s0
    (putMailbox m d poison s) := by
  unfold putMailbox
  repeat' first
    | (with_reducible assumption)
    | (intro _)
    | (with_reducible apply ite_keeps)
    | (with_reducible apply State.setReg_keeps)
    | (with_reducible apply State.fsat_keeps)
    | (with_reducible apply State.fset_keeps)
    | (with_reducible apply mailboxNews_keeps)
    | (with_reducible apply State.fadd_keeps)
    | (with_reducible apply foldl_keeps)
    | split
    | dsimp only

theorem noteMbx_keeps (m who : Nat) (s : State) (hk : Keeps fz s0 s) : Keeps fz s0 (noteMbx m who s) := by
  unfold noteMbx
  repeat' first
    | (with_reducible assumption)
    | (intro _)
    | (with_reducible apply ite_keeps)
    | split
    | dsimp only
    | (fail_if_no_progress with_reducible refine Keeps.updMk ?_ rfl rfl rfl rfl rfl rfl rfl)

theorem retell_keeps (id : Nat) (s : State) (hk : Keeps fz s0 s) : Keeps fz s0 (retell id s) := by
  unfold retell
  repeat' first
    | (with_reducible assumption)
    | (intro _)
    | (with_reducible apply ite_keeps)
    | (with_reducible apply tellChannel_keeps)
    | split
    | dsimp only

theorem writeMailbox_keeps (c : Nat) (err : List MemErr) (e : ExtReply) (s : State) (hk : Keeps fz s0 s) : Keeps fz
    s0 (writeMailbox c err e s) := by
  unfold writeMailbox
  repeat' first
    | (with_reducible assumption)
    | (intro _)
    | (with_reducible apply ite_keeps)
    | (with_reducible apply readBytes_keeps)
    | (with_reducible refine readBytes_keeps' (by assumption) ?_)
    | (with_reducible apply onJob_keeps)
    | (with_reducible apply noteAccess_keeps)
    | (with_reducible apply retell_keeps)
    | (with_reducible apply denyAccess_keeps)
    | (with_reducible apply logFault_keeps)
    | (with_reducible apply noteMbx_keeps)
    | (with_reducible apply putMailbox_keeps)
    | split
    | dsimp only

theorem execMailboxWrite_keeps (c : Fin 1024) (err : List MemErr) (e : ExtReply) (s : State) {nx : State} (hn :
    execMailboxWrite c err e s = .next nx) : Keeps true s nx := by
  unfold execMailboxWrite at hn
  have hk := Keeps.refl true s
  refine ok_keeps hn ?_
  repeat' first
    | (with_reducible assumption)
    | (intro _)
    | (with_reducible apply ite_keeps)
    | (with_reducible apply writeMailbox_keeps)
    | split
    | dsimp only

theorem actMbxAck_keeps (m : Nat) (v : Word) (s : State) (hk : Keeps fz s0 s) : Keeps fz s0 (actMbxAck m v s) := by
  unfold actMbxAck
  repeat' first
    | (with_reducible assumption)
    | (intro _)
    | (with_reducible apply ite_keeps)
    | (with_reducible apply noteMbx_keeps)
    | (with_reducible apply State.fset_keeps)
    | split
    | dsimp only

theorem execMbxAck_keeps (f : HostFn) (m : Fin 256) (seq : Word) (s : State) {nx : State} (hn : execMbxAck f m seq s
    = .next nx) : Keeps true s nx := by
  unfold execMbxAck at hn
  have hk := Keeps.refl true s
  refine ok_keeps hn ?_
  repeat' first
    | (with_reducible assumption)
    | (intro _)
    | (with_reducible apply ite_keeps)
    | (with_reducible apply hostWrite_keeps)
    | (with_reducible apply actMbxAck_keeps)
    | split
    | dsimp only

end Sys2Proof.Machine
end

