-- ==== Sys2Proof/Laws/KeepsRacks.lean ====
section
/-! SUPPORT. What the operations of Machine/Racks.lean keep (Laws/Keeps.lean). -/
namespace Sys2Proof.Machine

variable {fz : Bool} {s0 : State}

theorem State.setRack_keeps (k : Nat) (r : Rack) (s : State) (hk : Keeps fz s0 s) : Keeps fz s0 (State.setRack k r
    s) := by
  unfold State.setRack
  repeat' first
    | (with_reducible assumption)
    | (intro _)
    | (with_reducible apply ite_keeps)
    | split
    | dsimp only
    | (fail_if_no_progress with_reducible refine Keeps.updMk ?_ rfl rfl rfl rfl rfl rfl rfl)

theorem pushSlot_keeps {k : Nat} {r : Rack} {x : RSlot} {d : Int} {s t : State} (e : pushSlot k r x d s = some t)
    (h : Keeps fz s0 s) : Keeps fz s0 t := by
  unfold pushSlot at e
  split at e
  · injection e with e; subst e; exact h
  · split at e
    · cases e
    · dsimp only at e
      split at e
      · injection e with e; subst e; exact State.setRack_keeps _ _ _ (slotMoved_keeps _ _ h)
      · injection e with e; subst e
        exact State.setRack_keeps _ _ _ ((slotMoved_keeps _ _ h).updMk rfl rfl rfl rfl rfl rfl rfl)

theorem popSlot_keeps {k : Nat} {r : Rack} {s t : State} {x : RSlot} (e : popSlot k r s = some (x, t))
    (h : Keeps fz s0 s) : Keeps fz s0 t := by
  unfold popSlot at e
  split at e
  · cases e
  · split at e
    · cases e
    · have hk : ∀ b : Bool, Keeps fz s0 (if b then (slotMoved r.bakery s).fadd (Fld.FAB_RACKFRM_FRAMES k) 1
          else slotMoved r.bakery s) := fun b =>
        ite_keeps (State.fadd_keeps _ _ _ (slotMoved_keeps _ _ h)) (slotMoved_keeps _ _ h)
      dsimp only at e
      split at e
      · injection e with e; injection e with _ e; subst e; exact State.setRack_keeps _ _ _ (hk _)
      · injection e with e; injection e with _ e; subst e
        have k2 := fun b => State.setRack_keeps k { r with slots := ‹List RSlot›, pre := r.pre - 1 } _ (hk b)
        exact ite_keeps (returnCredits_keeps _ _ _ _ _ _ (k2 _)) (k2 _)

theorem landSlots_keeps (s : State) (hk : Keeps fz s0 s) : Keeps fz s0 (landSlots s) := by
  unfold landSlots
  repeat' first
    | (with_reducible assumption)
    | (intro _)
    | (with_reducible apply ite_keeps)
    | (with_reducible apply slotMoved_keeps)
    | (with_reducible apply State.setRack_keeps)
    | (with_reducible apply foldl_keeps)
    | split
    | dsimp only

theorem returnSlots_keeps (l rack x0 x1 : Nat) (s : State) (hk : Keeps fz s0 s) : Keeps fz s0 (returnSlots l rack x0
    x1 s) := by
  induction x0 generalizing x1 s with
  | zero => simpa only [returnSlots] using hk
  | succ fuel ih =>
    rw [returnSlots]
    repeat' first
      | (with_reducible assumption)
      | (intro _)
      | (with_reducible apply ite_keeps)
      | (with_reducible apply returnCredits_keeps)
      | (with_reducible apply ih)
      | split
      | dsimp only

theorem emptyRack_keeps (k : Nat) (old r : Rack) (s : State) (hk : Keeps fz s0 s) : Keeps fz s0 (emptyRack k old r
    s) := by
  unfold emptyRack
  repeat' first
    | (with_reducible assumption)
    | (intro _)
    | (with_reducible apply ite_keeps)
    | (with_reducible apply returnSlots_keeps)
    | (with_reducible apply State.setRack_keeps)
    | split
    | dsimp only

theorem refillRacks_keeps (b : Nat) (s : State) (hk : Keeps fz s0 s) : Keeps fz s0 (refillRacks b s) := by
  unfold refillRacks
  repeat' first
    | (with_reducible assumption)
    | (intro _)
    | (with_reducible apply ite_keeps)
    | (with_reducible apply emptyRack_keeps)
    | (with_reducible apply foldl_keeps)
    | split
    | dsimp only

end Sys2Proof.Machine
end

