-- ==== Sys2Proof/Laws/KeepsOvenOps.lean ====
section
/-! SUPPORT. What the operations of Machine/OvenOps.lean keep (Laws/Keeps.lean). -/
namespace Sys2Proof.Machine

variable {fz : Bool} {s0 : State}

theorem onOven_keeps (n : Nat) (g : Oven → Oven) (s : State) (hk : Keeps fz s0 s) : Keeps fz s0 (onOven n g s) := by
  unfold onOven
  repeat' first
    | (with_reducible assumption)
    | (intro _)
    | (with_reducible apply ite_keeps)
    | split
    | dsimp only
    | (fail_if_no_progress with_reducible refine Keeps.updMk ?_ rfl rfl rfl rfl rfl rfl rfl)

theorem onDisp_keeps (n i : Nat) (g : DInstr → DInstr) (s : State) (hk : Keeps fz s0 s) : Keeps fz s0 (onDisp n i g
    s) := by
  unfold onDisp
  repeat' first
    | (with_reducible assumption)
    | (intro _)
    | (with_reducible apply ite_keeps)
    | (with_reducible apply onOven_keeps)
    | split
    | dsimp only

theorem finishDisp_keeps (n i : Nat) (s : State) (hk : Keeps fz s0 s) : Keeps fz s0 (finishDisp n i s) := by
  unfold finishDisp
  repeat' first
    | (with_reducible assumption)
    | (intro _)
    | (with_reducible apply ite_keeps)
    | (with_reducible apply onOven_keeps)
    | split
    | dsimp only

theorem dispatch_keeps (n : Nat) (s : State) (hk : Keeps fz s0 s) : Keeps fz s0 (dispatch n s) := by
  unfold dispatch
  repeat' first
    | (with_reducible assumption)
    | (intro _)
    | (with_reducible apply ite_keeps)
    | (with_reducible apply onOven_keeps)
    | split
    | dsimp only

theorem popTo_keeps (n l : Nat) (taints : Bool) (x0 : Nat) (x1 : List RSlot) (s : State) (hk : Keeps fz s0 s) :
    Keeps fz s0 (popTo n l taints x0 x1 s).2 := by
  induction x0 generalizing x1 s with
  | zero => simpa only [popTo] using hk
  | succ fuel ih =>
    rw [popTo]
    have ih' : ∀ {x1} {s} {res0} {u}, popTo n l taints fuel x1 s = (res0, u) → Keeps fz s0 s → Keeps fz s0 u := by
      intro x1 s res0 u hq k
      have := ih x1 s k
      rw [hq] at this; exact this
    repeat' first
      | (with_reducible assumption)
      | (intro _)
      | (with_reducible apply ite_keeps)
      | (with_reducible refine popSlot_keeps (by assumption) ?_)
      | (with_reducible apply onOven_keeps)
      | (with_reducible apply ih)
      | (with_reducible refine ih' (by assumption) ?_)
      | split
      | dsimp only

theorem popTo_keeps' {n : Nat} {l : Nat} {taints : Bool} {x0 : Nat} {x1 : List RSlot} {s : State} {res : List RSlot}
    {u : State} (heq : popTo n l taints x0 x1 s = (res, u)) (hk : Keeps fz s0 s) : Keeps fz s0 u := by
  have k := popTo_keeps n l taints x0 x1 s hk
  rw [heq] at k
  exact k

theorem gather_keeps (n l : Nat) (taints : Bool) (need : Nat) (got : List RSlot) (s : State) (hk : Keeps fz s0 s) :
    Keeps fz s0 (gather n l taints need got s).2 := by
  unfold gather
  repeat' first
    | (with_reducible assumption)
    | (intro _)
    | (with_reducible apply ite_keeps)
    | (with_reducible apply popTo_keeps)
    | (with_reducible refine popTo_keeps' (by assumption) ?_)
    | split
    | dsimp only

theorem gather_keeps' {n : Nat} {l : Nat} {taints : Bool} {need : Nat} {got : List RSlot} {s : State} {res : List
    RSlot} {u : State} (heq : gather n l taints need got s = (res, u)) (hk : Keeps fz s0 s) : Keeps fz s0 u := by
  have k := gather_keeps n l taints need got s hk
  rw [heq] at k
  exact k

theorem pushAll_keeps (n l : Nat) (deadline : Int) (x0 : List RSlot) (s : State) (hk : Keeps fz s0 s) : Keeps fz s0
    (pushAll n l deadline x0 s).2 := by
  induction x0 generalizing s with
  | nil => simpa only [pushAll] using hk
  | cons x xs ih =>
    rw [pushAll]
    have ih' : ∀ {s} {res0} {u}, pushAll n l deadline xs s = (res0, u) → Keeps fz s0 s → Keeps fz s0 u := by
      intro s res0 u hq k
      have := ih s k
      rw [hq] at this; exact this
    repeat' first
      | (with_reducible assumption)
      | (intro _)
      | (with_reducible apply ite_keeps)
      | (with_reducible refine pushSlot_keeps (by assumption) ?_)
      | (with_reducible apply ih)
      | (with_reducible refine ih' (by assumption) ?_)
      | split
      | dsimp only

theorem pushAll_keeps' {n : Nat} {l : Nat} {deadline : Int} {x0 : List RSlot} {s : State} {res : List RSlot} {u :
    State} (heq : pushAll n l deadline x0 s = (res, u)) (hk : Keeps fz s0 s) : Keeps fz s0 u := by
  have k := pushAll_keeps n l deadline x0 s hk
  rw [heq] at k
  exact k

theorem countAccSat_keeps (n k : Nat) (s : State) (hk : Keeps fz s0 s) : Keeps fz s0 (countAccSat n k s) := by
  unfold countAccSat
  repeat' first
    | (with_reducible assumption)
    | (intro _)
    | (with_reducible apply ite_keeps)
    | (with_reducible apply State.fadd_keeps)
    | split
    | dsimp only

theorem countLaneSat_keeps (n k : Nat) (s : State) (hk : Keeps fz s0 s) : Keeps fz s0 (countLaneSat n k s) := by
  unfold countLaneSat
  repeat' first
    | (with_reducible assumption)
    | (intro _)
    | (with_reducible apply ite_keeps)
    | (with_reducible apply State.fadd_keeps)
    | split
    | dsimp only

theorem passStart_keeps (n : Nat) (s : State) (hk : Keeps fz s0 s) : Keeps fz s0 (passStart n s) := by
  unfold passStart
  repeat' first
    | (with_reducible assumption)
    | (intro _)
    | (with_reducible apply ite_keeps)
    | (with_reducible apply dispatch_keeps)
    | (with_reducible apply onOven_keeps)
    | split
    | dsimp only

theorem execPassStart_keeps (n : Fin 48) (s : State) {nx : State} (hn : execPassStart n s = .next nx) : Keeps true s
    nx := by
  unfold execPassStart at hn
  have hk := Keeps.refl true s
  refine ok_keeps hn ?_
  repeat' first
    | (with_reducible assumption)
    | (intro _)
    | (with_reducible apply ite_keeps)
    | (with_reducible apply passStart_keeps)
    | split
    | dsimp only

theorem passEnded_keeps (id n : Nat) (taint : Bool) (s : State) (hk : Keeps fz s0 s) : Keeps fz s0 (passEnded id n
    taint s) := by
  unfold passEnded
  repeat' first
    | (with_reducible assumption)
    | (intro _)
    | (with_reducible apply ite_keeps)
    | (with_reducible apply onJob_keeps)
    | (with_reducible apply completeJob_keeps)
    | split
    | dsimp only

theorem passEnd_keeps (n : Nat) (s : State) (hk : Keeps fz s0 s) : Keeps fz s0 (passEnd n s) := by
  unfold passEnd
  repeat' first
    | (with_reducible assumption)
    | (intro _)
    | (with_reducible apply ite_keeps)
    | (with_reducible apply onOven_keeps)
    | (with_reducible apply passEnded_keeps)
    | (with_reducible apply State.fadd_keeps)
    | split
    | dsimp only

theorem execPassEnd_keeps (n : Fin 48) (s : State) {nx : State} (hn : execPassEnd n s = .next nx) : Keeps true s nx
    := by
  unfold execPassEnd at hn
  have hk := Keeps.refl true s
  refine ok_keeps hn ?_
  repeat' first
    | (with_reducible assumption)
    | (intro _)
    | (with_reducible apply ite_keeps)
    | (with_reducible apply passEnd_keeps)
    | split
    | dsimp only

theorem execLoop_keeps (n : Fin 48) (s : State) {nx : State} (hn : execLoop n s = .next nx) : Keeps true s nx := by
  unfold execLoop at hn
  have hk := Keeps.refl true s
  refine ok_keeps hn ?_
  repeat' first
    | (with_reducible assumption)
    | (intro _)
    | (with_reducible apply ite_keeps)
    | (with_reducible apply dispatch_keeps)
    | (with_reducible apply onOven_keeps)
    | split
    | dsimp only

theorem execOvenEnd_keeps (n : Fin 48) (s : State) {nx : State} (hn : execOvenEnd n s = .next nx) : Keeps true s nx
    := by
  unfold execOvenEnd at hn
  have hk := Keeps.refl true s
  refine ok_keeps hn ?_
  repeat' first
    | (with_reducible assumption)
    | (intro _)
    | (with_reducible apply ite_keeps)
    | (with_reducible apply onOven_keeps)
    | split
    | dsimp only

end Sys2Proof.Machine
end

