-- ==== Sys2Proof/Laws/KeepsMover.lean ====
section
/-! SUPPORT. What the operations of Machine/Mover.lean keep (Laws/Keeps.lean). -/
namespace Sys2Proof.Machine

variable {fz : Bool} {s0 : State}

theorem addReq_keeps (t cls g : Nat) (deadline : Int) (size : Nat) (op : ReqOp) (s : State) (hk : Keeps fz s0 s) :
    Keeps fz s0 (addReq t cls g deadline size op s) := by
  unfold addReq
  repeat' first
    | (with_reducible assumption)
    | (intro _)
    | (with_reducible apply ite_keeps)
    | split
    | dsimp only
    | (fail_if_no_progress with_reducible refine Keeps.updMk ?_ rfl rfl rfl rfl rfl rfl rfl)

theorem sendHostRead_keeps (h : HostRead) (s : State) (hk : Keeps fz s0 s) : Keeps fz s0 (sendHostRead h s) := by
  unfold sendHostRead
  repeat' first
    | (with_reducible assumption)
    | (intro _)
    | (with_reducible apply ite_keeps)
    | (with_reducible apply State.out_keeps)
    | split
    | dsimp only

theorem issueHost_keeps (port : PPort) (k fn addr len : Nat) (op : ReqOp) (s : State) (hk : Keeps fz s0 s) : Keeps
    fz s0 (issueHost port k fn addr len op s) := by
  unfold issueHost
  repeat' first
    | (with_reducible assumption)
    | (intro _)
    | (with_reducible apply ite_keeps)
    | (with_reducible apply State.fadd_keeps)
    | (with_reducible apply sendHostRead_keeps)
    | split
    | dsimp only
    | (fail_if_no_progress with_reducible refine Keeps.updMk ?_ rfl rfl rfl rfl rfl rfl rfl)

theorem noteHome_keeps (id h : Nat) (s : State) (hk : Keeps fz s0 s) : Keeps fz s0 (noteHome id h s) := by
  unfold noteHome
  repeat' first
    | (with_reducible assumption)
    | (intro _)
    | (with_reducible apply ite_keeps)
    | (with_reducible apply onJob_keeps)
    | split
    | dsimp only

theorem blockDone_keeps (n uid pantry len : Nat) (fetch : Bool) (r : AccRes) (s : State) (hk : Keeps fz s0 s) :
    Keeps fz s0 (blockDone n uid pantry len fetch r s) := by
  unfold blockDone
  repeat' first
    | (with_reducible assumption)
    | (intro _)
    | (with_reducible apply ite_keeps)
    | (with_reducible apply State.putPantry_keeps)
    | (with_reducible apply onOven_keeps)
    | (with_reducible apply onJob_keeps)
    | (with_reducible apply noteAccess_keeps)
    | (with_reducible apply onDisp_keeps)
    | split
    | dsimp only

theorem moverRun_keeps (n uid x0 : Nat) (s : State) (hk : Keeps fz s0 s) : Keeps fz s0 (moverRun n uid x0 s) := by
  induction x0 generalizing s with
  | zero => simpa only [moverRun] using hk
  | succ fuel ih =>
    rw [moverRun]
    repeat' first
      | (with_reducible assumption)
      | (intro _)
      | (with_reducible apply ite_keeps)
      | (with_reducible apply dispatch_keeps)
      | (with_reducible apply finishDisp_keeps)
      | (with_reducible apply onDisp_keeps)
      | (with_reducible apply addReq_keeps)
      | (with_reducible apply issueHost_keeps)
      | (with_reducible apply issueRemote_keeps)
      | (with_reducible apply noteHome_keeps)
      | (with_reducible apply readPiece_keeps)
      | (with_reducible refine readPiece_keeps' (by assumption) ?_)
      | (with_reducible apply writePiece_keeps)
      | (with_reducible refine writePiece_keeps' (by assumption) ?_)
      | (with_reducible apply blockDone_keeps)
      | (with_reducible apply ih)
      | split
      | dsimp only

theorem moverStart_keeps (n : Nat) (op : OvenOp) (s : State) (hk : Keeps fz s0 s) : Keeps fz s0 (moverStart n op s)
    := by
  unfold moverStart
  repeat' first
    | (with_reducible assumption)
    | (intro _)
    | (with_reducible apply ite_keeps)
    | (with_reducible apply moverRun_keeps)
    | (with_reducible apply dispatch_keeps)
    | (with_reducible apply onDisp_keeps)
    | split
    | dsimp only

theorem execFetch_keeps (n : Fin 48) (s : State) {nx : State} (hn : execFetch n s = .next nx) : Keeps true s nx :=
    by
  unfold execFetch at hn
  have hk := Keeps.refl true s
  refine ok_keeps hn ?_
  repeat' first
    | (with_reducible assumption)
    | (intro _)
    | (with_reducible apply ite_keeps)
    | (with_reducible apply moverStart_keeps)
    | split
    | dsimp only

theorem execFlush_keeps (n : Fin 48) (s : State) {nx : State} (hn : execFlush n s = .next nx) : Keeps true s nx :=
    by
  unfold execFlush at hn
  have hk := Keeps.refl true s
  refine ok_keeps hn ?_
  repeat' first
    | (with_reducible assumption)
    | (intro _)
    | (with_reducible apply ite_keeps)
    | (with_reducible apply moverStart_keeps)
    | split
    | dsimp only

theorem blockNext_keeps (n uid pantry len : Nat) (fetch : Bool) (r : AccRes) (s : State) (hk : Keeps fz s0 s) :
    Keeps fz s0 (blockNext n uid pantry len fetch r s) := by
  unfold blockNext
  repeat' first
    | (with_reducible assumption)
    | (intro _)
    | (with_reducible apply ite_keeps)
    | (with_reducible apply blockDone_keeps)
    | (with_reducible apply moverRun_keeps)
    | split
    | dsimp only

theorem answerRemote_keeps (m : MerMsg) (g status : Nat) (data : List Byte) (poison : Bool) (s : State) (hk : Keeps
    fz s0 s) : Keeps fz s0 (answerRemote m g status data poison s) := by
  unfold answerRemote
  repeat' first
    | (with_reducible assumption)
    | (intro _)
    | (with_reducible apply ite_keeps)
    | (with_reducible apply enqueueMsg_keeps)
    | split
    | dsimp only

theorem writeRuns_keeps (w : Who) (base : Nat) (p : Bool) (errs : List MemErr) (e : ExtReply) (x0 : Nat) (x1 : List
    (Nat × List Byte)) (s : State) (hk : Keeps fz s0 s) : Keeps fz s0 (writeRuns w base p errs e x0 x1 s).2 := by
  induction x1 generalizing x0 s with
  | nil => simpa only [writeRuns] using hk
  | cons x xs ih =>
    rw [writeRuns]
    have ih' : ∀ {x0} {s} {res0} {u}, writeRuns w base p errs e x0 xs s = (res0, u) → Keeps fz s0 s → Keeps fz s0 u :=
        by
      intro x0 s res0 u hq k
      have := ih x0 s k
      rw [hq] at this; exact this
    repeat' first
      | (with_reducible assumption)
      | (intro _)
      | (with_reducible apply ite_keeps)
      | (with_reducible apply writeBytes_keeps)
      | (with_reducible refine writeBytes_keeps' (by assumption) ?_)
      | (with_reducible apply ih)
      | (with_reducible refine ih' (by assumption) ?_)
      | split
      | dsimp only

theorem writeRuns_keeps' {w : Who} {base : Nat} {p : Bool} {errs : List MemErr} {e : ExtReply} {x0 : Nat} {x1 : List
    (Nat × List Byte)} {s : State} {res : AccRes} {u : State} (heq : writeRuns w base p errs e x0 x1 s = (res, u))
    (hk : Keeps fz s0 s) : Keeps fz s0 u := by
  have k := writeRuns_keeps w base p errs e x0 x1 s hk
  rw [heq] at k
  exact k

theorem performGuest_keeps (l : Nat) (m : MerMsg) (proxy : Nat) (errs : List MemErr) (e : ExtReply) (s : State) (hk
    : Keeps fz s0 s) : Keeps fz s0 (performGuest l m proxy errs e s) := by
  unfold performGuest
  repeat' first
    | (with_reducible assumption)
    | (intro _)
    | (with_reducible apply ite_keeps)
    | (with_reducible apply returnUnits_keeps)
    | (with_reducible apply readBytes_keeps)
    | (with_reducible refine readBytes_keeps' (by assumption) ?_)
    | (with_reducible apply answerRemote_keeps)
    | (with_reducible apply writeBytes_keeps)
    | (with_reducible refine writeBytes_keeps' (by assumption) ?_)
    | (with_reducible apply writeRuns_keeps)
    | (with_reducible refine writeRuns_keeps' (by assumption) ?_)
    | split
    | dsimp only

theorem askCopy_keeps (off : Nat) (s : State) (hk : Keeps fz s0 s) : Keeps fz s0 (askCopy off s) := by
  unfold askCopy
  repeat' first
    | (with_reducible assumption)
    | (intro _)
    | (with_reducible apply ite_keeps)
    | (with_reducible apply addReq_keeps)
    | split
    | dsimp only

theorem copyBlock_keeps (off : Nat) (errs : List MemErr) (s : State) (hk : Keeps fz s0 s) : Keeps fz s0 (copyBlock
    off errs s) := by
  unfold copyBlock
  repeat' first
    | (with_reducible assumption)
    | (intro _)
    | (with_reducible apply ite_keeps)
    | (with_reducible apply dramRead_keeps)
    | (with_reducible refine dramRead_keeps' (by assumption) ?_)
    | (with_reducible apply dramService_keeps)
    | (with_reducible apply askCopy_keeps)
    | (with_reducible apply issueRemote_keeps)
    | split
    | dsimp only

theorem performOp_keeps (op : ReqOp) (errs : List MemErr) (e : ExtReply) (s : State) (hk : Keeps fz s0 s) : Keeps fz
    s0 (performOp op errs e s) := by
  unfold performOp
  repeat' first
    | (with_reducible assumption)
    | (intro _)
    | (with_reducible apply ite_keeps)
    | (with_reducible apply readPiece_keeps)
    | (with_reducible refine readPiece_keeps' (by assumption) ?_)
    | (with_reducible apply blockNext_keeps)
    | (with_reducible apply holdWrite_keeps)
    | (with_reducible apply writePiece_keeps)
    | (with_reducible refine writePiece_keeps' (by assumption) ?_)
    | (with_reducible apply performGuest_keeps)
    | (with_reducible apply sendMsg_keeps)
    | (with_reducible apply returnUnits_keeps)
    | (with_reducible apply copyBlock_keeps)
    | split
    | dsimp only

theorem resolveOp_keeps (op : ReqOp) (r : AccRes) (s : State) (hk : Keeps fz s0 s) : Keeps fz s0 (resolveOp op r s)
    := by
  unfold resolveOp
  repeat' first
    | (with_reducible assumption)
    | (intro _)
    | (with_reducible apply ite_keeps)
    | (with_reducible apply blockNext_keeps)
    | (with_reducible apply answerRemote_keeps)
    | split
    | dsimp only
    | (fail_if_no_progress with_reducible refine Keeps.updMk ?_ rfl rfl rfl rfl rfl rfl rfl)

theorem serveReq_keeps (t : Nat) (errs : List MemErr) (s : State) (hk : Keeps fz s0 s) : Keeps fz s0 (serveReq t
    errs s) := by
  unfold serveReq
  repeat' first
    | (with_reducible assumption)
    | (intro _)
    | (with_reducible apply ite_keeps)
    | (with_reducible apply charge_keeps)
    | (with_reducible apply performOp_keeps)
    | split
    | dsimp only
    | (fail_if_no_progress with_reducible refine Keeps.updMk ?_ rfl rfl rfl rfl rfl rfl rfl)

theorem promoteReq_keeps (t : Nat) (s : State) (hk : Keeps fz s0 s) : Keeps fz s0 (promoteReq t s) := by
  unfold promoteReq
  repeat' first
    | (with_reducible assumption)
    | (intro _)
    | (with_reducible apply ite_keeps)
    | (with_reducible apply State.fadd_keeps)
    | split
    | dsimp only
    | (fail_if_no_progress with_reducible refine Keeps.updMk ?_ rfl rfl rfl rfl rfl rfl rfl)

theorem sendWaiting_keeps (p : PPort) (s : State) (hk : Keeps fz s0 s) : Keeps fz s0 (sendWaiting p s) := by
  unfold sendWaiting
  repeat' first
    | (with_reducible assumption)
    | (intro _)
    | (with_reducible apply ite_keeps)
    | (with_reducible apply sendHostRead_keeps)
    | split
    | dsimp only
    | (fail_if_no_progress with_reducible refine Keeps.updMk ?_ rfl rfl rfl rfl rfl rfl rfl)

theorem dropHostRead_keeps (h : HostRead) (s : State) (hk : Keeps fz s0 s) : Keeps fz s0 (dropHostRead h s) := by
  unfold dropHostRead
  repeat' first
    | (with_reducible assumption)
    | (intro _)
    | (with_reducible apply ite_keeps)
    | (with_reducible apply State.fset_keeps)
    | (with_reducible apply sendWaiting_keeps)
    | split
    | dsimp only
    | (fail_if_no_progress with_reducible refine Keeps.updMk ?_ rfl rfl rfl rfl rfl rfl rfl)

theorem hostReadEnds_keeps (h : HostRead) (e : ExtReply) (s : State) (hk : Keeps fz s0 s) : Keeps fz s0
    (hostReadEnds h e s) := by
  unfold hostReadEnds
  repeat' first
    | (with_reducible assumption)
    | (intro _)
    | (with_reducible apply ite_keeps)
    | (with_reducible apply dropHostRead_keeps)
    | (with_reducible apply resolveOp_keeps)
    | (with_reducible apply logHostRead_keeps)
    | split
    | dsimp only

theorem hostReadCompletion_keeps (tag : Nat) (e : ExtReply) (s : State) (hk : Keeps fz s0 s) : Keeps fz s0
    (hostReadCompletion tag e s) := by
  unfold hostReadCompletion
  repeat' first
    | (with_reducible assumption)
    | (intro _)
    | (with_reducible apply ite_keeps)
    | (with_reducible apply hostReadEnds_keeps)
    | split
    | dsimp only

theorem execHostReadCompletion_keeps (tag : Nat) (e : ExtReply) (s : State) {nx : State} (hn :
    execHostReadCompletion tag e s = .next nx) : Keeps true s nx := by
  unfold execHostReadCompletion at hn
  have hk := Keeps.refl true s
  refine ok_keeps hn ?_
  repeat' first
    | (with_reducible assumption)
    | (intro _)
    | (with_reducible apply ite_keeps)
    | (with_reducible apply hostReadCompletion_keeps)
    | split
    | dsimp only

theorem completionTimeout_keeps (tag : Nat) (s : State) (hk : Keeps fz s0 s) : Keeps fz s0 (completionTimeout tag s)
    := by
  unfold completionTimeout
  repeat' first
    | (with_reducible assumption)
    | (intro _)
    | (with_reducible apply ite_keeps)
    | (with_reducible apply hostReadEnds_keeps)
    | split
    | dsimp only

theorem execCompletionTimeout_keeps (tag : Nat) (s : State) {nx : State} (hn : execCompletionTimeout tag s = .next
    nx) : Keeps true s nx := by
  unfold execCompletionTimeout at hn
  have hk := Keeps.refl true s
  refine ok_keeps hn ?_
  repeat' first
    | (with_reducible assumption)
    | (intro _)
    | (with_reducible apply ite_keeps)
    | (with_reducible apply completionTimeout_keeps)
    | split
    | dsimp only

end Sys2Proof.Machine
end

