-- ==== Sys2Proof/Laws/KeepsSetOps.lean ====
section
/-! SUPPORT. What the operations of Machine/SetOps.lean keep (Laws/Keeps.lean). -/
namespace Sys2Proof.Machine

variable {fz : Bool} {s0 : State}

theorem onWins_keeps (g : Window → Window) (s : State) (hk : Keeps fz s0 s) : Keeps fz s0 (onWins g s) := by
  unfold onWins
  repeat' first
    | (with_reducible assumption)
    | (intro _)
    | (with_reducible apply ite_keeps)
    | split
    | dsimp only
    | (fail_if_no_progress with_reducible refine Keeps.updMk ?_ rfl rfl rfl rfl rfl rfl rfl)

theorem ctlTo_keeps (h : Nat) (m : MerMsg) (s : State) (hk : Keeps fz s0 s) : Keeps fz s0 (ctlTo h m s) := by
  unfold ctlTo
  repeat' first
    | (with_reducible assumption)
    | (intro _)
    | (with_reducible apply ite_keeps)
    | (with_reducible apply sendCtl_keeps)
    | split
    | dsimp only

theorem setMsg_keeps (h kind : Nat) (fields : List Nat) (s : State) (hk : Keeps fz s0 s) : Keeps fz s0 (setMsg h
    kind fields s) := by
  unfold setMsg
  repeat' first
    | (with_reducible assumption)
    | (intro _)
    | (with_reducible apply ite_keeps)
    | (with_reducible apply ctlTo_keeps)
    | split
    | dsimp only

theorem setAll_keeps (kind : Nat) (fields : List Nat) (s : State) (hk : Keeps fz s0 s) : Keeps fz s0 (setAll kind
    fields s) := by
  unfold setAll
  repeat' first
    | (with_reducible assumption)
    | (intro _)
    | (with_reducible apply ite_keeps)
    | (with_reducible apply setMsg_keeps)
    | (with_reducible apply foldl_keeps)
    | split
    | dsimp only

theorem onSet_keeps (g : SetState → SetState) (s : State) (hk : Keeps fz s0 s) : Keeps fz s0 (onSet g s) := by
  unfold onSet
  repeat' first
    | (with_reducible assumption)
    | (intro _)
    | (with_reducible apply ite_keeps)
    | split
    | dsimp only
    | (fail_if_no_progress with_reducible refine Keeps.updMk ?_ rfl rfl rfl rfl rfl rfl rfl)

theorem addReloc_keeps (base size : Nat) (newBase : Option Nat) (s : State) (hk : Keeps fz s0 s) : Keeps fz s0
    (addReloc base size newBase s) := by
  unfold addReloc
  repeat' first
    | (with_reducible assumption)
    | (intro _)
    | (with_reducible apply ite_keeps)
    | (with_reducible apply onWins_keeps)
    | split
    | dsimp only
    | (fail_if_no_progress with_reducible refine Keeps.updMk ?_ rfl rfl rfl rfl rfl rfl rfl)

theorem stopHolding_keeps (s : State) (hk : Keeps fz s0 s) : Keeps fz s0 (stopHolding s) := by
  unfold stopHolding
  repeat' first
    | (with_reducible assumption)
    | (intro _)
    | (with_reducible apply ite_keeps)
    | split
    | dsimp only
    | (fail_if_no_progress with_reducible refine Keeps.updMk ?_ rfl rfl rfl rfl rfl rfl rfl)

theorem releaseOne_keeps (x : HeldWrite) (s : State) (hk : Keeps fz s0 s) : Keeps fz s0 (releaseOne x s) := by
  unfold releaseOne
  repeat' first
    | (with_reducible assumption)
    | (intro _)
    | (with_reducible apply ite_keeps)
    | (with_reducible apply dramWrite_keeps)
    | (with_reducible apply dramService_keeps)
    | (with_reducible apply performOp_keeps)
    | split
    | dsimp only

theorem releaseHeld_keeps (s : State) (hk : Keeps fz s0 s) : Keeps fz s0 (releaseHeld s) := by
  unfold releaseHeld
  repeat' first
    | (with_reducible assumption)
    | (intro _)
    | (with_reducible apply ite_keeps)
    | (with_reducible apply releaseOne_keeps)
    | (with_reducible apply stopHolding_keeps)
    | (with_reducible apply foldl_keeps)
    | split
    | dsimp only

theorem forwardHeld_keeps (base new : Nat) (x : HeldWrite) (s : State) (hk : Keeps fz s0 s) : Keeps fz s0
    (forwardHeld base new x s) := by
  unfold forwardHeld
  repeat' first
    | (with_reducible assumption)
    | (intro _)
    | (with_reducible apply ite_keeps)
    | (with_reducible apply enqueueFrom_keeps)
    | (with_reducible apply returnUnits_keeps)
    | (with_reducible apply answerRemote_keeps)
    | (with_reducible apply issueRemote_keeps)
    | (with_reducible apply resolveOp_keeps)
    | split
    | dsimp only

theorem forwardAll_keeps (base new : Nat) (s : State) (hk : Keeps fz s0 s) : Keeps fz s0 (forwardAll base new s) :=
    by
  unfold forwardAll
  repeat' first
    | (with_reducible assumption)
    | (intro _)
    | (with_reducible apply ite_keeps)
    | (with_reducible apply forwardHeld_keeps)
    | (with_reducible apply stopHolding_keeps)
    | (with_reducible apply foldl_keeps)
    | split
    | dsimp only

theorem tellWindow_keeps (win : Window) (newBase : Option Nat) (stage : SetStage) (s : State) (hk : Keeps fz s0 s) :
    Keeps fz s0 (tellWindow win newBase stage s) := by
  unfold tellWindow
  repeat' first
    | (with_reducible assumption)
    | (intro _)
    | (with_reducible apply ite_keeps)
    | (with_reducible apply setAll_keeps)
    | (with_reducible apply onSet_keeps)
    | split
    | dsimp only

theorem nextWindow_keeps (relocated dark : Nat) (s : State) (hk : Keeps fz s0 s) : Keeps fz s0 (nextWindow relocated
    dark s) := by
  unfold nextWindow
  repeat' first
    | (with_reducible assumption)
    | (intro _)
    | (with_reducible apply ite_keeps)
    | (with_reducible apply onSet_keeps)
    | split
    | dsimp only

theorem setProceed_keeps (x0 : Nat) (s : State) (hk : Keeps fz s0 s) : Keeps fz s0 (setProceed x0 s) := by
  induction x0 generalizing s with
  | zero => simpa only [setProceed] using hk
  | succ fuel ih =>
    rw [setProceed]
    repeat' first
      | (with_reducible assumption)
      | (intro _)
      | (with_reducible apply ite_keeps)
      | (with_reducible apply setAll_keeps)
      | (with_reducible apply onSet_keeps)
      | (with_reducible apply setMsg_keeps)
      | (with_reducible apply tellWindow_keeps)
      | (with_reducible apply releaseHeld_keeps)
      | (with_reducible apply nextWindow_keeps)
      | (with_reducible apply forwardAll_keeps)
      | (with_reducible apply addReloc_keeps)
      | (with_reducible apply ih)
      | split
      | dsimp only

theorem setGoesOn_keeps (s : State) (hk : Keeps fz s0 s) : Keeps fz s0 (setGoesOn s) := by
  unfold setGoesOn
  repeat' first
    | (with_reducible assumption)
    | (intro _)
    | (with_reducible apply ite_keeps)
    | (with_reducible apply setProceed_keeps)
    | split
    | dsimp only

theorem setLoses_keeps (h : Nat) (s : State) (hk : Keeps fz s0 s) : Keeps fz s0 (setLoses h s) := by
  unfold setLoses
  split
  · exact hk
  · extract_lets voids asked awaited s1
    have k : Keeps fz s0 s1 := onSet_keeps _ _ hk
    exact ite_keeps (setGoesOn_keeps _ (onSet_keeps _ _ (releaseHeld_keeps _ k))) (ite_keeps (setGoesOn_keeps _ k) k)

end Sys2Proof.Machine
end

