-- ==== Sys2Proof/Laws/KeepsMerLinks.lean ====
section
/-! SUPPORT. What the operations of Machine/MerLinks.lean keep (Laws/Keeps.lean). -/
namespace Sys2Proof.Machine

variable {fz : Bool} {s0 : State}

theorem inState_keeps (l v : Nat) (g : State → State) (s : State) (hg : ∀ (s : State), Keeps fz s0 s → Keeps fz s0
    (g s)) (hk : Keeps fz s0 s) : Keeps fz s0 (inState l v g s) := by
  unfold inState
  repeat' first
    | (with_reducible assumption)
    | (intro _)
    | (with_reducible apply ite_keeps)
    | (apply hg)
    | split
    | dsimp only

theorem syncReach_keeps (s : State) (hk : Keeps fz s0 s) : Keeps fz s0 (syncReach s) := by
  unfold syncReach
  repeat' first
    | (with_reducible assumption)
    | (intro _)
    | (with_reducible apply ite_keeps)
    | (with_reducible apply State.fset_keeps)
    | split
    | dsimp only

theorem linkDetect_keeps (l : Nat) (s : State) (hk : Keeps fz s0 s) : Keeps fz s0 (linkDetect l s) := by
  unfold linkDetect
  repeat' first
    | (with_reducible assumption)
    | (intro _)
    | (with_reducible apply ite_keeps)
    | (with_reducible apply setLinkState_keeps)
    | (with_reducible apply onLink_keeps)
    | split
    | dsimp only

theorem execLinkDetect_keeps (l : Fin 4) (s : State) {nx : State} (hn : execLinkDetect l s = .next nx) : Keeps true
    s nx := by
  unfold execLinkDetect at hn
  have hk := Keeps.refl true s
  refine ok_keeps hn ?_
  repeat' first
    | (with_reducible assumption)
    | (intro _)
    | (with_reducible apply ite_keeps)
    | (with_reducible apply linkDetect_keeps)
    | split
    | dsimp only

theorem resetLink_keeps (l : Nat) (s : State) (hk : Keeps fz s0 s) : Keeps fz s0 (resetLink l s) := by
  unfold resetLink
  repeat' first
    | (with_reducible assumption)
    | (intro _)
    | (with_reducible apply ite_keeps)
    | (with_reducible apply State.fset_keeps)
    | (with_reducible apply onLink_keeps)
    | split
    | dsimp only
    | (fail_if_no_progress with_reducible refine Keeps.updMk ?_ rfl rfl rfl rfl rfl rfl rfl)

theorem dropLink_keeps (l : Nat) (s : State) (hk : Keeps fz s0 s) : Keeps fz s0 (dropLink l s) := by
  unfold dropLink
  repeat' first
    | (with_reducible assumption)
    | (intro _)
    | (with_reducible apply ite_keeps)
    | (with_reducible apply resetLink_keeps)
    | (with_reducible apply setLinkState_keeps)
    | split
    | dsimp only

theorem enterIdent_keeps (l gen : Nat) (s : State) (hk : Keeps fz s0 s) : Keeps fz s0 (enterIdent l gen s) := by
  unfold enterIdent
  repeat' first
    | (with_reducible assumption)
    | (intro _)
    | (with_reducible apply ite_keeps)
    | (with_reducible apply State.fset_keeps)
    | (with_reducible apply onLink_keeps)
    | (with_reducible apply State.out_keeps)
    | (with_reducible apply setLinkState_keeps)
    | split
    | dsimp only

theorem fallBack_keeps (l : Nat) (s : State) (hk : Keeps fz s0 s) : Keeps fz s0 (fallBack l s) := by
  unfold fallBack
  repeat' first
    | (with_reducible assumption)
    | (intro _)
    | (with_reducible apply ite_keeps)
    | (with_reducible apply State.fset_keeps)
    | (with_reducible apply onLink_keeps)
    | split
    | dsimp only

theorem trainDone_keeps (l peerGen : Nat) (lanes : List (Fin 8 × Bool)) (s : State) (hk : Keeps fz s0 s) : Keeps fz
    s0 (trainDone l peerGen lanes s) := by
  unfold trainDone
  repeat' first
    | (with_reducible assumption)
    | (intro _)
    | (with_reducible apply ite_keeps)
    | (with_reducible apply inState_keeps)
    | (with_reducible apply dropLink_keeps)
    | (with_reducible apply State.fset_keeps)
    | (with_reducible apply fallBack_keeps)
    | (with_reducible apply enterIdent_keeps)
    | (with_reducible apply State.out_keeps)
    | (with_reducible apply onLink_keeps)
    | split
    | dsimp only

theorem execMeridianTrainDone_keeps (l : Fin 4) (peerGen : Nat) (lanes : List (Fin 8 × Bool)) (s : State) {nx :
    State} (hn : execMeridianTrainDone l peerGen lanes s = .next nx) : Keeps true s nx := by
  unfold execMeridianTrainDone at hn
  have hk := Keeps.refl true s
  refine ok_keeps hn ?_
  repeat' first
    | (with_reducible assumption)
    | (intro _)
    | (with_reducible apply ite_keeps)
    | (with_reducible apply trainDone_keeps)
    | split
    | dsimp only

theorem gen2Fallback_keeps (l : Nat) (errors : Bool) (s : State) (hk : Keeps fz s0 s) : Keeps fz s0 (gen2Fallback l
    errors s) := by
  unfold gen2Fallback
  repeat' first
    | (with_reducible assumption)
    | (intro _)
    | (with_reducible apply ite_keeps)
    | (with_reducible apply inState_keeps)
    | (with_reducible apply fallBack_keeps)
    | split
    | dsimp only

theorem execGen2Fallback_keeps (l : Fin 4) (errors : Bool) (s : State) {nx : State} (hn : execGen2Fallback l errors
    s = .next nx) : Keeps true s nx := by
  unfold execGen2Fallback at hn
  have hk := Keeps.refl true s
  refine ok_keeps hn ?_
  repeat' first
    | (with_reducible assumption)
    | (intro _)
    | (with_reducible apply ite_keeps)
    | (with_reducible apply gen2Fallback_keeps)
    | split
    | dsimp only

theorem linkIdent_keeps (l constId home plink unit : Nat) (s : State) (hk : Keeps fz s0 s) : Keeps fz s0 (linkIdent
    l constId home plink unit s) := by
  unfold linkIdent
  repeat' first
    | (with_reducible assumption)
    | (intro _)
    | (with_reducible apply ite_keeps)
    | (with_reducible apply inState_keeps)
    | (with_reducible apply State.fset_keeps)
    | (with_reducible apply logFault_keeps)
    | (with_reducible apply setLinkState_keeps)
    | (with_reducible apply onLink_keeps)
    | split
    | dsimp only

theorem execLinkIdent_keeps (l : Fin 4) (constId : Word) (home : Fin 8) (plink : Fin 4) (x0 : Word) (unit : BitVec
    64) (s : State) {nx : State} (hn : execLinkIdent l constId home plink x0 unit s = .next nx) : Keeps true s nx :=
    by
  unfold execLinkIdent at hn
  have hk := Keeps.refl true s
  refine ok_keeps hn ?_
  repeat' first
    | (with_reducible assumption)
    | (intro _)
    | (with_reducible apply ite_keeps)
    | (with_reducible apply linkIdent_keeps)
    | split
    | dsimp only

theorem refusedRetry_keeps (l : Nat) (s : State) (hk : Keeps fz s0 s) : Keeps fz s0 (refusedRetry l s) := by
  unfold refusedRetry
  repeat' first
    | (with_reducible assumption)
    | (intro _)
    | (with_reducible apply ite_keeps)
    | (with_reducible apply setLinkState_keeps)
    | split
    | dsimp only

theorem execRefusedRetry_keeps (l : Fin 4) (s : State) {nx : State} (hn : execRefusedRetry l s = .next nx) : Keeps
    true s nx := by
  unfold execRefusedRetry at hn
  have hk := Keeps.refl true s
  refine ok_keeps hn ?_
  repeat' first
    | (with_reducible assumption)
    | (intro _)
    | (with_reducible apply ite_keeps)
    | (with_reducible apply refusedRetry_keeps)
    | split
    | dsimp only

theorem linkTrained_keeps (l : Nat) (s : State) (hk : Keeps fz s0 s) : Keeps fz s0 (linkTrained l s) := by
  unfold linkTrained
  repeat' first
    | (with_reducible assumption)
    | (intro _)
    | (with_reducible apply ite_keeps)
    | (with_reducible apply inState_keeps)
    | (with_reducible apply onLink_keeps)
    | (with_reducible apply raiseZen_keeps)
    | (with_reducible apply setLinkState_keeps)
    | split
    | dsimp only

theorem execLinkTrained_keeps (l : Fin 4) (s : State) {nx : State} (hn : execLinkTrained l s = .next nx) : Keeps
    true s nx := by
  unfold execLinkTrained at hn
  have hk := Keeps.refl true s
  refine ok_keeps hn ?_
  repeat' first
    | (with_reducible assumption)
    | (intro _)
    | (with_reducible apply ite_keeps)
    | (with_reducible apply linkTrained_keeps)
    | split
    | dsimp only

theorem answerReq_keeps (q : RemoteReq) (r : AccRes) (s : State) (hk : Keeps fz s0 s) : Keeps fz s0 (answerReq q r
    s) := by
  unfold answerReq
  repeat' first
    | (with_reducible assumption)
    | (intro _)
    | (with_reducible apply ite_keeps)
    | (with_reducible apply resolveOp_keeps)
    | split
    | dsimp only
    | (fail_if_no_progress with_reducible refine Keeps.updMk ?_ rfl rfl rfl rfl rfl rfl rfl)

theorem answerAll_keeps (r : RemoteReq → AccRes) (x0 : List RemoteReq) (s : State) (hk : Keeps fz s0 s) : Keeps fz
    s0 (answerAll r x0 s) := by
  induction x0 generalizing s with
  | nil => simpa only [answerAll] using hk
  | cons x xs ih =>
    rw [answerAll]
    repeat' first
      | (with_reducible assumption)
      | (intro _)
      | (with_reducible apply ite_keeps)
      | (with_reducible apply answerReq_keeps)
      | (with_reducible apply ih)
      | split
      | dsimp only

theorem forwardMsg_keeps (from_ : Option Nat) (m : MerMsg) (s : State) (hk : Keeps fz s0 s) : Keeps fz s0
    (forwardMsg from_ m s) := by
  unfold forwardMsg
  repeat' first
    | (with_reducible assumption)
    | (intro _)
    | (with_reducible apply ite_keeps)
    | (with_reducible apply enqueueFrom_keeps)
    | (with_reducible apply returnUnits_keeps)
    | (with_reducible apply answerRemote_keeps)
    | split
    | dsimp only

theorem loseJobs_keeps (b h : Nat) (s : State) (hk : Keeps fz s0 s) : Keeps fz s0 (loseJobs b h s) := by
  unfold loseJobs
  repeat' first
    | (with_reducible assumption)
    | (intro _)
    | (with_reducible apply ite_keeps)
    | (with_reducible apply onJobs_keeps)
    | split
    | dsimp only

theorem disconnectRacks_keeps (p : Rack → Bool) (s : State) (hk : Keeps fz s0 s) : Keeps fz s0 (disconnectRacks p s)
    := by
  unfold disconnectRacks
  repeat' first
    | (with_reducible assumption)
    | (intro _)
    | (with_reducible apply ite_keeps)
    | (with_reducible apply loseJobs_keeps)
    | (with_reducible apply foldl_keeps)
    | split
    | dsimp only
    | (fail_if_no_progress with_reducible refine Keeps.updMk ?_ rfl rfl rfl rfl rfl rfl rfl)

theorem darken_keeps (h : Nat) (s : State) (hk : Keeps fz s0 s) : Keeps fz s0 (darken h s) := by
  unfold darken
  repeat' first
    | (with_reducible assumption)
    | (intro _)
    | (with_reducible apply ite_keeps)
    | (with_reducible apply onWins_keeps)
    | split
    | dsimp only

theorem relight_keeps (s : State) (hk : Keeps fz s0 s) : Keeps fz s0 (relight s) := by
  unfold relight
  repeat' first
    | (with_reducible assumption)
    | (intro _)
    | (with_reducible apply ite_keeps)
    | (with_reducible apply onWins_keeps)
    | split
    | dsimp only

theorem starLost_keeps (h cause : Nat) (s : State) (hk : Keeps fz s0 s) : Keeps fz s0 (starLost h cause s) := by
  unfold starLost
  repeat' first
    | (with_reducible assumption)
    | (intro _)
    | (with_reducible apply ite_keeps)
    | (with_reducible apply merEvent_keeps)
    | (with_reducible apply logFault_keeps)
    | (with_reducible apply onJobs_keeps)
    | (with_reducible apply disconnectRacks_keeps)
    | (with_reducible apply darken_keeps)
    | (with_reducible apply answerAll_keeps)
    | (with_reducible apply setLoses_keeps)
    | split
    | dsimp only
    | (fail_if_no_progress with_reducible refine Keeps.updMk ?_ rfl rfl rfl rfl rfl rfl rfl)

theorem sendWithdrawal_keeps (l : Nat) (hs : List Nat) (s : State) (hk : Keeps fz s0 s) : Keeps fz s0
    (sendWithdrawal l hs s) := by
  unfold sendWithdrawal
  repeat' first
    | (with_reducible assumption)
    | (intro _)
    | (with_reducible apply ite_keeps)
    | (with_reducible apply sendCtl_keeps)
    | (with_reducible apply foldl_keeps)
    | split
    | dsimp only

theorem unroute_keeps (l : Nat) (hs : List Nat) (cause : Nat) (s : State) (hk : Keeps fz s0 s) : Keeps fz s0
    (unroute l hs cause s) := by
  unfold unroute
  repeat' first
    | (with_reducible assumption)
    | (intro _)
    | (with_reducible apply ite_keeps)
    | (with_reducible apply State.fset_keeps)
    | (with_reducible apply sendWithdrawal_keeps)
    | (with_reducible apply syncReach_keeps)
    | (with_reducible apply starLost_keeps)
    | (with_reducible apply foldl_keeps)
    | split
    | dsimp only

theorem finishFinal_keeps (h : Nat) (s : State) (hk : Keeps fz s0 s) : Keeps fz s0 (finishFinal h s) := by
  unfold finishFinal
  repeat' first
    | (with_reducible assumption)
    | (intro _)
    | (with_reducible apply ite_keeps)
    | (with_reducible apply onWins_keeps)
    | (with_reducible apply disconnectRacks_keeps)
    | (with_reducible apply sendCtl_keeps)
    | (with_reducible apply State.fset_keeps)
    | (with_reducible apply onLink_keeps)
    | (with_reducible apply syncReach_keeps)
    | (with_reducible apply foldl_keeps)
    | split
    | dsimp only
    | (fail_if_no_progress with_reducible refine Keeps.updMk ?_ rfl rfl rfl rfl rfl rfl rfl)

theorem settleFinals_keeps (s : State) (hk : Keeps fz s0 s) : Keeps fz s0 (settleFinals s) := by
  unfold settleFinals
  repeat' first
    | (with_reducible assumption)
    | (intro _)
    | (with_reducible apply ite_keeps)
    | (with_reducible apply finishFinal_keeps)
    | (with_reducible apply foldl_keeps)
    | split
    | dsimp only

theorem rerouteEgress_keeps (l : Nat) (s : State) (hk : Keeps fz s0 s) : Keeps fz s0 (rerouteEgress l s) := by
  unfold rerouteEgress
  repeat' first
    | (with_reducible assumption)
    | (intro _)
    | (with_reducible apply ite_keeps)
    | (with_reducible apply forwardMsg_keeps)
    | (with_reducible apply foldl_keeps)
    | split
    | dsimp only
    | (fail_if_no_progress with_reducible refine Keeps.updMk ?_ rfl rfl rfl rfl rfl rfl rfl)

theorem detach_keeps (l : Nat) (s : State) (hk : Keeps fz s0 s) : Keeps fz s0 (detach l s) := by
  unfold detach
  repeat' first
    | (with_reducible assumption)
    | (intro _)
    | (with_reducible apply ite_keeps)
    | (with_reducible apply unroute_keeps)
    | (with_reducible apply disconnectRacks_keeps)
    | (with_reducible apply rerouteEgress_keeps)
    | (with_reducible apply settleFinals_keeps)
    | (with_reducible apply answerAll_keeps)
    | split
    | dsimp only

theorem loseLink_keeps (l cause : Nat) (s : State) (hk : Keeps fz s0 s) : Keeps fz s0 (loseLink l cause s) := by
  unfold loseLink
  repeat' first
    | (with_reducible assumption)
    | (intro _)
    | (with_reducible apply ite_keeps)
    | (with_reducible apply State.fadd_keeps)
    | (with_reducible apply logFault_keeps)
    | (with_reducible apply detach_keeps)
    | (with_reducible apply raiseZen_keeps)
    | (with_reducible apply dropLink_keeps)
    | split
    | dsimp only

theorem signalLost_keeps (l cause : Nat) (s : State) (hk : Keeps fz s0 s) : Keeps fz s0 (signalLost l cause s) := by
  unfold signalLost
  repeat' first
    | (with_reducible assumption)
    | (intro _)
    | (with_reducible apply ite_keeps)
    | (with_reducible apply detach_keeps)
    | (with_reducible apply dropLink_keeps)
    | (with_reducible apply loseLink_keeps)
    | split
    | dsimp only

theorem execLinkLost_keeps (l : Fin 4) (s : State) {nx : State} (hn : execLinkLost l s = .next nx) : Keeps true s nx
    := by
  unfold execLinkLost at hn
  have hk := Keeps.refl true s
  refine ok_keeps hn ?_
  repeat' first
    | (with_reducible assumption)
    | (intro _)
    | (with_reducible apply ite_keeps)
    | (with_reducible apply signalLost_keeps)
    | split
    | dsimp only

theorem ackTimeout_keeps (l : Nat) (s : State) (hk : Keeps fz s0 s) : Keeps fz s0 (ackTimeout l s) := by
  unfold ackTimeout
  repeat' first
    | (with_reducible assumption)
    | (intro _)
    | (with_reducible apply ite_keeps)
    | (with_reducible apply loseLink_keeps)
    | split
    | dsimp only

theorem execAckProgressTimeout_keeps (l : Fin 4) (s : State) {nx : State} (hn : execAckProgressTimeout l s = .next
    nx) : Keeps true s nx := by
  unfold execAckProgressTimeout at hn
  have hk := Keeps.refl true s
  refine ok_keeps hn ?_
  repeat' first
    | (with_reducible assumption)
    | (intro _)
    | (with_reducible apply ite_keeps)
    | (with_reducible apply ackTimeout_keeps)
    | split
    | dsimp only

theorem replayExhausted_keeps (l : Nat) (s : State) (hk : Keeps fz s0 s) : Keeps fz s0 (replayExhausted l s) := by
  unfold replayExhausted
  repeat' first
    | (with_reducible assumption)
    | (intro _)
    | (with_reducible apply ite_keeps)
    | (with_reducible apply onLink_keeps)
    | (with_reducible apply loseLink_keeps)
    | split
    | dsimp only

theorem execReplayExhausted_keeps (l : Fin 4) (s : State) {nx : State} (hn : execReplayExhausted l s = .next nx) :
    Keeps true s nx := by
  unfold execReplayExhausted at hn
  have hk := Keeps.refl true s
  refine ok_keeps hn ?_
  repeat' first
    | (with_reducible assumption)
    | (intro _)
    | (with_reducible apply ite_keeps)
    | (with_reducible apply replayExhausted_keeps)
    | split
    | dsimp only

theorem actLinkCtrl_keeps (l : Nat) (disable : Bool) (s : State) (hk : Keeps fz s0 s) : Keeps fz s0 (actLinkCtrl l
    disable s) := by
  unfold actLinkCtrl
  repeat' first
    | (with_reducible assumption)
    | (intro _)
    | (with_reducible apply ite_keeps)
    | (with_reducible apply State.fset_keeps)
    | (with_reducible apply loseLink_keeps)
    | (with_reducible apply dropLink_keeps)
    | (with_reducible apply setLinkState_keeps)
    | split
    | dsimp only

theorem execLinkDisable_keeps (f : HostFn) (l : Fin 4) (s : State) {nx : State} (hn : execLinkDisable f l s = .next
    nx) : Keeps true s nx := by
  unfold execLinkDisable at hn
  have hk := Keeps.refl true s
  refine ok_keeps hn ?_
  repeat' first
    | (with_reducible assumption)
    | (intro _)
    | (with_reducible apply ite_keeps)
    | (with_reducible apply hostWrite_keeps)
    | (with_reducible apply actLinkCtrl_keeps)
    | split
    | dsimp only

theorem takeCredits_keeps (l : Nat) (x : MerFlit) (s : State) (hk : Keeps fz s0 s) : Keeps fz s0 (takeCredits l x s)
    := by
  unfold takeCredits
  repeat' first
    | (with_reducible assumption)
    | (intro _)
    | (with_reducible apply ite_keeps)
    | (with_reducible apply onLink_keeps)
    | (with_reducible apply State.setRack_keeps)
    | (with_reducible apply foldl_keeps)
    | split
    | dsimp only

theorem resend_keeps (l : Nat) (s : State) (hk : Keeps fz s0 s) : Keeps fz s0 (resend l s) := by
  unfold resend
  repeat' first
    | (with_reducible assumption)
    | (intro _)
    | (with_reducible apply ite_keeps)
    | (with_reducible apply onLink_keeps)
    | (with_reducible apply sendFlit_keeps)
    | (with_reducible apply State.fadd_keeps)
    | (with_reducible apply foldl_keeps)
    | split
    | dsimp only

theorem takeAck_keeps (l : Nat) (x : MerFlit) (s : State) (hk : Keeps fz s0 s) : Keeps fz s0 (takeAck l x s) := by
  unfold takeAck
  repeat' first
    | (with_reducible assumption)
    | (intro _)
    | (with_reducible apply ite_keeps)
    | (with_reducible apply onLink_keeps)
    | (with_reducible apply resend_keeps)
    | split
    | dsimp only

theorem takeFlit_keeps (l : Nat) (x : MerFlit) (s : State) (hk : Keeps fz s0 s) : Keeps fz s0 (takeFlit l x s) := by
  unfold takeFlit
  repeat' first
    | (with_reducible assumption)
    | (intro _)
    | (with_reducible apply ite_keeps)
    | (with_reducible apply takeCredits_keeps)
    | (with_reducible apply takeAck_keeps)
    | (with_reducible apply flushCtl_keeps)
    | split
    | dsimp only

theorem sendAck_keeps (l : Nat) (nak : Bool) (s : State) (hk : Keeps fz s0 s) : Keeps fz s0 (sendAck l nak s) := by
  unfold sendAck
  repeat' first
    | (with_reducible assumption)
    | (intro _)
    | (with_reducible apply ite_keeps)
    | (with_reducible apply sendFlit_keeps)
    | split
    | dsimp only

theorem flitView_keeps (l : Nat) (x : MerFlit) (s : State) (hk : Keeps fz s0 s) : Keeps fz s0 (flitView l x s) := by
  unfold flitView
  repeat' first
    | (with_reducible assumption)
    | (intro _)
    | (with_reducible apply ite_keeps)
    | (with_reducible apply State.fadd_keeps)
    | (with_reducible apply sendAck_keeps)
    | (with_reducible apply takeFlit_keeps)
    | (with_reducible apply onLink_keeps)
    | split
    | dsimp only

theorem flitReceived_keeps (l : Nat) (x : RxFlit) (s : State) (hk : Keeps fz s0 s) : Keeps fz s0 (flitReceived l x
    s) := by
  unfold flitReceived
  repeat' first
    | (with_reducible assumption)
    | (intro _)
    | (with_reducible apply ite_keeps)
    | (with_reducible apply flitView_keeps)
    | split
    | dsimp only

theorem execFlitReceived_keeps (l : Fin 4) (x : RxFlit) (s : State) {nx : State} (hn : execFlitReceived l x s =
    .next nx) : Keeps true s nx := by
  unfold execFlitReceived at hn
  have hk := Keeps.refl true s
  refine ok_keeps hn ?_
  repeat' first
    | (with_reducible assumption)
    | (intro _)
    | (with_reducible apply ite_keeps)
    | (with_reducible apply flitReceived_keeps)
    | split
    | dsimp only

end Sys2Proof.Machine
end

