-- ==== Sys2Proof/Laws/KeepsTick.lean ====
section
/-! SUPPORT. What the operations of Machine/Tick.lean keep (Laws/Keeps.lean). -/
namespace Sys2Proof.Machine

variable {fz : Bool} {s0 : State}

theorem countWait_keeps (s : State) (n : Nat) (hk : Keeps fz s0 s) : Keeps fz s0 (countWait s n) := by
  unfold countWait
  repeat' first
    | (with_reducible assumption)
    | (intro _)
    | (with_reducible apply ite_keeps)
    | (with_reducible apply State.fadd_keeps)
    | split
    | dsimp only

theorem paceBoundary_keeps (s : State) (hk : Keeps fz s0 s) : Keeps fz s0 (paceBoundary s) := by
  unfold paceBoundary
  repeat' first
    | (with_reducible assumption)
    | (intro _)
    | (with_reducible apply ite_keeps)
    | split
    | dsimp only
    | (fail_if_no_progress with_reducible refine Keeps.updMk ?_ rfl rfl rfl rfl rfl rfl rfl)

theorem microsecond_keeps (s : State) (hk : Keeps fz s0 s) : Keeps fz s0 (microsecond s) := by
  unfold microsecond
  repeat' first
    | (with_reducible assumption)
    | (intro _)
    | (with_reducible apply ite_keeps)
    | (with_reducible apply paceBoundary_keeps)
    | (with_reducible apply countWait_keeps)
    | (with_reducible apply latchMv_keeps)
    | (with_reducible apply foldl_keeps)
    | split
    | dsimp only
    | (fail_if_no_progress with_reducible refine Keeps.updMk ?_ rfl rfl rfl rfl rfl rfl rfl)

theorem idle_keeps (s : State) (hk : Keeps fz s0 s) : Keeps fz s0 (idle s) := by
  unfold idle
  repeat' first
    | (with_reducible assumption)
    | (intro _)
    | (with_reducible apply ite_keeps)
    | (with_reducible apply judgeTriggers_keeps)
    | (with_reducible apply microsecond_keeps)
    | split
    | dsimp only
    | (fail_if_no_progress with_reducible refine Keeps.updMk ?_ rfl rfl rfl rfl rfl rfl rfl)

end Sys2Proof.Machine
end

