-- ==== Sys2Proof/Laws/KeepsMerSet.lean ====
section
/-! SUPPORT. What the operations of Machine/MerSet.lean keep (Laws/Keeps.lean). -/
namespace Sys2Proof.Machine

variable {fz : Bool} {s0 : State}

theorem stepEpoch_keeps (d : Int) (s : State) (hk : Keeps fz s0 s) : Keeps fz s0 (stepEpoch d s) := by
  unfold stepEpoch
  repeat' first
    | (with_reducible assumption)
    | (intro _)
    | (with_reducible apply ite_keeps)
    | (with_reducible apply State.setReg_keeps)
    | split
    | dsimp only
    | (fail_if_no_progress with_reducible refine Keeps.updMk ?_ rfl rfl rfl rfl rfl rfl rfl)

theorem nudgeEpoch_keeps (d : Int) (s : State) (hk : Keeps fz s0 s) : Keeps fz s0 (nudgeEpoch d s) := by
  unfold nudgeEpoch
  repeat' first
    | (with_reducible assumption)
    | (intro _)
    | (with_reducible apply ite_keeps)
    | (with_reducible apply microsecond_keeps)
    | split
    | dsimp only
    | (fail_if_no_progress with_reducible refine Keeps.updMk ?_ rfl rfl rfl rfl rfl rfl rfl)

theorem slewEpoch_keeps (offset : Int) (s : State) (hk : Keeps fz s0 s) : Keeps fz s0 (slewEpoch offset s) := by
  unfold slewEpoch
  repeat' first
    | (with_reducible assumption)
    | (intro _)
    | (with_reducible apply ite_keeps)
    | (with_reducible apply nudgeEpoch_keeps)
    | split
    | dsimp only
    | (fail_if_no_progress with_reducible refine Keeps.updMk ?_ rfl rfl rfl rfl rfl rfl rfl)

theorem execEpochSlew_keeps (offset : Int) (s : State) {nx : State} (hn : execEpochSlew offset s = .next nx) : Keeps
    true s nx := by
  unfold execEpochSlew at hn
  have hk := Keeps.refl true s
  refine ok_keeps hn ?_
  repeat' first
    | (with_reducible assumption)
    | (intro _)
    | (with_reducible apply ite_keeps)
    | (with_reducible apply slewEpoch_keeps)
    | split
    | dsimp only

theorem announce_keeps (l : Nat) (hs : List Nat) (s : State) (hk : Keeps fz s0 s) : Keeps fz s0 (announce l hs s) :=
    by
  unfold announce
  repeat' first
    | (with_reducible assumption)
    | (intro _)
    | (with_reducible apply ite_keeps)
    | (with_reducible apply sendCtl_keeps)
    | split
    | dsimp only

theorem tookCtl_keeps (l : Nat) (fields : List Nat) (s : State) (hk : Keeps fz s0 s) : Keeps fz s0 (tookCtl l fields
    s) := by
  unfold tookCtl
  repeat' first
    | (with_reducible assumption)
    | (intro _)
    | (with_reducible apply ite_keeps)
    | (with_reducible apply returnUnits_keeps)
    | split
    | dsimp only

theorem installRoutes_keeps (l homes : Nat) (s : State) (hk : Keeps fz s0 s) : Keeps fz s0 (installRoutes l homes s)
    := by
  unfold installRoutes
  repeat' first
    | (with_reducible assumption)
    | (intro _)
    | (with_reducible apply ite_keeps)
    | (with_reducible apply State.fset_keeps)
    | (with_reducible apply relight_keeps)
    | (with_reducible apply syncReach_keeps)
    | (with_reducible apply onLink_keeps)
    | (with_reducible apply announce_keeps)
    | (with_reducible apply foldl_keeps)
    | split
    | dsimp only

theorem joinPeer_keeps (l : Nat) (s : State) (hk : Keeps fz s0 s) : Keeps fz s0 (joinPeer l s) := by
  unfold joinPeer
  repeat' first
    | (with_reducible assumption)
    | (intro _)
    | (with_reducible apply ite_keeps)
    | (with_reducible apply installRoutes_keeps)
    | (with_reducible apply stepEpoch_keeps)
    | split
    | dsimp only

theorem actRise_keeps (l : Nat) (s : State) (hk : Keeps fz s0 s) : Keeps fz s0 (actRise l s) := by
  unfold actRise
  repeat' first
    | (with_reducible assumption)
    | (intro _)
    | (with_reducible apply ite_keeps)
    | (with_reducible apply joinPeer_keeps)
    | (with_reducible apply announce_keeps)
    | (with_reducible apply onLink_keeps)
    | split
    | dsimp only

theorem execRise_keeps (f : HostFn) (l : Fin 4) (seq : BitVec 16) (s : State) {nx : State} (hn : execRise f l seq s
    = .next nx) : Keeps true s nx := by
  unfold execRise at hn
  have hk := Keeps.refl true s
  refine ok_keeps hn ?_
  repeat' first
    | (with_reducible assumption)
    | (intro _)
    | (with_reducible apply ite_keeps)
    | (with_reducible apply hostWrite_keeps)
    | (with_reducible apply actRise_keeps)
    | (with_reducible apply State.fset_keeps)
    | split
    | dsimp only

theorem routeAnnounced_keeps (l homes : Nat) (offset : Int) (s : State) (hk : Keeps fz s0 s) : Keeps fz s0
    (routeAnnounced l homes offset s) := by
  unfold routeAnnounced
  repeat' first
    | (with_reducible assumption)
    | (intro _)
    | (with_reducible apply ite_keeps)
    | (with_reducible apply tookCtl_keeps)
    | (with_reducible apply installRoutes_keeps)
    | (with_reducible apply joinPeer_keeps)
    | (with_reducible apply onLink_keeps)
    | split
    | dsimp only

theorem execMsgRouteAnnounce_keeps (l : Fin 4) (homes : BitVec 8) (offset : Int) (s : State) {nx : State} (hn :
    execMsgRouteAnnounce l homes offset s = .next nx) : Keeps true s nx := by
  unfold execMsgRouteAnnounce at hn
  have hk := Keeps.refl true s
  refine ok_keeps hn ?_
  repeat' first
    | (with_reducible assumption)
    | (intro _)
    | (with_reducible apply ite_keeps)
    | (with_reducible apply routeAnnounced_keeps)
    | split
    | dsimp only

theorem routeWithdrawn_keeps (l homes : Nat) (s : State) (hk : Keeps fz s0 s) : Keeps fz s0 (routeWithdrawn l homes
    s) := by
  unfold routeWithdrawn
  repeat' first
    | (with_reducible assumption)
    | (intro _)
    | (with_reducible apply ite_keeps)
    | (with_reducible apply tookCtl_keeps)
    | (with_reducible apply onLink_keeps)
    | (with_reducible apply settleFinals_keeps)
    | (with_reducible apply unroute_keeps)
    | split
    | dsimp only

theorem execMsgWithdrawal_keeps (l : Fin 4) (homes : BitVec 8) (s : State) {nx : State} (hn : execMsgWithdrawal l
    homes s = .next nx) : Keeps true s nx := by
  unfold execMsgWithdrawal at hn
  have hk := Keeps.refl true s
  refine ok_keeps hn ?_
  repeat' first
    | (with_reducible assumption)
    | (intro _)
    | (with_reducible apply ite_keeps)
    | (with_reducible apply routeWithdrawn_keeps)
    | split
    | dsimp only

theorem endWaits_keeps (w : WriteWait) (s : State) (hk : Keeps fz s0 s) : Keeps fz s0 (endWaits w s) := by
  unfold endWaits
  repeat' first
    | (with_reducible assumption)
    | (intro _)
    | (with_reducible apply ite_keeps)
    | (with_reducible apply writeDone_keeps)
    | (with_reducible apply foldl_keeps)
    | split
    | dsimp only

theorem riseComplete_keeps (l : Nat) (depths : List (Nat × Nat)) (s : State) (hk : Keeps fz s0 s) : Keeps fz s0
    (riseComplete l depths s) := by
  unfold riseComplete
  repeat' first
    | (with_reducible assumption)
    | (intro _)
    | (with_reducible apply ite_keeps)
    | (with_reducible apply setLinkState_keeps)
    | (with_reducible apply onLink_keeps)
    | (with_reducible apply State.fset_keeps)
    | (with_reducible apply endWaits_keeps)
    | split
    | dsimp only
    | (fail_if_no_progress with_reducible refine Keeps.updMk ?_ rfl rfl rfl rfl rfl rfl rfl)

theorem execRiseComplete_keeps (l : Fin 4) (depths : List (Nat × Nat)) (s : State) {nx : State} (hn :
    execRiseComplete l depths s = .next nx) : Keeps true s nx := by
  unfold execRiseComplete at hn
  have hk := Keeps.refl true s
  refine ok_keeps hn ?_
  repeat' first
    | (with_reducible assumption)
    | (intro _)
    | (with_reducible apply ite_keeps)
    | (with_reducible apply riseComplete_keeps)
    | split
    | dsimp only

theorem setArrives_keeps (l dest kind : Nat) (fields : List Nat) (g : State → State) (s : State) (hg : ∀ (s :
    State), Keeps fz s0 s → Keeps fz s0 (g s)) (hk : Keeps fz s0 s) : Keeps fz s0 (setArrives l dest kind fields g
    s) := by
  unfold setArrives
  repeat' first
    | (with_reducible assumption)
    | (intro _)
    | (with_reducible apply ite_keeps)
    | (apply hg)
    | (with_reducible apply tookCtl_keeps)
    | (with_reducible apply setMsg_keeps)
    | split
    | dsimp only

theorem actSetGo_keeps (seq : Nat) (s : State) (hk : Keeps fz s0 s) : Keeps fz s0 (actSetGo seq s) := by
  unfold actSetGo
  repeat' first
    | (with_reducible assumption)
    | (intro _)
    | (with_reducible apply ite_keeps)
    | (with_reducible apply setAll_keeps)
    | (with_reducible apply State.fset_keeps)
    | (with_reducible apply setGoesOn_keeps)
    | split
    | dsimp only
    | (fail_if_no_progress with_reducible refine Keeps.updMk ?_ rfl rfl rfl rfl rfl rfl rfl)

theorem execSetGo_keeps (f : HostFn) (seq : BitVec 16) (s : State) {nx : State} (hn : execSetGo f seq s = .next nx)
    : Keeps true s nx := by
  unfold execSetGo at hn
  have hk := Keeps.refl true s
  refine ok_keeps hn ?_
  repeat' first
    | (with_reducible assumption)
    | (intro _)
    | (with_reducible apply ite_keeps)
    | (with_reducible apply hostWrite_keeps)
    | (with_reducible apply actSetGo_keeps)
    | split
    | dsimp only

theorem offerAccepted_keeps (h addr : Nat) (s : State) (hk : Keeps fz s0 s) : Keeps fz s0 (offerAccepted h addr s)
    := by
  unfold offerAccepted
  repeat' first
    | (with_reducible assumption)
    | (intro _)
    | (with_reducible apply ite_keeps)
    | (with_reducible apply onSet_keeps)
    | (with_reducible apply askCopy_keeps)
    | split
    | dsimp only
    | (fail_if_no_progress with_reducible refine Keeps.updMk ?_ rfl rfl rfl rfl rfl rfl rfl)

theorem offerDeclined_keeps (h : Nat) (s : State) (hk : Keeps fz s0 s) : Keeps fz s0 (offerDeclined h s) := by
  unfold offerDeclined
  repeat' first
    | (with_reducible assumption)
    | (intro _)
    | (with_reducible apply ite_keeps)
    | (with_reducible apply setGoesOn_keeps)
    | (with_reducible apply onSet_keeps)
    | split
    | dsimp only

theorem setAcked_keeps (h : Nat) (dark : Bool) (s : State) (hk : Keeps fz s0 s) : Keeps fz s0 (setAcked h dark s) :=
    by
  unfold setAcked
  repeat' first
    | (with_reducible assumption)
    | (intro _)
    | (with_reducible apply ite_keeps)
    | (with_reducible apply setGoesOn_keeps)
    | (with_reducible apply onSet_keeps)
    | split
    | dsimp only

theorem windowCopied_keeps (s : State) (hk : Keeps fz s0 s) : Keeps fz s0 (windowCopied s) := by
  unfold windowCopied
  repeat' first
    | (with_reducible assumption)
    | (intro _)
    | (with_reducible apply ite_keeps)
    | (with_reducible apply setGoesOn_keeps)
    | (with_reducible apply tellWindow_keeps)
    | split
    | dsimp only

theorem execSetWindowCopied_keeps (s : State) {nx : State} (hn : execSetWindowCopied s = .next nx) : Keeps true s nx
    := by
  unfold execSetWindowCopied at hn
  have hk := Keeps.refl true s
  refine ok_keeps hn ?_
  repeat' first
    | (with_reducible assumption)
    | (intro _)
    | (with_reducible apply ite_keeps)
    | (with_reducible apply windowCopied_keeps)
    | split
    | dsimp only

theorem leaveLinks_keeps (s : State) (hk : Keeps fz s0 s) : Keeps fz s0 (leaveLinks s) := by
  unfold leaveLinks
  repeat' first
    | (with_reducible assumption)
    | (intro _)
    | (with_reducible apply ite_keeps)
    | (with_reducible apply answerAll_keeps)
    | split
    | dsimp only
    | (fail_if_no_progress with_reducible refine Keeps.updMk ?_ rfl rfl rfl rfl rfl rfl rfl)

theorem setComplete_keeps (s : State) (hk : Keeps fz s0 s) : Keeps fz s0 (setComplete s) := by
  unfold setComplete
  repeat' first
    | (with_reducible assumption)
    | (intro _)
    | (with_reducible apply ite_keeps)
    | (with_reducible apply disconnectRacks_keeps)
    | (with_reducible apply State.fset_keeps)
    | (with_reducible apply setLinkState_keeps)
    | (with_reducible apply resetLink_keeps)
    | (with_reducible apply leaveLinks_keeps)
    | (with_reducible apply merEvent_keeps)
    | (with_reducible apply syncReach_keeps)
    | (with_reducible apply endWaits_keeps)
    | (with_reducible apply foldl_keeps)
    | split
    | dsimp only
    | (fail_if_no_progress with_reducible refine Keeps.updMk ?_ rfl rfl rfl rfl rfl rfl rfl)

theorem execSetComplete_keeps (s : State) {nx : State} (hn : execSetComplete s = .next nx) : Keeps true s nx := by
  unfold execSetComplete at hn
  have hk := Keeps.refl true s
  refine ok_keeps hn ?_
  repeat' first
    | (with_reducible assumption)
    | (intro _)
    | (with_reducible apply ite_keeps)
    | (with_reducible apply setComplete_keeps)
    | split
    | dsimp only

theorem execMsgSetNotice_keeps (l : Fin 4) (dest leaver : Fin 8) (s : State) {nx : State} (hn : execMsgSetNotice l
    dest leaver s = .next nx) : Keeps true s nx := by
  unfold execMsgSetNotice at hn
  have hk := Keeps.refl true s
  refine ok_keeps hn ?_
  repeat' first
    | (with_reducible assumption)
    | (intro _)
    | (with_reducible apply ite_keeps)
    | (with_reducible apply setArrives_keeps)
    | split
    | dsimp only

theorem offerArrives_keeps (leaver size : Nat) (s : State) (hk : Keeps fz s0 s) : Keeps fz s0 (offerArrives leaver
    size s) := by
  unfold offerArrives
  repeat' first
    | (with_reducible assumption)
    | (intro _)
    | (with_reducible apply ite_keeps)
    | (with_reducible apply setMsg_keeps)
    | split
    | dsimp only
    | (fail_if_no_progress with_reducible refine Keeps.updMk ?_ rfl rfl rfl rfl rfl rfl rfl)

theorem setOffer_keeps (l dest : Nat) (x : SetOffer) (s : State) (hk : Keeps fz s0 s) : Keeps fz s0 (setOffer l dest
    x s) := by
  unfold setOffer
  repeat' first
    | (with_reducible assumption)
    | (intro _)
    | (with_reducible apply ite_keeps)
    | (with_reducible apply setArrives_keeps)
    | (with_reducible apply offerArrives_keeps)
    | (with_reducible apply offerAccepted_keeps)
    | (with_reducible apply offerDeclined_keeps)
    | (with_reducible apply setAcked_keeps)
    | split
    | dsimp only

theorem execMsgSetOffer_keeps (l : Fin 4) (dest : Fin 8) (x : SetOffer) (s : State) {nx : State} (hn :
    execMsgSetOffer l dest x s = .next nx) : Keeps true s nx := by
  unfold execMsgSetOffer at hn
  have hk := Keeps.refl true s
  refine ok_keeps hn ?_
  repeat' first
    | (with_reducible assumption)
    | (intro _)
    | (with_reducible apply ite_keeps)
    | (with_reducible apply setOffer_keeps)
    | split
    | dsimp only

theorem relocate_keeps (base size : Nat) (newBase : Option Nat) (s : State) (hk : Keeps fz s0 s) : Keeps fz s0
    (relocate base size newBase s) := by
  unfold relocate
  repeat' first
    | (with_reducible assumption)
    | (intro _)
    | (with_reducible apply ite_keeps)
    | (with_reducible apply setMsg_keeps)
    | (with_reducible apply addReloc_keeps)
    | split
    | dsimp only

theorem execMsgRelocation_keeps (l : Fin 4) (dest : Fin 8) (base size : Nat) (newBase : Option Nat) (s : State) {nx
    : State} (hn : execMsgRelocation l dest base size newBase s = .next nx) : Keeps true s nx := by
  unfold execMsgRelocation at hn
  have hk := Keeps.refl true s
  refine ok_keeps hn ?_
  repeat' first
    | (with_reducible assumption)
    | (intro _)
    | (with_reducible apply ite_keeps)
    | (with_reducible apply setArrives_keeps)
    | (with_reducible apply relocate_keeps)
    | split
    | dsimp only

theorem execMsgSetFinal_keeps (l : Fin 4) (dest leaver : Fin 8) (s : State) {nx : State} (hn : execMsgSetFinal l
    dest leaver s = .next nx) : Keeps true s nx := by
  unfold execMsgSetFinal at hn
  have hk := Keeps.refl true s
  refine ok_keeps hn ?_
  repeat' first
    | (with_reducible assumption)
    | (intro _)
    | (with_reducible apply ite_keeps)
    | (with_reducible apply setArrives_keeps)
    | (with_reducible apply settleFinals_keeps)
    | split
    | dsimp only
    | (fail_if_no_progress with_reducible refine Keeps.updMk ?_ rfl rfl rfl rfl rfl rfl rfl)

end Sys2Proof.Machine
end

