-- ==== Sys2Proof/Laws/KeepsChannels.lean ====
section
/-! SUPPORT. What the operations of Machine/Channels.lean keep (Laws/Keeps.lean). -/
namespace Sys2Proof.Machine

variable {fz : Bool} {s0 : State}

theorem dropDram_keeps (p : Nat → Bool) (s : State) (h : Keeps fz s0 s) : Keeps fz s0 (dropDram p s) := by
  refine h.updMem _ fun w => ?_
  simp only [MemState.wf, Bool.and_eq_true] at w ⊢
  exact ⟨⟨spWf_filter _ _ w.1.1, spWf_filter _ _ w.1.2⟩, w.2⟩

theorem beginTraining_keeps (c : Nat) (s : State) (hk : Keeps fz s0 s) : Keeps fz s0 (beginTraining c s) := by
  unfold beginTraining
  repeat' first
    | (with_reducible assumption)
    | (intro _)
    | (with_reducible apply ite_keeps)
    | (with_reducible apply State.setReg_keeps)
    | split
    | dsimp only
    | (fail_if_no_progress with_reducible refine Keeps.updMk ?_ rfl rfl rfl rfl rfl rfl rfl)

theorem channelOff_keeps (c : Nat) (s : State) (hk : Keeps fz s0 s) : Keeps fz s0 (channelOff c s) := by
  unfold channelOff
  repeat' first
    | (with_reducible assumption)
    | (intro _)
    | (with_reducible apply ite_keeps)
    | (with_reducible apply dropDram_keeps)
    | (with_reducible apply State.setReg_keeps)
    | split
    | dsimp only
    | (fail_if_no_progress with_reducible refine Keeps.updMk ?_ rfl rfl rfl rfl rfl rfl rfl)

theorem setTrained_keeps (c : Nat) (s : State) (hk : Keeps fz s0 s) : Keeps fz s0 (setTrained c s) := by
  unfold setTrained
  repeat' first
    | (with_reducible assumption)
    | (intro _)
    | (with_reducible apply ite_keeps)
    | (with_reducible apply State.fset_keeps)
    | split
    | dsimp only

theorem channelTrained_keeps (c : Nat) (s : State) (hk : Keeps fz s0 s) : Keeps fz s0 (channelTrained c s) := by
  unfold channelTrained
  repeat' first
    | (with_reducible assumption)
    | (intro _)
    | (with_reducible apply ite_keeps)
    | (with_reducible apply setTrained_keeps)
    | split
    | dsimp only
    | (fail_if_no_progress with_reducible refine Keeps.updMk ?_ rfl rfl rfl rfl rfl rfl rfl)

theorem execChannelTrained_keeps (c : Fin 16) (s : State) {nx : State} (hn : execChannelTrained c s = .next nx) :
    Keeps true s nx := by
  unfold execChannelTrained at hn
  have hk := Keeps.refl true s
  refine ok_keeps hn ?_
  repeat' first
    | (with_reducible assumption)
    | (intro _)
    | (with_reducible apply ite_keeps)
    | (with_reducible apply channelTrained_keeps)
    | split
    | dsimp only

theorem memTrained_keeps (s : State) (hk : Keeps fz s0 s) : Keeps fz s0 (memTrained s) := by
  unfold memTrained
  repeat' first
    | (with_reducible assumption)
    | (intro _)
    | (with_reducible apply ite_keeps)
    | (with_reducible apply dropDram_keeps)
    | (with_reducible apply setTrained_keeps)
    | (with_reducible apply raiseZen_keeps)
    | (with_reducible apply foldl_keeps)
    | split
    | dsimp only
    | (fail_if_no_progress with_reducible refine Keeps.updMk ?_ rfl rfl rfl rfl rfl rfl rfl)

theorem execMemTrained_keeps (s : State) {nx : State} (hn : execMemTrained s = .next nx) : Keeps true s nx := by
  unfold execMemTrained at hn
  have hk := Keeps.refl true s
  refine ok_keeps hn ?_
  repeat' first
    | (with_reducible assumption)
    | (intro _)
    | (with_reducible apply ite_keeps)
    | (with_reducible apply memTrained_keeps)
    | split
    | dsimp only

theorem mr4Poll_keeps (c rate : Nat) (s : State) (hk : Keeps fz s0 s) : Keeps fz s0 (mr4Poll c rate s) := by
  unfold mr4Poll
  repeat' first
    | (with_reducible assumption)
    | (intro _)
    | (with_reducible apply ite_keeps)
    | (with_reducible apply State.fset_keeps)
    | split
    | dsimp only

theorem execMr4Poll_keeps (c : Fin 16) (rate : BitVec 4) (s : State) {nx : State} (hn : execMr4Poll c rate s = .next
    nx) : Keeps true s nx := by
  unfold execMr4Poll at hn
  have hk := Keeps.refl true s
  refine ok_keeps hn ?_
  repeat' first
    | (with_reducible assumption)
    | (intro _)
    | (with_reducible apply ite_keeps)
    | (with_reducible apply mr4Poll_keeps)
    | split
    | dsimp only

theorem powerDownEntry_keeps (c : Nat) (s : State) (hk : Keeps fz s0 s) : Keeps fz s0 (powerDownEntry c s) := by
  unfold powerDownEntry
  repeat' first
    | (with_reducible assumption)
    | (intro _)
    | (with_reducible apply ite_keeps)
    | split
    | dsimp only
    | (fail_if_no_progress with_reducible refine Keeps.updMk ?_ rfl rfl rfl rfl rfl rfl rfl)

theorem execPowerDownEntry_keeps (c : Fin 16) (s : State) {nx : State} (hn : execPowerDownEntry c s = .next nx) :
    Keeps true s nx := by
  unfold execPowerDownEntry at hn
  have hk := Keeps.refl true s
  refine ok_keeps hn ?_
  repeat' first
    | (with_reducible assumption)
    | (intro _)
    | (with_reducible apply ite_keeps)
    | (with_reducible apply powerDownEntry_keeps)
    | split
    | dsimp only

end Sys2Proof.Machine
end

