-- ==== Sys2Proof/Laws/KeepsNightwatch.lean ====
section
/-! SUPPORT. What the operations of Machine/Nightwatch.lean keep (Laws/Keeps.lean). -/
namespace Sys2Proof.Machine

variable {fz : Bool} {s0 : State}

theorem onNw_keeps (g : NwState → NwState) (s : State) (hk : Keeps fz s0 s) : Keeps fz s0 (onNw g s) := by
  unfold onNw
  repeat' first
    | (with_reducible assumption)
    | (intro _)
    | (with_reducible apply ite_keeps)
    | split
    | dsimp only
    | (fail_if_no_progress with_reducible refine Keeps.updMk ?_ rfl rfl rfl rfl rfl rfl rfl)

theorem okNw_keeps {f : State → State} {s t : State} (e : okNw f s = .next t) (hf : Keeps true s (f s)) : Keeps true
    s t := by
  unfold okNw at e
  injection e with e
  subst e
  exact ite_keeps hf (Keeps.refl _ _)

theorem nwSignal_keeps (s : State) (hk : Keeps fz s0 s) : Keeps fz s0 (nwSignal s) := by
  unfold nwSignal
  repeat' first
    | (with_reducible assumption)
    | (intro _)
    | (with_reducible apply ite_keeps)
    | (with_reducible apply signalMisc_keeps)
    | split
    | dsimp only

theorem nwEvt_keeps (s : State) (hk : Keeps fz s0 s) : Keeps fz s0 (nwEvt s) := by
  unfold nwEvt
  repeat' first
    | (with_reducible assumption)
    | (intro _)
    | (with_reducible apply ite_keeps)
    | (with_reducible apply nwSignal_keeps)
    | (with_reducible apply State.fadd_keeps)
    | split
    | dsimp only

theorem raiseNw_keeps (e : Nat) (s : State) (hk : Keeps fz s0 s) : Keeps fz s0 (raiseNw e s) := by
  unfold raiseNw
  repeat' first
    | (with_reducible assumption)
    | (intro _)
    | (with_reducible apply ite_keeps)
    | (with_reducible apply onNw_keeps)
    | split
    | dsimp only

theorem enrolResult_keeps (status utter seq : Nat) (s : State) (hk : Keeps fz s0 s) : Keeps fz s0 (enrolResult
    status utter seq s) := by
  unfold enrolResult
  repeat' first
    | (with_reducible assumption)
    | (intro _)
    | (with_reducible apply ite_keeps)
    | (with_reducible apply nwEvt_keeps)
    | (with_reducible apply State.fset_keeps)
    | (with_reducible apply onNw_keeps)
    | split
    | dsimp only

theorem setMode_keeps (m : Nat) (s : State) (hk : Keeps fz s0 s) : Keeps fz s0 (setMode m s) := by
  unfold setMode
  repeat' first
    | (with_reducible assumption)
    | (intro _)
    | (with_reducible apply ite_keeps)
    | (with_reducible apply raiseNw_keeps)
    | (with_reducible apply onNw_keeps)
    | (with_reducible apply enrolResult_keeps)
    | split
    | dsimp only

theorem execPdmClockChange_keeps (s : State) {nx : State} (hn : execPdmClockChange s = .next nx) : Keeps true s nx
    := by
  unfold execPdmClockChange at hn
  have hk := Keeps.refl true s
  refine okNw_keeps hn ?_
  repeat' first
    | (with_reducible assumption)
    | (intro _)
    | (with_reducible apply ite_keeps)
    | (with_reducible apply State.fadd_keeps)
    | (with_reducible apply onNw_keeps)
    | split
    | dsimp only

theorem execSettleEnd_keeps (s : State) {nx : State} (hn : execSettleEnd s = .next nx) : Keeps true s nx := by
  unfold execSettleEnd at hn
  have hk := Keeps.refl true s
  refine okNw_keeps hn ?_
  repeat' first
    | (with_reducible assumption)
    | (intro _)
    | (with_reducible apply ite_keeps)
    | (with_reducible apply onNw_keeps)
    | split
    | dsimp only

theorem nwDomains_keeps (s : State) (hk : Keeps fz s0 s) : Keeps fz s0 (nwDomains s) := by
  unfold nwDomains
  repeat' first
    | (with_reducible assumption)
    | (intro _)
    | (with_reducible apply ite_keeps)
    | split
    | dsimp only
    | (fail_if_no_progress with_reducible refine Keeps.updMk ?_ rfl rfl rfl rfl rfl rfl rfl)

theorem nwTableRegs_keeps (s : State) (hk : Keeps fz s0 s) : Keeps fz s0 (nwTableRegs s) := by
  unfold nwTableRegs
  repeat' first
    | (with_reducible assumption)
    | (intro _)
    | (with_reducible apply ite_keeps)
    | (with_reducible apply State.fset_keeps)
    | (with_reducible apply foldl_keeps)
    | split
    | dsimp only

theorem bindModel_keeps (g : NwCfg) (s : State) (hk : Keeps fz s0 s) : Keeps fz s0 (bindModel g s) := by
  unfold bindModel
  repeat' first
    | (with_reducible assumption)
    | (intro _)
    | (with_reducible apply ite_keeps)
    | (with_reducible apply onNw_keeps)
    | split
    | dsimp only

theorem applyNw_keeps (g : NwCfg) (s : State) (hk : Keeps fz s0 s) : Keeps fz s0 (applyNw g s) := by
  unfold applyNw
  repeat' first
    | (with_reducible assumption)
    | (intro _)
    | (with_reducible apply ite_keeps)
    | (with_reducible apply onNw_keeps)
    | (with_reducible apply nwTableRegs_keeps)
    | (with_reducible apply setMode_keeps)
    | (with_reducible apply bindModel_keeps)
    | (with_reducible apply nwDomains_keeps)
    | split
    | dsimp only

theorem unconfigure_keeps (s : State) (hk : Keeps fz s0 s) : Keeps fz s0 (unconfigure s) := by
  unfold unconfigure
  repeat' first
    | (with_reducible assumption)
    | (intro _)
    | (with_reducible apply ite_keeps)
    | (with_reducible apply nwDomains_keeps)
    | (with_reducible apply setMode_keeps)
    | (with_reducible apply onNw_keeps)
    | split
    | dsimp only

theorem checkRetention_keeps (s : State) (hk : Keeps fz s0 s) : Keeps fz s0 (checkRetention s) := by
  unfold checkRetention
  repeat' first
    | (with_reducible assumption)
    | (intro _)
    | (with_reducible apply ite_keeps)
    | (with_reducible apply onNw_keeps)
    | split
    | dsimp only

theorem closeWindow_keeps (s : State) (hk : Keeps fz s0 s) : Keeps fz s0 (closeWindow s) := by
  unfold closeWindow
  repeat' first
    | (with_reducible assumption)
    | (intro _)
    | (with_reducible apply ite_keeps)
    | (with_reducible apply nwEvt_keeps)
    | (with_reducible apply raiseNw_keeps)
    | (with_reducible apply onNw_keeps)
    | split
    | dsimp only

theorem nwReset_keeps (s : State) (hk : Keeps fz s0 s) : Keeps fz s0 (nwReset s) := by
  unfold nwReset
  repeat' first
    | (with_reducible assumption)
    | (intro _)
    | (with_reducible apply ite_keeps)
    | (with_reducible apply State.resetRegs_keeps)
    | (with_reducible apply onNw_keeps)
    | (with_reducible apply checkRetention_keeps)
    | (with_reducible apply nwDomains_keeps)
    | split
    | dsimp only
    | (fail_if_no_progress with_reducible refine Keeps.updMk ?_ rfl rfl rfl rfl rfl rfl rfl)

theorem actNwMode_keeps (m : Nat) (s : State) (hk : Keeps fz s0 s) : Keeps fz s0 (actNwMode m s) := by
  unfold actNwMode
  repeat' first
    | (with_reducible assumption)
    | (intro _)
    | (with_reducible apply ite_keeps)
    | (with_reducible apply setMode_keeps)
    | split
    | dsimp only

theorem actNwCtrl_keeps (v : Word) (s : State) (hk : Keeps fz s0 s) : Keeps fz s0 (actNwCtrl v s) := by
  unfold actNwCtrl
  repeat' first
    | (with_reducible assumption)
    | (intro _)
    | (with_reducible apply ite_keeps)
    | (with_reducible apply nwReset_keeps)
    | (with_reducible apply actNwMode_keeps)
    | split
    | dsimp only

theorem execNwModeListen_keeps (f : HostFn) (s : State) {nx : State} (hn : execNwModeListen f s = .next nx) : Keeps
    true s nx := by
  unfold execNwModeListen at hn
  have hk := Keeps.refl true s
  refine ok_keeps hn ?_
  repeat' first
    | (with_reducible assumption)
    | (intro _)
    | (with_reducible apply ite_keeps)
    | (with_reducible apply hostWrite_keeps)
    | (with_reducible apply actNwCtrl_keeps)
    | split
    | dsimp only

theorem execNwModeFull_keeps (f : HostFn) (s : State) {nx : State} (hn : execNwModeFull f s = .next nx) : Keeps true
    s nx := by
  unfold execNwModeFull at hn
  have hk := Keeps.refl true s
  refine ok_keeps hn ?_
  repeat' first
    | (with_reducible assumption)
    | (intro _)
    | (with_reducible apply ite_keeps)
    | (with_reducible apply hostWrite_keeps)
    | (with_reducible apply actNwCtrl_keeps)
    | split
    | dsimp only

theorem execNwReset_keeps (f : HostFn) (s : State) {nx : State} (hn : execNwReset f s = .next nx) : Keeps true s nx
    := by
  unfold execNwReset at hn
  have hk := Keeps.refl true s
  refine ok_keeps hn ?_
  repeat' first
    | (with_reducible assumption)
    | (intro _)
    | (with_reducible apply ite_keeps)
    | (with_reducible apply hostWrite_keeps)
    | (with_reducible apply actNwCtrl_keeps)
    | split
    | dsimp only

theorem execCrossingIsolation_keeps (s : State) {nx : State} (hn : execCrossingIsolation s = .next nx) : Keeps true
    s nx := by
  unfold execCrossingIsolation at hn
  have hk := Keeps.refl true s
  refine okNw_keeps hn ?_
  repeat' first
    | (with_reducible assumption)
    | (intro _)
    | (with_reducible apply ite_keeps)
    | (with_reducible apply setMode_keeps)
    | split
    | dsimp only

theorem sampleStep_keeps (g : NwCfg) (bits : List (List Bool)) (s : State) (hk : Keeps fz s0 s) : Keeps fz s0
    (sampleStep g bits s) := by
  unfold sampleStep
  repeat' first
    | (with_reducible assumption)
    | (intro _)
    | (with_reducible apply ite_keeps)
    | (with_reducible apply State.out_keeps)
    | (with_reducible apply foldl_keeps)
    | split
    | dsimp only
    | (fail_if_no_progress with_reducible refine Keeps.updMk ?_ rfl rfl rfl rfl rfl rfl rfl)

theorem execSampleBoundary_keeps (bits : List (List Bool)) (s : State) {nx : State} (hn : execSampleBoundary bits s
    = .next nx) : Keeps true s nx := by
  unfold execSampleBoundary at hn
  have hk := Keeps.refl true s
  refine okNw_keeps hn ?_
  repeat' first
    | (with_reducible assumption)
    | (intro _)
    | (with_reducible apply ite_keeps)
    | (with_reducible apply sampleStep_keeps)
    | (with_reducible apply onNw_keeps)
    | split
    | dsimp only

theorem execTsyncCapture_keeps (s : State) {nx : State} (hn : execTsyncCapture s = .next nx) : Keeps true s nx := by
  unfold execTsyncCapture at hn
  have hk := Keeps.refl true s
  refine okNw_keeps hn ?_
  repeat' first
    | (with_reducible assumption)
    | (intro _)
    | (with_reducible apply ite_keeps)
    | (with_reducible apply State.setPair_keeps)
    | split
    | dsimp only

theorem setDead_keeps (c : Nat) (b : Bool) (s : State) (hk : Keeps fz s0 s) : Keeps fz s0 (setDead c b s) := by
  unfold setDead
  repeat' first
    | (with_reducible assumption)
    | (intro _)
    | (with_reducible apply ite_keeps)
    | (with_reducible apply nwEvt_keeps)
    | (with_reducible apply raiseNw_keeps)
    | (with_reducible apply onNw_keeps)
    | split
    | dsimp only

theorem execChannelDead_keeps (c : Fin 8) (s : State) {nx : State} (hn : execChannelDead c s = .next nx) : Keeps
    true s nx := by
  unfold execChannelDead at hn
  have hk := Keeps.refl true s
  refine okNw_keeps hn ?_
  repeat' first
    | (with_reducible assumption)
    | (intro _)
    | (with_reducible apply ite_keeps)
    | (with_reducible apply State.fadd_keeps)
    | (with_reducible apply setDead_keeps)
    | split
    | dsimp only

theorem execChannelAlive_keeps (c : Fin 8) (s : State) {nx : State} (hn : execChannelAlive c s = .next nx) : Keeps
    true s nx := by
  unfold execChannelAlive at hn
  have hk := Keeps.refl true s
  refine okNw_keeps hn ?_
  repeat' first
    | (with_reducible assumption)
    | (intro _)
    | (with_reducible apply ite_keeps)
    | (with_reducible apply setDead_keeps)
    | split
    | dsimp only

theorem enrolDone_keeps (g : NwCfg) (x : NwEnrol) (s : State) (hk : Keeps fz s0 s) : Keeps fz s0 (enrolDone g x s)
    := by
  unfold enrolDone
  repeat' first
    | (with_reducible assumption)
    | (intro _)
    | (with_reducible apply ite_keeps)
    | (with_reducible apply enrolResult_keeps)
    | (with_reducible apply onNw_keeps)
    | split
    | dsimp only

theorem detect_keeps (g : NwCfg) (k : Nat) (scores : List Int) (s : State) (hk : Keeps fz s0 s) : Keeps fz s0
    (detect g k scores s) := by
  unfold detect
  repeat' first
    | (with_reducible assumption)
    | (intro _)
    | (with_reducible apply ite_keeps)
    | (with_reducible apply State.fadd_keeps)
    | (with_reducible apply onNw_keeps)
    | (with_reducible apply enrolDone_keeps)
    | (with_reducible apply raiseNw_keeps)
    | split
    | dsimp only

theorem detectOther_keeps (g : NwCfg) (k : Nat) (scores : List Int) (s : State) (hk : Keeps fz s0 s) : Keeps fz s0
    (detectOther g k scores s) := by
  unfold detectOther
  repeat' first
    | (with_reducible assumption)
    | (intro _)
    | (with_reducible apply ite_keeps)
    | (with_reducible apply detect_keeps)
    | (with_reducible apply onNw_keeps)
    | split
    | dsimp only

theorem featureFrame_keeps (g : NwCfg) (s : State) (hk : Keeps fz s0 s) : Keeps fz s0 (featureFrame g s) := by
  unfold featureFrame
  repeat' first
    | (with_reducible assumption)
    | (intro _)
    | (with_reducible apply ite_keeps)
    | (with_reducible apply detectOther_keeps)
    | (with_reducible apply onNw_keeps)
    | (with_reducible apply foldl_keeps)
    | split
    | dsimp only
    | (fail_if_no_progress with_reducible refine Keeps.updMk ?_ rfl rfl rfl rfl rfl rfl rfl)

theorem execFeatureFrame_keeps (s : State) {nx : State} (hn : execFeatureFrame s = .next nx) : Keeps true s nx := by
  unfold execFeatureFrame at hn
  have hk := Keeps.refl true s
  refine okNw_keeps hn ?_
  repeat' first
    | (with_reducible assumption)
    | (intro _)
    | (with_reducible apply ite_keeps)
    | (with_reducible apply featureFrame_keeps)
    | split
    | dsimp only

theorem actNwEnrol_keeps (v : Word) (s : State) (hk : Keeps fz s0 s) : Keeps fz s0 (actNwEnrol v s) := by
  unfold actNwEnrol
  repeat' first
    | (with_reducible assumption)
    | (intro _)
    | (with_reducible apply ite_keeps)
    | (with_reducible apply State.fsat_keeps)
    | (with_reducible apply enrolResult_keeps)
    | (with_reducible apply onNw_keeps)
    | split
    | dsimp only

theorem execNwEnrol_keeps (f : HostFn) (user : Fin 8) (kw : Fin 16) (seq : BitVec 16) (s : State) {nx : State} (hn :
    execNwEnrol f user kw seq s = .next nx) : Keeps true s nx := by
  unfold execNwEnrol at hn
  have hk := Keeps.refl true s
  refine ok_keeps hn ?_
  repeat' first
    | (with_reducible assumption)
    | (intro _)
    | (with_reducible apply ite_keeps)
    | (with_reducible apply hostWrite_keeps)
    | (with_reducible apply actNwEnrol_keeps)
    | split
    | dsimp only

theorem execNwEnrolDelete_keeps (f : HostFn) (user : Fin 8) (kw : Fin 16) (seq : BitVec 16) (s : State) {nx : State}
    (hn : execNwEnrolDelete f user kw seq s = .next nx) : Keeps true s nx := by
  unfold execNwEnrolDelete at hn
  have hk := Keeps.refl true s
  refine ok_keeps hn ?_
  repeat' first
    | (with_reducible assumption)
    | (intro _)
    | (with_reducible apply ite_keeps)
    | (with_reducible apply hostWrite_keeps)
    | (with_reducible apply actNwEnrol_keeps)
    | split
    | dsimp only

theorem execEnrolTimeout_keeps (s : State) {nx : State} (hn : execEnrolTimeout s = .next nx) : Keeps true s nx := by
  unfold execEnrolTimeout at hn
  have hk := Keeps.refl true s
  refine okNw_keeps hn ?_
  repeat' first
    | (with_reducible assumption)
    | (intro _)
    | (with_reducible apply ite_keeps)
    | (with_reducible apply enrolResult_keeps)
    | split
    | dsimp only

theorem toneBlock_keeps (g : NwCfg) (e : Nat) (s : State) (hk : Keeps fz s0 s) : Keeps fz s0 (toneBlock g e s) := by
  unfold toneBlock
  repeat' first
    | (with_reducible assumption)
    | (intro _)
    | (with_reducible apply ite_keeps)
    | (with_reducible apply onNw_keeps)
    | (with_reducible apply raiseNw_keeps)
    | (with_reducible apply State.fadd_keeps)
    | (with_reducible apply foldl_keeps)
    | split
    | dsimp only

theorem impactBlock_keeps (g : NwCfg) (e : Nat) (s : State) (hk : Keeps fz s0 s) : Keeps fz s0 (impactBlock g e s)
    := by
  unfold impactBlock
  repeat' first
    | (with_reducible assumption)
    | (intro _)
    | (with_reducible apply ite_keeps)
    | (with_reducible apply raiseNw_keeps)
    | (with_reducible apply State.fadd_keeps)
    | (with_reducible apply onNw_keeps)
    | split
    | dsimp only

theorem shatterBlock_keeps (g : NwCfg) (s : State) (hk : Keeps fz s0 s) : Keeps fz s0 (shatterBlock g s) := by
  unfold shatterBlock
  repeat' first
    | (with_reducible assumption)
    | (intro _)
    | (with_reducible apply ite_keeps)
    | (with_reducible apply onNw_keeps)
    | (with_reducible apply raiseNw_keeps)
    | (with_reducible apply State.fadd_keeps)
    | split
    | dsimp only

theorem execAlarmBlock_keeps (s : State) {nx : State} (hn : execAlarmBlock s = .next nx) : Keeps true s nx := by
  unfold execAlarmBlock at hn
  have hk := Keeps.refl true s
  refine okNw_keeps hn ?_
  repeat' first
    | (with_reducible assumption)
    | (intro _)
    | (with_reducible apply ite_keeps)
    | (with_reducible apply onNw_keeps)
    | (with_reducible apply shatterBlock_keeps)
    | (with_reducible apply impactBlock_keeps)
    | (with_reducible apply toneBlock_keeps)
    | split
    | dsimp only

theorem dropTrig_keeps (s : State) (hk : Keeps fz s0 s) : Keeps fz s0 (dropTrig s) := by
  unfold dropTrig
  repeat' first
    | (with_reducible assumption)
    | (intro _)
    | (with_reducible apply ite_keeps)
    | (with_reducible apply State.fsat_keeps)
    | (with_reducible apply onNw_keeps)
    | split
    | dsimp only

theorem wakeTrigger_keeps (x : NwTrig) (s : State) (hk : Keeps fz s0 s) : Keeps fz s0 (wakeTrigger x s) := by
  unfold wakeTrigger
  repeat' first
    | (with_reducible assumption)
    | (intro _)
    | (with_reducible apply ite_keeps)
    | (with_reducible apply onNw_keeps)
    | (with_reducible apply dropTrig_keeps)
    | split
    | dsimp only

theorem nwEmit_keeps (t dst : Nat) (arg : Word) (s : State) (hk : Keeps fz s0 s) : Keeps fz s0 (nwEmit t dst arg s)
    := by
  unfold nwEmit
  repeat' first
    | (with_reducible assumption)
    | (intro _)
    | (with_reducible apply ite_keeps)
    | (with_reducible apply wakeTrigger_keeps)
    | (with_reducible apply nwEvt_keeps)
    | (with_reducible apply State.fset_keeps)
    | split
    | dsimp only

theorem actNwSignal_keeps (v : Word) (s : State) (hk : Keeps fz s0 s) : Keeps fz s0 (actNwSignal v s) := by
  unfold actNwSignal
  repeat' first
    | (with_reducible assumption)
    | (intro _)
    | (with_reducible apply ite_keeps)
    | (with_reducible apply raiseNw_keeps)
    | (with_reducible apply onNw_keeps)
    | split
    | dsimp only

theorem execNwSignal_keeps (f : HostFn) (val : Word) (s : State) {nx : State} (hn : execNwSignal f val s = .next nx)
    : Keeps true s nx := by
  unfold execNwSignal at hn
  have hk := Keeps.refl true s
  refine ok_keeps hn ?_
  repeat' first
    | (with_reducible assumption)
    | (intro _)
    | (with_reducible apply ite_keeps)
    | (with_reducible apply hostWrite_keeps)
    | (with_reducible apply actNwSignal_keeps)
    | split
    | dsimp only

theorem openWindow_keeps (s : State) (hk : Keeps fz s0 s) : Keeps fz s0 (openWindow s) := by
  unfold openWindow
  repeat' first
    | (with_reducible assumption)
    | (intro _)
    | (with_reducible apply ite_keeps)
    | (with_reducible apply onNw_keeps)
    | split
    | dsimp only

theorem nwDeliver_keeps (x : NwTrig) (s : State) (hk : Keeps fz s0 s) : Keeps fz s0 (nwDeliver x s) := by
  unfold nwDeliver
  repeat' first
    | (with_reducible assumption)
    | (intro _)
    | (with_reducible apply ite_keeps)
    | (with_reducible apply onNw_keeps)
    | (with_reducible apply openWindow_keeps)
    | (with_reducible apply raiseZen_keeps)
    | split
    | dsimp only
    | (fail_if_no_progress with_reducible refine Keeps.updMk ?_ rfl rfl rfl rfl rfl rfl rfl)

theorem execWakeDelivery_keeps (s : State) {nx : State} (hn : execWakeDelivery s = .next nx) : Keeps true s nx := by
  unfold execWakeDelivery at hn
  have hk := Keeps.refl true s
  refine okNw_keeps hn ?_
  repeat' first
    | (with_reducible assumption)
    | (intro _)
    | (with_reducible apply ite_keeps)
    | (with_reducible apply nwDeliver_keeps)
    | split
    | dsimp only

theorem actNwPost_keeps (s : State) (hk : Keeps fz s0 s) : Keeps fz s0 (actNwPost s) := by
  unfold actNwPost
  repeat' first
    | (with_reducible assumption)
    | (intro _)
    | (with_reducible apply ite_keeps)
    | (with_reducible apply State.setReg_keeps)
    | (with_reducible apply onNw_keeps)
    | (with_reducible apply State.fadd_keeps)
    | (with_reducible apply nwSignal_keeps)
    | (with_reducible apply State.fset_keeps)
    | (with_reducible apply foldl_keeps)
    | split
    | dsimp only

theorem execNwPost_keeps (f : HostFn) (s : State) {nx : State} (hn : execNwPost f s = .next nx) : Keeps true s nx :=
    by
  unfold execNwPost at hn
  have hk := Keeps.refl true s
  refine ok_keeps hn ?_
  repeat' first
    | (with_reducible assumption)
    | (intro _)
    | (with_reducible apply ite_keeps)
    | (with_reducible apply hostWrite_keeps)
    | (with_reducible apply actNwPost_keeps)
    | split
    | dsimp only

theorem actNwWakeAck_keeps (v : Word) (s : State) (hk : Keeps fz s0 s) : Keeps fz s0 (actNwWakeAck v s) := by
  unfold actNwWakeAck
  repeat' first
    | (with_reducible assumption)
    | (intro _)
    | (with_reducible apply ite_keeps)
    | (with_reducible apply State.fset_keeps)
    | (with_reducible apply onNw_keeps)
    | split
    | dsimp only
    | (fail_if_no_progress with_reducible refine Keeps.updMk ?_ rfl rfl rfl rfl rfl rfl rfl)

theorem execNwWakeAck_keeps (f : HostFn) (seq : Word) (s : State) {nx : State} (hn : execNwWakeAck f seq s = .next
    nx) : Keeps true s nx := by
  unfold execNwWakeAck at hn
  have hk := Keeps.refl true s
  refine ok_keeps hn ?_
  repeat' first
    | (with_reducible assumption)
    | (intro _)
    | (with_reducible apply ite_keeps)
    | (with_reducible apply hostWrite_keeps)
    | (with_reducible apply actNwWakeAck_keeps)
    | split
    | dsimp only

theorem execWindowTimeout_keeps (s : State) {nx : State} (hn : execWindowTimeout s = .next nx) : Keeps true s nx :=
    by
  unfold execWindowTimeout at hn
  have hk := Keeps.refl true s
  refine okNw_keeps hn ?_
  repeat' first
    | (with_reducible assumption)
    | (intro _)
    | (with_reducible apply ite_keeps)
    | (with_reducible apply closeWindow_keeps)
    | split
    | dsimp only

theorem actNwClose_keeps (v : Word) (s : State) (hk : Keeps fz s0 s) : Keeps fz s0 (actNwClose v s) := by
  unfold actNwClose
  repeat' first
    | (with_reducible assumption)
    | (intro _)
    | (with_reducible apply ite_keeps)
    | (with_reducible apply closeWindow_keeps)
    | split
    | dsimp only

theorem execNwClose_keeps (f : HostFn) (seq : Word) (s : State) {nx : State} (hn : execNwClose f seq s = .next nx) :
    Keeps true s nx := by
  unfold execNwClose at hn
  have hk := Keeps.refl true s
  refine ok_keeps hn ?_
  repeat' first
    | (with_reducible assumption)
    | (intro _)
    | (with_reducible apply ite_keeps)
    | (with_reducible apply hostWrite_keeps)
    | (with_reducible apply actNwClose_keeps)
    | split
    | dsimp only

theorem execScrubDone_keeps (s : State) {nx : State} (hn : execScrubDone s = .next nx) : Keeps true s nx := by
  unfold execScrubDone at hn
  have hk := Keeps.refl true s
  refine okNw_keeps hn ?_
  repeat' first
    | (with_reducible assumption)
    | (intro _)
    | (with_reducible apply ite_keeps)
    | (with_reducible apply onNw_keeps)
    | (with_reducible apply openWindow_keeps)
    | split
    | dsimp only

theorem wakeAtCommit_keeps (s : State) (hk : Keeps fz s0 s) : Keeps fz s0 (wakeAtCommit s) := by
  unfold wakeAtCommit
  repeat' first
    | (with_reducible assumption)
    | (intro _)
    | (with_reducible apply ite_keeps)
    | (with_reducible apply raiseZen_keeps)
    | split
    | dsimp only

theorem nwHandover_keeps (s : State) (hk : Keeps fz s0 s) : Keeps fz s0 (nwHandover s) := by
  unfold nwHandover
  repeat' first
    | (with_reducible assumption)
    | (intro _)
    | (with_reducible apply ite_keeps)
    | (with_reducible apply actNwMode_keeps)
    | split
    | dsimp only

theorem nwStandby_keeps (s : State) (hk : Keeps fz s0 s) : Keeps fz s0 (nwStandby s) := by
  unfold nwStandby
  repeat' first
    | (with_reducible assumption)
    | (intro _)
    | (with_reducible apply ite_keeps)
    | split
    | dsimp only
    | (fail_if_no_progress with_reducible refine Keeps.updMk ?_ rfl rfl rfl rfl rfl rfl rfl)

theorem execVddNwRise_keeps (s : State) {nx : State} (hn : execVddNwRise s = .next nx) : Keeps true s nx := by
  unfold execVddNwRise at hn
  have hk := Keeps.refl true s
  repeat' first
    | (split at hn)
    | (injection hn with hn; subst hn)
    | (with_reducible assumption)
    | (intro _)
    | (with_reducible apply ite_keeps)
    | (with_reducible apply nwReset_keeps)
    | split
    | dsimp only
    | (fail_if_no_progress with_reducible refine Keeps.updMk ?_ rfl rfl rfl rfl rfl rfl rfl)

theorem execVddNwLoss_keeps (s : State) {nx : State} (hn : execVddNwLoss s = .next nx) : Keeps true s nx := by
  unfold execVddNwLoss at hn
  have hk := Keeps.refl true s
  repeat' first
    | (split at hn)
    | (injection hn with hn; subst hn)
    | (with_reducible assumption)
    | (intro _)
    | (with_reducible apply ite_keeps)
    | (with_reducible apply nwDomains_keeps)
    | (with_reducible apply onNw_keeps)
    | (with_reducible apply State.resetRegs_keeps)
    | split
    | dsimp only
    | (fail_if_no_progress with_reducible refine Keeps.updMk ?_ rfl rfl rfl rfl rfl rfl rfl)

theorem execVretLoss_keeps (s : State) {nx : State} (hn : execVretLoss s = .next nx) : Keeps true s nx := by
  unfold execVretLoss at hn
  have hk := Keeps.refl true s
  repeat' first
    | (split at hn)
    | (injection hn with hn; subst hn)
    | (with_reducible assumption)
    | (intro _)
    | (with_reducible apply ite_keeps)
    | (with_reducible apply onNw_keeps)
    | split
    | dsimp only
    | (fail_if_no_progress with_reducible refine Keeps.updMk ?_ rfl rfl rfl rfl rfl rfl rfl)

theorem execVretReturn_keeps (s : State) {nx : State} (hn : execVretReturn s = .next nx) : Keeps true s nx := by
  unfold execVretReturn at hn
  have hk := Keeps.refl true s
  repeat' first
    | (split at hn)
    | (injection hn with hn; subst hn)
    | (with_reducible assumption)
    | (intro _)
    | (with_reducible apply ite_keeps)
    | split
    | dsimp only
    | (fail_if_no_progress with_reducible refine Keeps.updMk ?_ rfl rfl rfl rfl rfl rfl rfl)

end Sys2Proof.Machine
end

