-- ==== Sys2Proof/Laws/KeepsOrbit.lean ====
section
/-! SUPPORT. What the operations of Machine/Orbit.lean keep (Laws/Keeps.lean). -/
namespace Sys2Proof.Machine

variable {fz : Bool} {s0 : State}

theorem orbEvent_keeps (s : State) (hk : Keeps fz s0 s) : Keeps fz s0 (orbEvent s) := by
  unfold orbEvent
  repeat' first
    | (with_reducible assumption)
    | (intro _)
    | (with_reducible apply ite_keeps)
    | (with_reducible apply advanceSeq_keeps)
    | split
    | dsimp only

theorem orbRegs_keeps (c : Nat) (ch : OrbChan) (s : State) (hk : Keeps fz s0 s) : Keeps fz s0 (orbRegs c ch s) := by
  unfold orbRegs
  repeat' first
    | (with_reducible assumption)
    | (intro _)
    | (with_reducible apply ite_keeps)
    | (with_reducible apply State.fset_keeps)
    | split
    | dsimp only

theorem setOrb_keeps (c : Nat) (ch : OrbChan) (s : State) (hk : Keeps fz s0 s) : Keeps fz s0 (setOrb c ch s) := by
  unfold setOrb
  repeat' first
    | (with_reducible assumption)
    | (intro _)
    | (with_reducible apply ite_keeps)
    | (with_reducible apply orbRegs_keeps)
    | (with_reducible apply orbEvent_keeps)
    | split
    | dsimp only
    | (fail_if_no_progress with_reducible refine Keeps.updMk ?_ rfl rfl rfl rfl rfl rfl rfl)

theorem orbStart_keeps (c t : Nat) (ch : OrbChan) (s : State) (hk : Keeps fz s0 s) : Keeps fz s0 (orbStart c t ch s)
    := by
  unfold orbStart
  repeat' first
    | (with_reducible assumption)
    | (intro _)
    | (with_reducible apply ite_keeps)
    | (with_reducible apply setOrb_keeps)
    | (with_reducible apply State.fadd_keeps)
    | split
    | dsimp only

theorem orbFault_keeps (c t code : Nat) (ch : OrbChan) (s : State) (hk : Keeps fz s0 s) : Keeps fz s0 (orbFault c t
    code ch s) := by
  unfold orbFault
  repeat' first
    | (with_reducible assumption)
    | (intro _)
    | (with_reducible apply ite_keeps)
    | (with_reducible apply orbEvent_keeps)
    | (with_reducible apply setOrb_keeps)
    | (with_reducible apply State.fadd_keeps)
    | split
    | dsimp only

theorem orbSettle_keeps (c t : Nat) (ch : OrbChan) (s : State) (hk : Keeps fz s0 s) : Keeps fz s0 (orbSettle c t ch
    s) := by
  unfold orbSettle
  repeat' first
    | (with_reducible assumption)
    | (intro _)
    | (with_reducible apply ite_keeps)
    | (with_reducible apply setOrb_keeps)
    | (with_reducible apply orbStart_keeps)
    | split
    | dsimp only

theorem orbEffect_keeps (c : Nat) (cmd : OrbCmd) (ch : OrbChan) (s : State) (hk : Keeps fz s0 s) : Keeps fz s0
    (orbEffect c cmd ch s) := by
  unfold orbEffect
  repeat' first
    | (with_reducible assumption)
    | (intro _)
    | (with_reducible apply ite_keeps)
    | (with_reducible apply orbSettle_keeps)
    | (with_reducible apply setOrb_keeps)
    | (with_reducible apply State.fadd_keeps)
    | split
    | dsimp only

theorem orbDrop_keeps (c : Nat) (s : State) (hk : Keeps fz s0 s) : Keeps fz s0 (orbDrop c s) := by
  unfold orbDrop
  repeat' first
    | (with_reducible assumption)
    | (intro _)
    | (with_reducible apply ite_keeps)
    | (with_reducible apply State.fsat_keeps)
    | split
    | dsimp only

theorem orbCommand_keeps (c : Nat) (cmd : OrbCmd) (s : State) (hk : Keeps fz s0 s) : Keeps fz s0 (orbCommand c cmd
    s) := by
  unfold orbCommand
  repeat' first
    | (with_reducible assumption)
    | (intro _)
    | (with_reducible apply ite_keeps)
    | (with_reducible apply orbEffect_keeps)
    | (with_reducible apply setOrb_keeps)
    | (with_reducible apply orbDrop_keeps)
    | split
    | dsimp only

theorem actOrbCmd_keeps (c : Nat) (v : Word) (s : State) (hk : Keeps fz s0 s) : Keeps fz s0 (actOrbCmd c v s) := by
  unfold actOrbCmd
  repeat' first
    | (with_reducible assumption)
    | (intro _)
    | (with_reducible apply ite_keeps)
    | (with_reducible apply orbCommand_keeps)
    | split
    | dsimp only

theorem execOrbAuto_keeps (f : HostFn) (c : Fin 4) (s : State) {nx : State} (hn : execOrbAuto f c s = .next nx) :
    Keeps true s nx := by
  unfold execOrbAuto at hn
  have hk := Keeps.refl true s
  refine ok_keeps hn ?_
  repeat' first
    | (with_reducible assumption)
    | (intro _)
    | (with_reducible apply ite_keeps)
    | (with_reducible apply hostWrite_keeps)
    | (with_reducible apply actOrbCmd_keeps)
    | split
    | dsimp only

theorem execOrbManual_keeps (f : HostFn) (c : Fin 4) (rpm : BitVec 16) (s : State) {nx : State} (hn : execOrbManual
    f c rpm s = .next nx) : Keeps true s nx := by
  unfold execOrbManual at hn
  have hk := Keeps.refl true s
  refine ok_keeps hn ?_
  repeat' first
    | (with_reducible assumption)
    | (intro _)
    | (with_reducible apply ite_keeps)
    | (with_reducible apply hostWrite_keeps)
    | (with_reducible apply actOrbCmd_keeps)
    | split
    | dsimp only

theorem execOrbStop_keeps (f : HostFn) (c : Fin 4) (s : State) {nx : State} (hn : execOrbStop f c s = .next nx) :
    Keeps true s nx := by
  unfold execOrbStop at hn
  have hk := Keeps.refl true s
  refine ok_keeps hn ?_
  repeat' first
    | (with_reducible assumption)
    | (intro _)
    | (with_reducible apply ite_keeps)
    | (with_reducible apply hostWrite_keeps)
    | (with_reducible apply actOrbCmd_keeps)
    | split
    | dsimp only

theorem execOrbClear_keeps (f : HostFn) (c : Fin 4) (s : State) {nx : State} (hn : execOrbClear f c s = .next nx) :
    Keeps true s nx := by
  unfold execOrbClear at hn
  have hk := Keeps.refl true s
  refine ok_keeps hn ?_
  repeat' first
    | (with_reducible assumption)
    | (intro _)
    | (with_reducible apply ite_keeps)
    | (with_reducible apply hostWrite_keeps)
    | (with_reducible apply actOrbCmd_keeps)
    | split
    | dsimp only

theorem okOrb_keeps {c : Nat} {g : OrbChan → State → State} {s t : State} (e : okOrb c g s = .next t)
    (hg : ∀ ch, Keeps true s (g ch s)) : Keeps true s t := by
  refine ok_keeps e ?_
  split
  · exact ite_keeps (hg _) (Keeps.refl _ _)
  · exact Keeps.refl _ _

theorem execOrbPendingCommand_keeps (c : Fin 4) (s : State) {nx : State} (hn : execOrbPendingCommand c s = .next nx)
    : Keeps true s nx := by
  unfold execOrbPendingCommand at hn
  have hk := Keeps.refl true s
  refine okOrb_keeps hn ?_
  repeat' first
    | (with_reducible assumption)
    | (intro _)
    | (with_reducible apply ite_keeps)
    | (with_reducible apply orbEffect_keeps)
    | (with_reducible apply setOrb_keeps)
    | split
    | dsimp only

theorem execObserveTransition_keeps (c : Fin 4) (before after : BitVec 3) (s : State) {nx : State} (hn :
    execObserveTransition c before after s = .next nx) : Keeps true s nx := by
  unfold execObserveTransition at hn
  have hk := Keeps.refl true s
  refine okOrb_keeps hn ?_
  repeat' first
    | (with_reducible assumption)
    | (intro _)
    | (with_reducible apply ite_keeps)
    | (with_reducible apply setOrb_keeps)
    | split
    | dsimp only

theorem execMeasurementLapse_keeps (c : Fin 4) (s : State) {nx : State} (hn : execMeasurementLapse c s = .next nx) :
    Keeps true s nx := by
  unfold execMeasurementLapse at hn
  have hk := Keeps.refl true s
  refine okOrb_keeps hn ?_
  repeat' first
    | (with_reducible assumption)
    | (intro _)
    | (with_reducible apply ite_keeps)
    | (with_reducible apply setOrb_keeps)
    | split
    | dsimp only

theorem observeEnd_keeps (c : Nat) (ch : OrbChan) (s : State) (hk : Keeps fz s0 s) : Keeps fz s0 (observeEnd c ch s)
    := by
  unfold observeEnd
  repeat' first
    | (with_reducible assumption)
    | (intro _)
    | (with_reducible apply ite_keeps)
    | (with_reducible apply setOrb_keeps)
    | (with_reducible apply orbFault_keeps)
    | split
    | dsimp only

theorem execObserveEnd_keeps (c : Fin 4) (s : State) {nx : State} (hn : execObserveEnd c s = .next nx) : Keeps true
    s nx := by
  unfold execObserveEnd at hn
  have hk := Keeps.refl true s
  refine okOrb_keeps hn ?_
  repeat' first
    | (with_reducible assumption)
    | (intro _)
    | (with_reducible apply ite_keeps)
    | (with_reducible apply observeEnd_keeps)
    | split
    | dsimp only

theorem execBrakeEnd_keeps (c : Fin 4) (s : State) {nx : State} (hn : execBrakeEnd c s = .next nx) : Keeps true s nx
    := by
  unfold execBrakeEnd at hn
  have hk := Keeps.refl true s
  refine okOrb_keeps hn ?_
  repeat' first
    | (with_reducible assumption)
    | (intro _)
    | (with_reducible apply ite_keeps)
    | (with_reducible apply setOrb_keeps)
    | split
    | dsimp only

theorem positionDone_keeps (c : Nat) (ps : List (Nat × Bool)) (ch : OrbChan) (s : State) (hk : Keeps fz s0 s) :
    Keeps fz s0 (positionDone c ps ch s) := by
  unfold positionDone
  repeat' first
    | (with_reducible assumption)
    | (intro _)
    | (with_reducible apply ite_keeps)
    | (with_reducible apply State.fset_keeps)
    | (with_reducible apply setOrb_keeps)
    | (with_reducible apply foldl_keeps)
    | split
    | dsimp only

theorem execPositionDone_keeps (c : Fin 4) (trips : List (Option (Nat × Nat))) (s : State) {nx : State} (hn :
    execPositionDone c trips s = .next nx) : Keeps true s nx := by
  unfold execPositionDone at hn
  have hk := Keeps.refl true s
  refine okOrb_keeps hn ?_
  repeat' first
    | (with_reducible assumption)
    | (intro _)
    | (with_reducible apply ite_keeps)
    | (with_reducible apply positionDone_keeps)
    | split
    | dsimp only

theorem execAlignEnd_keeps (c : Fin 4) (s : State) {nx : State} (hn : execAlignEnd c s = .next nx) : Keeps true s nx
    := by
  unfold execAlignEnd at hn
  have hk := Keeps.refl true s
  refine okOrb_keeps hn ?_
  repeat' first
    | (with_reducible assumption)
    | (intro _)
    | (with_reducible apply ite_keeps)
    | (with_reducible apply setOrb_keeps)
    | split
    | dsimp only

theorem execRampCommutation_keeps (c : Fin 4) (s : State) {nx : State} (hn : execRampCommutation c s = .next nx) :
    Keeps true s nx := by
  unfold execRampCommutation at hn
  have hk := Keeps.refl true s
  refine okOrb_keeps hn ?_
  repeat' first
    | (with_reducible assumption)
    | (intro _)
    | (with_reducible apply ite_keeps)
    | (with_reducible apply setOrb_keeps)
    | split
    | dsimp only

theorem execRampFail_keeps (c : Fin 4) (s : State) {nx : State} (hn : execRampFail c s = .next nx) : Keeps true s nx
    := by
  unfold execRampFail at hn
  have hk := Keeps.refl true s
  refine okOrb_keeps hn ?_
  repeat' first
    | (with_reducible assumption)
    | (intro _)
    | (with_reducible apply ite_keeps)
    | (with_reducible apply orbFault_keeps)
    | (with_reducible apply setOrb_keeps)
    | split
    | dsimp only

theorem execZeroCrossing_keeps (c : Fin 4) (level seen : Bool) (s : State) {nx : State} (hn : execZeroCrossing c
    level seen s = .next nx) : Keeps true s nx := by
  unfold execZeroCrossing at hn
  have hk := Keeps.refl true s
  refine okOrb_keeps hn ?_
  repeat' first
    | (with_reducible assumption)
    | (intro _)
    | (with_reducible apply ite_keeps)
    | (with_reducible apply setOrb_keeps)
    | split
    | dsimp only

theorem execCommutation_keeps (c : Fin 4) (s : State) {nx : State} (hn : execCommutation c s = .next nx) : Keeps
    true s nx := by
  unfold execCommutation at hn
  have hk := Keeps.refl true s
  refine okOrb_keeps hn ?_
  repeat' first
    | (with_reducible assumption)
    | (intro _)
    | (with_reducible apply ite_keeps)
    | (with_reducible apply setOrb_keeps)
    | split
    | dsimp only

theorem execSyncLoss_keeps (c : Fin 4) (s : State) {nx : State} (hn : execSyncLoss c s = .next nx) : Keeps true s nx
    := by
  unfold execSyncLoss at hn
  have hk := Keeps.refl true s
  refine okOrb_keeps hn ?_
  repeat' first
    | (with_reducible assumption)
    | (intro _)
    | (with_reducible apply ite_keeps)
    | (with_reducible apply State.fadd_keeps)
    | (with_reducible apply orbFault_keeps)
    | (with_reducible apply orbStart_keeps)
    | split
    | dsimp only

theorem execSpeedLoopUpdate_keeps (c : Fin 4) (s : State) {nx : State} (hn : execSpeedLoopUpdate c s = .next nx) :
    Keeps true s nx := by
  unfold execSpeedLoopUpdate at hn
  have hk := Keeps.refl true s
  refine okOrb_keeps hn ?_
  repeat' first
    | (with_reducible assumption)
    | (intro _)
    | (with_reducible apply ite_keeps)
    | (with_reducible apply setOrb_keeps)
    | split
    | dsimp only

theorem execOcTrip_keeps (c : Fin 4) (isns : Nat) (s : State) {nx : State} (hn : execOcTrip c isns s = .next nx) :
    Keeps true s nx := by
  unfold execOcTrip at hn
  have hk := Keeps.refl true s
  refine okOrb_keeps hn ?_
  repeat' first
    | (with_reducible assumption)
    | (intro _)
    | (with_reducible apply ite_keeps)
    | (with_reducible apply setOrb_keeps)
    | (with_reducible apply State.fadd_keeps)
    | split
    | dsimp only

theorem execOvercurrent_keeps (c : Fin 4) (s : State) {nx : State} (hn : execOvercurrent c s = .next nx) : Keeps
    true s nx := by
  unfold execOvercurrent at hn
  have hk := Keeps.refl true s
  refine okOrb_keeps hn ?_
  repeat' first
    | (with_reducible assumption)
    | (intro _)
    | (with_reducible apply ite_keeps)
    | (with_reducible apply orbFault_keeps)
    | split
    | dsimp only

theorem execShort_keeps (c : Fin 4) (isns : Nat) (s : State) {nx : State} (hn : execShort c isns s = .next nx) :
    Keeps true s nx := by
  unfold execShort at hn
  have hk := Keeps.refl true s
  refine okOrb_keeps hn ?_
  repeat' first
    | (with_reducible assumption)
    | (intro _)
    | (with_reducible apply ite_keeps)
    | (with_reducible apply orbFault_keeps)
    | split
    | dsimp only

theorem execFaultRetry_keeps (c : Fin 4) (s : State) {nx : State} (hn : execFaultRetry c s = .next nx) : Keeps true
    s nx := by
  unfold execFaultRetry at hn
  have hk := Keeps.refl true s
  refine okOrb_keeps hn ?_
  repeat' first
    | (with_reducible assumption)
    | (intro _)
    | (with_reducible apply ite_keeps)
    | (with_reducible apply orbStart_keeps)
    | split
    | dsimp only

theorem execFaultEnd_keeps (c : Fin 4) (s : State) {nx : State} (hn : execFaultEnd c s = .next nx) : Keeps true s nx
    := by
  unfold execFaultEnd at hn
  have hk := Keeps.refl true s
  refine okOrb_keeps hn ?_
  repeat' first
    | (with_reducible assumption)
    | (intro _)
    | (with_reducible apply ite_keeps)
    | (with_reducible apply setOrb_keeps)
    | split
    | dsimp only

theorem orbTickChan_keeps (tf c : Nat) (s : State) (hk : Keeps fz s0 s) : Keeps fz s0 (orbTickChan tf c s) := by
  unfold orbTickChan
  repeat' first
    | (with_reducible assumption)
    | (intro _)
    | (with_reducible apply ite_keeps)
    | (with_reducible apply orbSettle_keeps)
    | split
    | dsimp only

theorem orbTick_keeps (tj : Nat) (s : State) (hk : Keeps fz s0 s) : Keeps fz s0 (orbTick tj s) := by
  unfold orbTick
  repeat' first
    | (with_reducible assumption)
    | (intro _)
    | (with_reducible apply ite_keeps)
    | (with_reducible apply orbTickChan_keeps)
    | (with_reducible apply State.fset_keeps)
    | (with_reducible apply foldl_keeps)
    | split
    | dsimp only
    | (fail_if_no_progress with_reducible refine Keeps.updMk ?_ rfl rfl rfl rfl rfl rfl rfl)

theorem orbBegin_keeps (s : State) (hk : Keeps fz s0 s) : Keeps fz s0 (orbBegin s) := by
  unfold orbBegin
  repeat' first
    | (with_reducible assumption)
    | (intro _)
    | (with_reducible apply ite_keeps)
    | (with_reducible apply orbRegs_keeps)
    | (with_reducible apply State.fset_keeps)
    | (with_reducible apply foldl_keeps)
    | split
    | dsimp only
    | (fail_if_no_progress with_reducible refine Keeps.updMk ?_ rfl rfl rfl rfl rfl rfl rfl)

theorem orbTrip_keeps (s : State) (hk : Keeps fz s0 s) : Keeps fz s0 (orbTrip s) := by
  unfold orbTrip
  repeat' first
    | (with_reducible assumption)
    | (intro _)
    | (with_reducible apply ite_keeps)
    | split
    | dsimp only
    | (fail_if_no_progress with_reducible refine Keeps.updMk ?_ rfl rfl rfl rfl rfl rfl rfl)

end Sys2Proof.Machine
end

