-- ==== Sys2Proof/Laws/KeepsSectAux.lean ====
section
/-! SUPPORT. What the operations of Machine/SectAux.lean keep (Laws/Keeps.lean). -/
namespace Sys2Proof.Machine

variable {fz : Bool} {s0 : State}

theorem applyOrbit_keeps (x : Sect) (s : State) (hk : Keeps fz s0 s) : Keeps fz s0 (applyOrbit x s) := by
  unfold applyOrbit
  repeat' first
    | (with_reducible assumption)
    | (intro _)
    | (with_reducible apply ite_keeps)
    | split
    | dsimp only
    | (fail_if_no_progress with_reducible refine Keeps.updMk ?_ rfl rfl rfl rfl rfl rfl rfl)

theorem applyProc_keeps (x : Sect) (s : State) (hk : Keeps fz s0 s) : Keeps fz s0 (applyProc x s) := by
  unfold applyProc
  repeat' first
    | (with_reducible assumption)
    | (intro _)
    | (with_reducible apply ite_keeps)
    | split
    | dsimp only
    | (fail_if_no_progress with_reducible refine Keeps.updMk ?_ rfl rfl rfl rfl rfl rfl rfl)

end Sys2Proof.Machine
end

