-- ==== Sys2Proof/Laws/KeepsSectCore.lean ====
section
/-! SUPPORT. What the operations of Machine/SectCore.lean keep (Laws/Keeps.lean). -/
namespace Sys2Proof.Machine

variable {fz : Bool} {s0 : State}

theorem applyGlobal_keeps (x : Sect) (s : State) (hk : Keeps fz s0 s) : Keeps fz s0 (applyGlobal x s) := by
  unfold applyGlobal
  repeat' first
    | (with_reducible assumption)
    | (intro _)
    | (with_reducible apply ite_keeps)
    | (with_reducible apply State.fset_keeps)
    | split
    | dsimp only

theorem applyMemory_keeps (x : Sect) (s : State) (hk : Keeps fz s0 s) : Keeps fz s0 (applyMemory x s) := by
  unfold applyMemory
  repeat' first
    | (with_reducible assumption)
    | (intro _)
    | (with_reducible apply ite_keeps)
    | (with_reducible apply State.fset_keeps)
    | split
    | dsimp only

theorem applyPower_keeps (x : Sect) (s : State) (hk : Keeps fz s0 s) : Keeps fz s0 (applyPower x s) := by
  unfold applyPower
  repeat' first
    | (with_reducible assumption)
    | (intro _)
    | (with_reducible apply ite_keeps)
    | (with_reducible apply foldl_keeps)
    | split
    | dsimp only
    | (fail_if_no_progress with_reducible refine Keeps.updMk ?_ rfl rfl rfl rfl rfl rfl rfl)

theorem applyPace_keeps (ovens : List Nat) (x : Sect) (s : State) (hk : Keeps fz s0 s) : Keeps fz s0 (applyPace
    ovens x s) := by
  unfold applyPace
  repeat' first
    | (with_reducible assumption)
    | (intro _)
    | (with_reducible apply ite_keeps)
    | (with_reducible apply State.fset_keeps)
    | (with_reducible apply foldl_keeps)
    | split
    | dsimp only

theorem applyPcie_keeps (x : Sect) (s : State) (hk : Keeps fz s0 s) : Keeps fz s0 (applyPcie x s) := by
  unfold applyPcie
  repeat' first
    | (with_reducible assumption)
    | (intro _)
    | (with_reducible apply ite_keeps)
    | (with_reducible apply State.fset_keeps)
    | (with_reducible apply foldl_keeps)
    | split
    | dsimp only
    | (fail_if_no_progress with_reducible refine Keeps.updMk ?_ rfl rfl rfl rfl rfl rfl rfl)

theorem applySideband_keeps (x : Sect) (s : State) (hk : Keeps fz s0 s) : Keeps fz s0 (applySideband x s) := by
  unfold applySideband
  repeat' first
    | (with_reducible assumption)
    | (intro _)
    | (with_reducible apply ite_keeps)
    | (with_reducible apply State.fset_keeps)
    | split
    | dsimp only
    | (fail_if_no_progress with_reducible refine Keeps.updMk ?_ rfl rfl rfl rfl rfl rfl rfl)

theorem applyContexts_keeps (x : Sect) (s : State) (hk : Keeps fz s0 s) : Keeps fz s0 (applyContexts x s) := by
  unfold applyContexts
  repeat' first
    | (with_reducible assumption)
    | (intro _)
    | (with_reducible apply ite_keeps)
    | (with_reducible apply State.fset_keeps)
    | (with_reducible apply foldl_keeps)
    | split
    | dsimp only

theorem applyWindows_keeps (x : Sect) (s : State) (hk : Keeps fz s0 s) : Keeps fz s0 (applyWindows x s) := by
  unfold applyWindows
  repeat' first
    | (with_reducible assumption)
    | (intro _)
    | (with_reducible apply ite_keeps)
    | (with_reducible apply State.fset_keeps)
    | (with_reducible apply foldl_keeps)
    | split
    | dsimp only
    | (fail_if_no_progress with_reducible refine Keeps.updMk ?_ rfl rfl rfl rfl rfl rfl rfl)

theorem applyMeridian_keeps (x : Sect) (s : State) (hk : Keeps fz s0 s) : Keeps fz s0 (applyMeridian x s) := by
  unfold applyMeridian
  repeat' first
    | (with_reducible assumption)
    | (intro _)
    | (with_reducible apply ite_keeps)
    | (with_reducible apply State.fset_keeps)
    | (with_reducible apply onLink_keeps)
    | (with_reducible apply foldl_keeps)
    | split
    | dsimp only
    | (fail_if_no_progress with_reducible refine Keeps.updMk ?_ rfl rfl rfl rfl rfl rfl rfl)

end Sys2Proof.Machine
end

