-- ==== Sys2Proof/Laws/KeepsSectFabric.lean ====
section
/-! SUPPORT. What the operations of Machine/SectFabric.lean keep (Laws/Keeps.lean). -/
namespace Sys2Proof.Machine

variable {fz : Bool} {s0 : State}

theorem applyBakery_keeps (x : Sect) (s : State) (hk : Keeps fz s0 s) : Keeps fz s0 (applyBakery x s) := by
  unfold applyBakery
  repeat' first
    | (with_reducible assumption)
    | (intro _)
    | (with_reducible apply ite_keeps)
    | (with_reducible apply State.onBakery_keeps)
    | (with_reducible apply State.fset_keeps)
    | (with_reducible apply foldl_keeps)
    | split
    | dsimp only

theorem applyRacks_keeps (x : Sect) (s : State) (hk : Keeps fz s0 s) : Keeps fz s0 (applyRacks x s) := by
  unfold applyRacks
  repeat' first
    | (with_reducible assumption)
    | (intro _)
    | (with_reducible apply ite_keeps)
    | (with_reducible apply foldl_keeps)
    | split
    | dsimp only
    | (fail_if_no_progress with_reducible refine Keeps.updMk ?_ rfl rfl rfl rfl rfl rfl rfl)

end Sys2Proof.Machine
end

