-- ==== Sys2Proof/Laws/KeepsStarters.lean ====
section
/-! SUPPORT. What the operations of Machine/Starters.lean keep (Laws/Keeps.lean). -/
namespace Sys2Proof.Machine

variable {fz : Bool} {s0 : State}

theorem stepVec_keeps (n : Nat) (d : DInstr) (c : StarterCfg) (mix : Bool) (us : List (Int × Int)) (gs : List Int)
    (s : State) (hk : Keeps fz s0 s) : Keeps fz s0 (stepVec n d c mix us gs s) := by
  unfold stepVec
  repeat' first
    | (with_reducible assumption)
    | (intro _)
    | (with_reducible apply ite_keeps)
    | (with_reducible apply State.putPantry_keeps)
    | (with_reducible apply countAccSat_keeps)
    | (with_reducible apply onOven_keeps)
    | split
    | dsimp only

theorem rebaseVec_keeps (n : Nat) (d : DInstr) (c : StarterCfg) (ls : List Int) (s : State) (hk : Keeps fz s0 s) :
    Keeps fz s0 (rebaseVec n d c ls s) := by
  unfold rebaseVec
  repeat' first
    | (with_reducible assumption)
    | (intro _)
    | (with_reducible apply ite_keeps)
    | (with_reducible apply State.putPantry_keeps)
    | (with_reducible apply countAccSat_keeps)
    | (with_reducible apply onOven_keeps)
    | split
    | dsimp only

theorem nextVec_keeps (n k : Nat) (s : State) (hk : Keeps fz s0 s) : Keeps fz s0 (nextVec n k s) := by
  unfold nextVec
  repeat' first
    | (with_reducible assumption)
    | (intro _)
    | (with_reducible apply ite_keeps)
    | (with_reducible apply onDisp_keeps)
    | split
    | dsimp only

theorem stepLoop_keeps (n k : Nat) (c : StarterCfg) (mix : Bool) (x0 : Nat) (s : State) (hk : Keeps fz s0 s) : Keeps
    fz s0 (stepLoop n k c mix x0 s) := by
  induction x0 generalizing s with
  | zero => simpa only [stepLoop] using hk
  | succ fuel ih =>
    rw [stepLoop]
    repeat' first
      | (with_reducible assumption)
      | (intro _)
      | (with_reducible apply ite_keeps)
      | (with_reducible apply finishDisp_keeps)
      | (with_reducible apply gather_keeps)
      | (with_reducible refine gather_keeps' (by assumption) ?_)
      | (with_reducible apply onDisp_keeps)
      | (with_reducible apply countLaneSat_keeps)
      | (with_reducible apply nextVec_keeps)
      | (with_reducible apply stepVec_keeps)
      | (with_reducible apply ih)
      | split
      | dsimp only

theorem rebaseLoop_keeps (n k : Nat) (c : StarterCfg) (asked : Bool) (x0 : Nat) (s : State) (hk : Keeps fz s0 s) :
    Keeps fz s0 (rebaseLoop n k c asked x0 s) := by
  induction x0 generalizing s with
  | zero => simpa only [rebaseLoop] using hk
  | succ fuel ih =>
    rw [rebaseLoop]
    repeat' first
      | (with_reducible assumption)
      | (intro _)
      | (with_reducible apply ite_keeps)
      | (with_reducible apply finishDisp_keeps)
      | (with_reducible apply gather_keeps)
      | (with_reducible refine gather_keeps' (by assumption) ?_)
      | (with_reducible apply onDisp_keeps)
      | (with_reducible apply nextVec_keeps)
      | (with_reducible apply rebaseVec_keeps)
      | (with_reducible apply countLaneSat_keeps)
      | (with_reducible apply ih)
      | split
      | dsimp only

theorem starterStep_keeps (n mode : Nat) (s : State) (hk : Keeps fz s0 s) : Keeps fz s0 (starterStep n mode s) := by
  unfold starterStep
  repeat' first
    | (with_reducible assumption)
    | (intro _)
    | (with_reducible apply ite_keeps)
    | (with_reducible apply dispatch_keeps)
    | (with_reducible apply stepLoop_keeps)
    | split
    | dsimp only

theorem starterRebase_keeps (n : Nat) (s : State) (hk : Keeps fz s0 s) : Keeps fz s0 (starterRebase n s) := by
  unfold starterRebase
  repeat' first
    | (with_reducible assumption)
    | (intro _)
    | (with_reducible apply ite_keeps)
    | (with_reducible apply dispatch_keeps)
    | (with_reducible apply rebaseLoop_keeps)
    | split
    | dsimp only

theorem execStarterAffine_keeps (n : Fin 48) (s : State) {nx : State} (hn : execStarterAffine n s = .next nx) :
    Keeps true s nx := by
  unfold execStarterAffine at hn
  have hk := Keeps.refl true s
  refine ok_keeps hn ?_
  repeat' first
    | (with_reducible assumption)
    | (intro _)
    | (with_reducible apply ite_keeps)
    | (with_reducible apply starterStep_keeps)
    | split
    | dsimp only

theorem execStarterMix_keeps (n : Fin 48) (s : State) {nx : State} (hn : execStarterMix n s = .next nx) : Keeps true
    s nx := by
  unfold execStarterMix at hn
  have hk := Keeps.refl true s
  refine ok_keeps hn ?_
  repeat' first
    | (with_reducible assumption)
    | (intro _)
    | (with_reducible apply ite_keeps)
    | (with_reducible apply starterStep_keeps)
    | split
    | dsimp only

theorem execStarterRebaseIf_keeps (n : Fin 48) (s : State) {nx : State} (hn : execStarterRebaseIf n s = .next nx) :
    Keeps true s nx := by
  unfold execStarterRebaseIf at hn
  have hk := Keeps.refl true s
  refine ok_keeps hn ?_
  repeat' first
    | (with_reducible assumption)
    | (intro _)
    | (with_reducible apply ite_keeps)
    | (with_reducible apply starterRebase_keeps)
    | split
    | dsimp only

theorem rebaseWhole_keeps (n : Nat) (c : StarterCfg) (s : State) (hk : Keeps fz s0 s) : Keeps fz s0 (rebaseWhole n c
    s) := by
  unfold rebaseWhole
  repeat' first
    | (with_reducible assumption)
    | (intro _)
    | (with_reducible apply ite_keeps)
    | (with_reducible apply countAccSat_keeps)
    | (with_reducible apply onOven_keeps)
    | (with_reducible apply foldl_keeps)
    | split
    | dsimp only

end Sys2Proof.Machine
end

