-- ==== Sys2Proof/Laws/KeepsSectOvens.lean ====
section
/-! SUPPORT. What the operations of Machine/SectOvens.lean keep (Laws/Keeps.lean). -/
namespace Sys2Proof.Machine

variable {fz : Bool} {s0 : State}

theorem applyFormats_keeps (x : Sect) (s : State) (hk : Keeps fz s0 s) : Keeps fz s0 (applyFormats x s) := by
  unfold applyFormats
  repeat' first
    | (with_reducible assumption)
    | (intro _)
    | (with_reducible apply ite_keeps)
    | (with_reducible apply onOven_keeps)
    | split
    | dsimp only

theorem applyCurves_keeps (x : Sect) (s : State) (hk : Keeps fz s0 s) : Keeps fz s0 (applyCurves x s) := by
  unfold applyCurves
  repeat' first
    | (with_reducible assumption)
    | (intro _)
    | (with_reducible apply ite_keeps)
    | (with_reducible apply onOven_keeps)
    | split
    | dsimp only

theorem applyProgram_keeps (x : Sect) (s : State) (hk : Keeps fz s0 s) : Keeps fz s0 (applyProgram x s) := by
  unfold applyProgram
  repeat' first
    | (with_reducible assumption)
    | (intro _)
    | (with_reducible apply ite_keeps)
    | (with_reducible apply onOven_keeps)
    | (with_reducible apply State.fset_keeps)
    | split
    | dsimp only

theorem applyStarters_keeps (patch : Bool) (x : Sect) (s : State) (hk : Keeps fz s0 s) : Keeps fz s0 (applyStarters
    patch x s) := by
  unfold applyStarters
  repeat' first
    | (with_reducible assumption)
    | (intro _)
    | (with_reducible apply ite_keeps)
    | (with_reducible apply onOven_keeps)
    | (with_reducible apply rebaseWhole_keeps)
    | (with_reducible apply foldl_keeps)
    | split
    | dsimp only

theorem applySlicer_keeps (x : Sect) (s : State) (hk : Keeps fz s0 s) : Keeps fz s0 (applySlicer x s) := by
  unfold applySlicer
  repeat' first
    | (with_reducible assumption)
    | (intro _)
    | (with_reducible apply ite_keeps)
    | split
    | dsimp only
    | (fail_if_no_progress with_reducible refine Keeps.updMk ?_ rfl rfl rfl rfl rfl rfl rfl)

end Sys2Proof.Machine
end

