-- ==== Sys2Proof/Laws/KeepsSectVideo.lean ====
section
/-! SUPPORT. What the operations of Machine/SectVideo.lean keep (Laws/Keeps.lean). -/
namespace Sys2Proof.Machine

variable {fz : Bool} {s0 : State}

theorem applyStream_keeps (x : Sect) (s : State) (hk : Keeps fz s0 s) : Keeps fz s0 (applyStream x s) := by
  unfold applyStream
  repeat' first
    | (with_reducible assumption)
    | (intro _)
    | (with_reducible apply ite_keeps)
    | split
    | dsimp only
    | (fail_if_no_progress with_reducible refine Keeps.updMk ?_ rfl rfl rfl rfl rfl rfl rfl)

theorem applyTiming_keeps (x : Sect) (s : State) (hk : Keeps fz s0 s) : Keeps fz s0 (applyTiming x s) := by
  unfold applyTiming
  repeat' first
    | (with_reducible assumption)
    | (intro _)
    | (with_reducible apply ite_keeps)
    | (with_reducible apply foldl_keeps)
    | split
    | dsimp only
    | (fail_if_no_progress with_reducible refine Keeps.updMk ?_ rfl rfl rfl rfl rfl rfl rfl)

theorem applyVideo_keeps (x : Sect) (s : State) (hk : Keeps fz s0 s) : Keeps fz s0 (applyVideo x s) := by
  unfold applyVideo
  repeat' first
    | (with_reducible assumption)
    | (intro _)
    | (with_reducible apply ite_keeps)
    | (with_reducible apply State.fset_keeps)
    | (with_reducible apply foldl_keeps)
    | split
    | dsimp only
    | (fail_if_no_progress with_reducible refine Keeps.updMk ?_ rfl rfl rfl rfl rfl rfl rfl)

end Sys2Proof.Machine
end

