-- ==== Sys2Proof/Laws/KeepsSideband.lean ====
section
/-! SUPPORT. What the operations of Machine/Sideband.lean keep (Laws/Keeps.lean). -/
namespace Sys2Proof.Machine

variable {fz : Bool} {s0 : State}

theorem okAon_keeps {f : State → State} {s t : State} (e : okAon f s = .next t) (hf : Keeps true s (f s)) : Keeps
    true s t :=
  ok_keeps e (ite_keeps hf (Keeps.refl _ _))

theorem sbdEvent_keeps (s : State) (hk : Keeps fz s0 s) : Keeps fz s0 (sbdEvent s) := by
  unfold sbdEvent
  repeat' first
    | (with_reducible assumption)
    | (intro _)
    | (with_reducible apply ite_keeps)
    | (with_reducible apply advanceSeq_keeps)
    | split
    | dsimp only

theorem ibiEvt_keeps (s : State) (hk : Keeps fz s0 s) : Keeps fz s0 (ibiEvt s) := by
  unfold ibiEvt
  repeat' first
    | (with_reducible assumption)
    | (intro _)
    | (with_reducible apply ite_keeps)
    | (with_reducible apply State.out_keeps)
    | split
    | dsimp only
    | (fail_if_no_progress with_reducible refine Keeps.updMk ?_ rfl rfl rfl rfl rfl rfl rfl)

theorem ibiFrom_keeps (s : State) (hk : Keeps fz s0 s) : Keeps fz s0 (ibiFrom s) := by
  unfold ibiFrom
  repeat' first
    | (with_reducible assumption)
    | (intro _)
    | (with_reducible apply ite_keeps)
    | (with_reducible apply State.out_keeps)
    | split
    | dsimp only
    | (fail_if_no_progress with_reducible refine Keeps.updMk ?_ rfl rfl rfl rfl rfl rfl rfl)

theorem takeDa_keeps (addr : BitVec 7) (s : State) (hk : Keeps fz s0 s) : Keeps fz s0 (takeDa addr s) := by
  unfold takeDa
  repeat' first
    | (with_reducible assumption)
    | (intro _)
    | (with_reducible apply ite_keeps)
    | (with_reducible apply State.out_keeps)
    | (with_reducible apply State.fset_keeps)
    | split
    | dsimp only

theorem sbNack_keeps (s : State) (hk : Keeps fz s0 s) : Keeps fz s0 (sbNack s) := by
  unfold sbNack
  repeat' first
    | (with_reducible assumption)
    | (intro _)
    | (with_reducible apply ite_keeps)
    | (with_reducible apply State.out_keeps)
    | split
    | dsimp only

theorem sbReply_keeps (data : List Byte) (s : State) (hk : Keeps fz s0 s) : Keeps fz s0 (sbReply data s) := by
  unfold sbReply
  repeat' first
    | (with_reducible assumption)
    | (intro _)
    | (with_reducible apply ite_keeps)
    | (with_reducible apply State.out_keeps)
    | (with_reducible apply sbNack_keeps)
    | split
    | dsimp only

theorem execEntdaa_keeps (addr : BitVec 7) (s : State) {nx : State} (hn : execEntdaa addr s = .next nx) : Keeps true
    s nx := by
  unfold execEntdaa at hn
  have hk := Keeps.refl true s
  refine okAon_keeps hn ?_
  repeat' first
    | (with_reducible assumption)
    | (intro _)
    | (with_reducible apply ite_keeps)
    | (with_reducible apply takeDa_keeps)
    | (with_reducible apply sbNack_keeps)
    | split
    | dsimp only

theorem execSetdasa_keeps (sa addr : BitVec 7) (s : State) {nx : State} (hn : execSetdasa sa addr s = .next nx) :
    Keeps true s nx := by
  unfold execSetdasa at hn
  have hk := Keeps.refl true s
  refine okAon_keeps hn ?_
  repeat' first
    | (with_reducible assumption)
    | (intro _)
    | (with_reducible apply ite_keeps)
    | (with_reducible apply takeDa_keeps)
    | (with_reducible apply sbNack_keeps)
    | split
    | dsimp only

theorem execSetnewda_keeps (addr : BitVec 7) (s : State) {nx : State} (hn : execSetnewda addr s = .next nx) : Keeps
    true s nx := by
  unfold execSetnewda at hn
  have hk := Keeps.refl true s
  refine okAon_keeps hn ?_
  repeat' first
    | (with_reducible assumption)
    | (intro _)
    | (with_reducible apply ite_keeps)
    | (with_reducible apply sbNack_keeps)
    | (with_reducible apply takeDa_keeps)
    | split
    | dsimp only

theorem execRstdaa_keeps (s : State) {nx : State} (hn : execRstdaa s = .next nx) : Keeps true s nx := by
  unfold execRstdaa at hn
  have hk := Keeps.refl true s
  refine okAon_keeps hn ?_
  repeat' first
    | (with_reducible assumption)
    | (intro _)
    | (with_reducible apply ite_keeps)
    | (with_reducible apply State.out_keeps)
    | (with_reducible apply State.fset_keeps)
    | split
    | dsimp only

theorem execEnec_keeps (s : State) {nx : State} (hn : execEnec s = .next nx) : Keeps true s nx := by
  unfold execEnec at hn
  have hk := Keeps.refl true s
  refine okAon_keeps hn ?_
  repeat' first
    | (with_reducible assumption)
    | (intro _)
    | (with_reducible apply ite_keeps)
    | (with_reducible apply State.out_keeps)
    | (with_reducible apply State.fset_keeps)
    | split
    | dsimp only

theorem execDisec_keeps (s : State) {nx : State} (hn : execDisec s = .next nx) : Keeps true s nx := by
  unfold execDisec at hn
  have hk := Keeps.refl true s
  refine okAon_keeps hn ?_
  repeat' first
    | (with_reducible assumption)
    | (intro _)
    | (with_reducible apply ite_keeps)
    | (with_reducible apply State.out_keeps)
    | (with_reducible apply State.fset_keeps)
    | split
    | dsimp only
    | (fail_if_no_progress with_reducible refine Keeps.updMk ?_ rfl rfl rfl rfl rfl rfl rfl)

theorem execGetpid_keeps (s : State) {nx : State} (hn : execGetpid s = .next nx) : Keeps true s nx := by
  unfold execGetpid at hn
  have hk := Keeps.refl true s
  refine okAon_keeps hn ?_
  repeat' first
    | (with_reducible assumption)
    | (intro _)
    | (with_reducible apply ite_keeps)
    | (with_reducible apply sbReply_keeps)
    | split
    | dsimp only

theorem execGetbcr_keeps (s : State) {nx : State} (hn : execGetbcr s = .next nx) : Keeps true s nx := by
  unfold execGetbcr at hn
  have hk := Keeps.refl true s
  refine okAon_keeps hn ?_
  repeat' first
    | (with_reducible assumption)
    | (intro _)
    | (with_reducible apply ite_keeps)
    | (with_reducible apply sbReply_keeps)
    | split
    | dsimp only

theorem execGetdcr_keeps (s : State) {nx : State} (hn : execGetdcr s = .next nx) : Keeps true s nx := by
  unfold execGetdcr at hn
  have hk := Keeps.refl true s
  refine okAon_keeps hn ?_
  repeat' first
    | (with_reducible assumption)
    | (intro _)
    | (with_reducible apply ite_keeps)
    | (with_reducible apply sbReply_keeps)
    | split
    | dsimp only

theorem execGetstatus_keeps (s : State) {nx : State} (hn : execGetstatus s = .next nx) : Keeps true s nx := by
  unfold execGetstatus at hn
  have hk := Keeps.refl true s
  refine okAon_keeps hn ?_
  repeat' first
    | (with_reducible assumption)
    | (intro _)
    | (with_reducible apply ite_keeps)
    | (with_reducible apply State.free_keeps)
    | (with_reducible refine State.free_keeps' (by assumption) ?_)
    | (with_reducible apply sbReply_keeps)
    | split
    | dsimp only

theorem execGetmwl_keeps (s : State) {nx : State} (hn : execGetmwl s = .next nx) : Keeps true s nx := by
  unfold execGetmwl at hn
  have hk := Keeps.refl true s
  refine okAon_keeps hn ?_
  repeat' first
    | (with_reducible assumption)
    | (intro _)
    | (with_reducible apply ite_keeps)
    | (with_reducible apply sbReply_keeps)
    | split
    | dsimp only

theorem execGetmrl_keeps (s : State) {nx : State} (hn : execGetmrl s = .next nx) : Keeps true s nx := by
  unfold execGetmrl at hn
  have hk := Keeps.refl true s
  refine okAon_keeps hn ?_
  repeat' first
    | (with_reducible assumption)
    | (intro _)
    | (with_reducible apply ite_keeps)
    | (with_reducible apply sbReply_keeps)
    | split
    | dsimp only

theorem execSetmwl_keeps (n : BitVec 16) (s : State) {nx : State} (hn : execSetmwl n s = .next nx) : Keeps true s nx
    := by
  unfold execSetmwl at hn
  have hk := Keeps.refl true s
  refine okAon_keeps hn ?_
  repeat' first
    | (with_reducible assumption)
    | (intro _)
    | (with_reducible apply ite_keeps)
    | (with_reducible apply State.out_keeps)
    | split
    | dsimp only
    | (fail_if_no_progress with_reducible refine Keeps.updMk ?_ rfl rfl rfl rfl rfl rfl rfl)

theorem execSetmrl_keeps (n : BitVec 16) (s : State) {nx : State} (hn : execSetmrl n s = .next nx) : Keeps true s nx
    := by
  unfold execSetmrl at hn
  have hk := Keeps.refl true s
  refine okAon_keeps hn ?_
  repeat' first
    | (with_reducible assumption)
    | (intro _)
    | (with_reducible apply ite_keeps)
    | (with_reducible apply State.out_keeps)
    | split
    | dsimp only
    | (fail_if_no_progress with_reducible refine Keeps.updMk ?_ rfl rfl rfl rfl rfl rfl rfl)

theorem execSbTrig_keeps (proc : Fin 64) (arg : BitVec 16) (s : State) {nx : State} (hn : execSbTrig proc arg s =
    .next nx) : Keeps true s nx := by
  unfold execSbTrig at hn
  have hk := Keeps.refl true s
  refine okAon_keeps hn ?_
  repeat' first
    | (with_reducible assumption)
    | (intro _)
    | (with_reducible apply ite_keeps)
    | (with_reducible apply startRequest_keeps)
    | (with_reducible apply State.fsat_keeps)
    | split
    | dsimp only

theorem execSbTohost_keeps (msg : Word) (s : State) {nx : State} (hn : execSbTohost msg s = .next nx) : Keeps true s
    nx := by
  unfold execSbTohost at hn
  have hk := Keeps.refl true s
  refine okAon_keeps hn ?_
  repeat' first
    | (with_reducible assumption)
    | (intro _)
    | (with_reducible apply ite_keeps)
    | (with_reducible apply sbdEvent_keeps)
    | (with_reducible apply State.fadd_keeps)
    | (with_reducible apply State.setReg_keeps)
    | split
    | dsimp only

theorem actTosb_keeps (msg : Word) (s : State) (hk : Keeps fz s0 s) : Keeps fz s0 (actTosb msg s) := by
  unfold actTosb
  repeat' first
    | (with_reducible assumption)
    | (intro _)
    | (with_reducible apply ite_keeps)
    | (with_reducible apply ibiFrom_keeps)
    | (with_reducible apply State.fadd_keeps)
    | split
    | dsimp only
    | (fail_if_no_progress with_reducible refine Keeps.updMk ?_ rfl rfl rfl rfl rfl rfl rfl)

theorem execSbTosb_keeps (f : HostFn) (msg : Word) (s : State) {nx : State} (hn : execSbTosb f msg s = .next nx) :
    Keeps true s nx := by
  unfold execSbTosb at hn
  have hk := Keeps.refl true s
  refine ok_keeps hn ?_
  repeat' first
    | (with_reducible assumption)
    | (intro _)
    | (with_reducible apply ite_keeps)
    | (with_reducible apply hostWrite_keeps)
    | (with_reducible apply actTosb_keeps)
    | split
    | dsimp only

theorem execIbiRetry_keeps (accepted : Bool) (s : State) {nx : State} (hn : execIbiRetry accepted s = .next nx) :
    Keeps true s nx := by
  unfold execIbiRetry at hn
  have hk := Keeps.refl true s
  refine okAon_keeps hn ?_
  repeat' first
    | (with_reducible assumption)
    | (intro _)
    | (with_reducible apply ite_keeps)
    | (with_reducible apply State.out_keeps)
    | split
    | dsimp only
    | (fail_if_no_progress with_reducible refine Keeps.updMk ?_ rfl rfl rfl rfl rfl rfl rfl)

theorem actSpiGo_keeps (len seq : Nat) (s : State) (hk : Keeps fz s0 s) : Keeps fz s0 (actSpiGo len seq s) := by
  unfold actSpiGo
  repeat' first
    | (with_reducible assumption)
    | (intro _)
    | (with_reducible apply ite_keeps)
    | (with_reducible apply State.fsat_keeps)
    | (with_reducible apply State.out_keeps)
    | split
    | dsimp only
    | (fail_if_no_progress with_reducible refine Keeps.updMk ?_ rfl rfl rfl rfl rfl rfl rfl)

theorem execSpiGo_keeps (f : HostFn) (len : BitVec 9) (seq : BitVec 16) (s : State) {nx : State} (hn : execSpiGo f
    len seq s = .next nx) : Keeps true s nx := by
  unfold execSpiGo at hn
  have hk := Keeps.refl true s
  refine ok_keeps hn ?_
  repeat' first
    | (with_reducible assumption)
    | (intro _)
    | (with_reducible apply ite_keeps)
    | (with_reducible apply hostWrite_keeps)
    | (with_reducible apply actSpiGo_keeps)
    | split
    | dsimp only

theorem putSpiBytes_keeps (data : List Byte) (s : State) (hk : Keeps fz s0 s) : Keeps fz s0 (putSpiBytes data s) :=
    by
  unfold putSpiBytes
  repeat' first
    | (with_reducible assumption)
    | (intro _)
    | (with_reducible apply ite_keeps)
    | (with_reducible apply State.setReg_keeps)
    | (with_reducible apply foldl_keeps)
    | split
    | dsimp only

theorem execSpiPassthroughDone_keeps (data : List Byte) (s : State) {nx : State} (hn : execSpiPassthroughDone data s
    = .next nx) : Keeps true s nx := by
  unfold execSpiPassthroughDone at hn
  have hk := Keeps.refl true s
  refine okAon_keeps hn ?_
  repeat' first
    | (with_reducible assumption)
    | (intro _)
    | (with_reducible apply ite_keeps)
    | (with_reducible apply putSpiBytes_keeps)
    | (with_reducible apply sbdEvent_keeps)
    | (with_reducible apply State.fset_keeps)
    | split
    | dsimp only
    | (fail_if_no_progress with_reducible refine Keeps.updMk ?_ rfl rfl rfl rfl rfl rfl rfl)

theorem gpioChanged_keeps (old : Nat) (s : State) (hk : Keeps fz s0 s) : Keeps fz s0 (gpioChanged old s) := by
  unfold gpioChanged
  repeat' first
    | (with_reducible assumption)
    | (intro _)
    | (with_reducible apply ite_keeps)
    | (with_reducible apply foldl_keeps)
    | split
    | dsimp only
    | (fail_if_no_progress with_reducible refine Keeps.updMk ?_ rfl rfl rfl rfl rfl rfl rfl)

theorem gpioUpdate_keeps (g : State → State) (s : State) (hg : ∀ (s : State), Keeps fz s0 s → Keeps fz s0 (g s)) (hk
    : Keeps fz s0 s) : Keeps fz s0 (gpioUpdate g s) := by
  unfold gpioUpdate
  repeat' first
    | (with_reducible assumption)
    | (intro _)
    | (with_reducible apply ite_keeps)
    | (apply hg)
    | (with_reducible apply gpioChanged_keeps)
    | split
    | dsimp only

theorem actGpioSet_keeps (b : Nat) (s : State) (hk : Keeps fz s0 s) : Keeps fz s0 (actGpioSet b s) := by
  unfold actGpioSet
  repeat' first
    | (with_reducible assumption)
    | (intro _)
    | (with_reducible apply ite_keeps)
    | (with_reducible apply gpioUpdate_keeps)
    | (with_reducible apply State.fset_keeps)
    | split
    | dsimp only

theorem actGpioClr_keeps (b : Nat) (s : State) (hk : Keeps fz s0 s) : Keeps fz s0 (actGpioClr b s) := by
  unfold actGpioClr
  repeat' first
    | (with_reducible assumption)
    | (intro _)
    | (with_reducible apply ite_keeps)
    | (with_reducible apply gpioUpdate_keeps)
    | (with_reducible apply State.fset_keeps)
    | split
    | dsimp only

theorem execGpioSet_keeps (f : HostFn) (bits : BitVec 16) (s : State) {nx : State} (hn : execGpioSet f bits s =
    .next nx) : Keeps true s nx := by
  unfold execGpioSet at hn
  have hk := Keeps.refl true s
  refine ok_keeps hn ?_
  repeat' first
    | (with_reducible assumption)
    | (intro _)
    | (with_reducible apply ite_keeps)
    | (with_reducible apply hostWrite_keeps)
    | (with_reducible apply actGpioSet_keeps)
    | split
    | dsimp only

theorem execGpioClr_keeps (f : HostFn) (bits : BitVec 16) (s : State) {nx : State} (hn : execGpioClr f bits s =
    .next nx) : Keeps true s nx := by
  unfold execGpioClr at hn
  have hk := Keeps.refl true s
  refine ok_keeps hn ?_
  repeat' first
    | (with_reducible assumption)
    | (intro _)
    | (with_reducible apply ite_keeps)
    | (with_reducible apply hostWrite_keeps)
    | (with_reducible apply actGpioClr_keeps)
    | split
    | dsimp only

theorem execGpioEdge_keeps (i : Fin 16) (s : State) {nx : State} (hn : execGpioEdge i s = .next nx) : Keeps true s
    nx := by
  unfold execGpioEdge at hn
  have hk := Keeps.refl true s
  refine okAon_keeps hn ?_
  repeat' first
    | (with_reducible assumption)
    | (intro _)
    | (with_reducible apply ite_keeps)
    | (with_reducible apply sbdEvent_keeps)
    | (with_reducible apply State.fset_keeps)
    | split
    | dsimp only
    | (fail_if_no_progress with_reducible refine Keeps.updMk ?_ rfl rfl rfl rfl rfl rfl rfl)

theorem actSbdEvtAck_keeps (v : Word) (s : State) (hk : Keeps fz s0 s) : Keeps fz s0 (actSbdEvtAck v s) := by
  unfold actSbdEvtAck
  repeat' first
    | (with_reducible assumption)
    | (intro _)
    | (with_reducible apply ite_keeps)
    | (with_reducible apply State.setReg_keeps)
    | split
    | dsimp only

theorem execSbdEvtAck_keeps (f : HostFn) (seq : Word) (s : State) {nx : State} (hn : execSbdEvtAck f seq s = .next
    nx) : Keeps true s nx := by
  unfold execSbdEvtAck at hn
  have hk := Keeps.refl true s
  refine ok_keeps hn ?_
  repeat' first
    | (with_reducible assumption)
    | (intro _)
    | (with_reducible apply ite_keeps)
    | (with_reducible apply hostWrite_keeps)
    | (with_reducible apply actSbdEvtAck_keeps)
    | split
    | dsimp only

theorem execGpioInputChange_keeps (i : Fin 16) (level : Bool) (s : State) {nx : State} (hn : execGpioInputChange i
    level s = .next nx) : Keeps true s nx := by
  unfold execGpioInputChange at hn
  have hk := Keeps.refl true s
  refine ok_keeps hn ?_
  repeat' first
    | (with_reducible assumption)
    | (intro _)
    | (with_reducible apply ite_keeps)
    | (with_reducible apply gpioUpdate_keeps)
    | split
    | dsimp only
    | (fail_if_no_progress with_reducible refine Keeps.updMk ?_ rfl rfl rfl rfl rfl rfl rfl)

theorem setTap_keeps (t : TapInstr) (s : State) (hk : Keeps fz s0 s) : Keeps fz s0 (setTap t s) := by
  unfold setTap
  repeat' first
    | (with_reducible assumption)
    | (intro _)
    | (with_reducible apply ite_keeps)
    | split
    | dsimp only
    | (fail_if_no_progress with_reducible refine Keeps.updMk ?_ rfl rfl rfl rfl rfl rfl rfl)

theorem execTapBypass_keeps (s : State) {nx : State} (hn : execTapBypass s = .next nx) : Keeps true s nx := by
  unfold execTapBypass at hn
  have hk := Keeps.refl true s
  refine okAon_keeps hn ?_
  repeat' first
    | (with_reducible assumption)
    | (intro _)
    | (with_reducible apply ite_keeps)
    | (with_reducible apply State.out_keeps)
    | (with_reducible apply setTap_keeps)
    | split
    | dsimp only

theorem execTapIdcode_keeps (s : State) {nx : State} (hn : execTapIdcode s = .next nx) : Keeps true s nx := by
  unfold execTapIdcode at hn
  have hk := Keeps.refl true s
  refine okAon_keeps hn ?_
  repeat' first
    | (with_reducible assumption)
    | (intro _)
    | (with_reducible apply ite_keeps)
    | (with_reducible apply State.out_keeps)
    | (with_reducible apply setTap_keeps)
    | split
    | dsimp only

theorem execTapSamplePreload_keeps (preload : List Bool) (s : State) {nx : State} (hn : execTapSamplePreload preload
    s = .next nx) : Keeps true s nx := by
  unfold execTapSamplePreload at hn
  have hk := Keeps.refl true s
  refine okAon_keeps hn ?_
  repeat' first
    | (with_reducible assumption)
    | (intro _)
    | (with_reducible apply ite_keeps)
    | (with_reducible apply setTap_keeps)
    | split
    | dsimp only
    | (fail_if_no_progress with_reducible refine Keeps.updMk ?_ rfl rfl rfl rfl rfl rfl rfl)

theorem execTapExtest_keeps (preload : List Bool) (s : State) {nx : State} (hn : execTapExtest preload s = .next nx)
    : Keeps true s nx := by
  unfold execTapExtest at hn
  have hk := Keeps.refl true s
  refine okAon_keeps hn ?_
  repeat' first
    | (with_reducible assumption)
    | (intro _)
    | (with_reducible apply ite_keeps)
    | (with_reducible apply setTap_keeps)
    | split
    | dsimp only
    | (fail_if_no_progress with_reducible refine Keeps.updMk ?_ rfl rfl rfl rfl rfl rfl rfl)

theorem execTapClamp_keeps (s : State) {nx : State} (hn : execTapClamp s = .next nx) : Keeps true s nx := by
  unfold execTapClamp at hn
  have hk := Keeps.refl true s
  refine okAon_keeps hn ?_
  repeat' first
    | (with_reducible assumption)
    | (intro _)
    | (with_reducible apply ite_keeps)
    | (with_reducible apply State.out_keeps)
    | (with_reducible apply setTap_keeps)
    | split
    | dsimp only

theorem execTapHighz_keeps (s : State) {nx : State} (hn : execTapHighz s = .next nx) : Keeps true s nx := by
  unfold execTapHighz at hn
  have hk := Keeps.refl true s
  refine okAon_keeps hn ?_
  repeat' first
    | (with_reducible assumption)
    | (intro _)
    | (with_reducible apply ite_keeps)
    | (with_reducible apply State.out_keeps)
    | (with_reducible apply setTap_keeps)
    | split
    | dsimp only

theorem execTapReset_keeps (s : State) {nx : State} (hn : execTapReset s = .next nx) : Keeps true s nx := by
  unfold execTapReset at hn
  have hk := Keeps.refl true s
  refine okAon_keeps hn ?_
  repeat' first
    | (with_reducible assumption)
    | (intro _)
    | (with_reducible apply ite_keeps)
    | (with_reducible apply setTap_keeps)
    | split
    | dsimp only

end Sys2Proof.Machine
end

