-- ==== Sys2Proof/Laws/KeepsStops.lean ====
section
/-! SUPPORT. What the operations of Machine/Stops.lean keep (Laws/Keeps.lean). -/
namespace Sys2Proof.Machine

variable {fz : Bool} {s0 : State}

theorem ovenLeaves_keeps (id n : Nat) (s : State) (hk : Keeps fz s0 s) : Keeps fz s0 (ovenLeaves id n s) := by
  unfold ovenLeaves
  repeat' first
    | (with_reducible assumption)
    | (intro _)
    | (with_reducible apply ite_keeps)
    | (with_reducible apply onOven_keeps)
    | split
    | dsimp only
    | (fail_if_no_progress with_reducible refine Keeps.updMk ?_ rfl rfl rfl rfl rfl rfl rfl)

theorem ovensLeave_keeps (id : Nat) (s : State) (hk : Keeps fz s0 s) : Keeps fz s0 (ovensLeave id s) := by
  unfold ovensLeave
  repeat' first
    | (with_reducible assumption)
    | (intro _)
    | (with_reducible apply ite_keeps)
    | (with_reducible apply ovenLeaves_keeps)
    | (with_reducible apply foldl_keeps)
    | split
    | dsimp only

theorem killJob_keeps (j : Job) (s : State) (hk : Keeps fz s0 s) : Keeps fz s0 (killJob j s) := by
  unfold killJob
  repeat' first
    | (with_reducible assumption)
    | (intro _)
    | (with_reducible apply ite_keeps)
    | (with_reducible apply ovensLeave_keeps)
    | (with_reducible apply onSJob_keeps)
    | (with_reducible apply dropJob_keeps)
    | split
    | dsimp only
    | (fail_if_no_progress with_reducible refine Keeps.updMk ?_ rfl rfl rfl rfl rfl rfl rfl)

theorem stopJob_keeps (j : Job) (o d : Nat) (s : State) (hk : Keeps fz s0 s) : Keeps fz s0 (stopJob j o d s) := by
  unfold stopJob
  repeat' first
    | (with_reducible assumption)
    | (intro _)
    | (with_reducible apply ite_keeps)
    | (with_reducible apply completeJob_keeps)
    | (with_reducible apply onJob_keeps)
    | (with_reducible apply ovensLeave_keeps)
    | split
    | dsimp only

theorem resetCtx_keeps (c : Nat) (s : State) (hk : Keeps fz s0 s) : Keeps fz s0 (resetCtx c s) := by
  unfold resetCtx
  repeat' first
    | (with_reducible assumption)
    | (intro _)
    | (with_reducible apply ite_keeps)
    | (with_reducible apply State.setReg_keeps)
    | (with_reducible apply State.resetRegs_keeps)
    | split
    | dsimp only
    | (fail_if_no_progress with_reducible refine Keeps.updMk ?_ rfl rfl rfl rfl rfl rfl rfl)

theorem resetMailbox_keeps (m : Nat) (s : State) (hk : Keeps fz s0 s) : Keeps fz s0 (resetMailbox m s) := by
  unfold resetMailbox
  repeat' first
    | (with_reducible assumption)
    | (intro _)
    | (with_reducible apply ite_keeps)
    | (with_reducible apply State.resetRegs_keeps)
    | split
    | dsimp only

theorem resetContexts_keeps (f : HostFn) (s : State) (hk : Keeps fz s0 s) : Keeps fz s0 (resetContexts f s) := by
  unfold resetContexts
  repeat' first
    | (with_reducible assumption)
    | (intro _)
    | (with_reducible apply ite_keeps)
    | (with_reducible apply killJob_keeps)
    | (with_reducible apply resetCtx_keeps)
    | (with_reducible apply resetMailbox_keeps)
    | (with_reducible apply proceedAll_keeps)
    | (with_reducible apply foldl_keeps)
    | split
    | dsimp only

end Sys2Proof.Machine
end

