-- ==== Sys2Proof/Laws/KeepsStreams.lean ====
section
/-! SUPPORT. What the operations of Machine/Streams.lean keep (Laws/Keeps.lean). -/
namespace Sys2Proof.Machine

variable {fz : Bool} {s0 : State}

theorem onGen_keeps (g : Nat) (h : Gen → Gen) (s : State) (hk : Keeps fz s0 s) : Keeps fz s0 (onGen g h s) := by
  unfold onGen
  repeat' first
    | (with_reducible assumption)
    | (intro _)
    | (with_reducible apply ite_keeps)
    | split
    | dsimp only
    | (fail_if_no_progress with_reducible refine Keeps.updMk ?_ rfl rfl rfl rfl rfl rfl rfl)

theorem endWaiting_keeps (k : Nat) (s : State) (hk : Keeps fz s0 s) : Keeps fz s0 (endWaiting k s) := by
  unfold endWaiting
  repeat' first
    | (with_reducible assumption)
    | (intro _)
    | (with_reducible apply ite_keeps)
    | (with_reducible apply State.fset_keeps)
    | (with_reducible apply foldl_keeps)
    | split
    | dsimp only
    | (fail_if_no_progress with_reducible refine Keeps.updMk ?_ rfl rfl rfl rfl rfl rfl rfl)

theorem actOtgStart_keeps (k : Nat) (s : State) (hk : Keeps fz s0 s) : Keeps fz s0 (actOtgStart k s) := by
  unfold actOtgStart
  repeat' first
    | (with_reducible assumption)
    | (intro _)
    | (with_reducible apply ite_keeps)
    | (with_reducible apply endWaiting_keeps)
    | (with_reducible apply onGen_keeps)
    | split
    | dsimp only
    | (fail_if_no_progress with_reducible refine Keeps.updMk ?_ rfl rfl rfl rfl rfl rfl rfl)

theorem actOtgStop_keeps (k : Nat) (s : State) (hk : Keeps fz s0 s) : Keeps fz s0 (actOtgStop k s) := by
  unfold actOtgStop
  repeat' first
    | (with_reducible assumption)
    | (intro _)
    | (with_reducible apply ite_keeps)
    | (with_reducible apply endWaiting_keeps)
    | (with_reducible apply onGen_keeps)
    | split
    | dsimp only

theorem execOtgStart_keeps (f : HostFn) (g : Fin 4) (s : State) {nx : State} (hn : execOtgStart f g s = .next nx) :
    Keeps true s nx := by
  unfold execOtgStart at hn
  have hk := Keeps.refl true s
  refine ok_keeps hn ?_
  repeat' first
    | (with_reducible assumption)
    | (intro _)
    | (with_reducible apply ite_keeps)
    | (with_reducible apply hostWrite_keeps)
    | (with_reducible apply actOtgStart_keeps)
    | split
    | dsimp only

theorem execOtgStop_keeps (f : HostFn) (g : Fin 4) (s : State) {nx : State} (hn : execOtgStop f g s = .next nx) :
    Keeps true s nx := by
  unfold execOtgStop at hn
  have hk := Keeps.refl true s
  refine ok_keeps hn ?_
  repeat' first
    | (with_reducible assumption)
    | (intro _)
    | (with_reducible apply ite_keeps)
    | (with_reducible apply hostWrite_keeps)
    | (with_reducible apply actOtgStop_keeps)
    | split
    | dsimp only

theorem actOtgMode_keeps (k m : Nat) (s : State) (hk : Keeps fz s0 s) : Keeps fz s0 (actOtgMode k m s) := by
  unfold actOtgMode
  repeat' first
    | (with_reducible assumption)
    | (intro _)
    | (with_reducible apply ite_keeps)
    | (with_reducible apply State.fset_keeps)
    | split
    | dsimp only

theorem actOtgAt_keeps (k : Nat) (v : Word) (s : State) (hk : Keeps fz s0 s) : Keeps fz s0 (actOtgAt k v s) := by
  unfold actOtgAt
  repeat' first
    | (with_reducible assumption)
    | (intro _)
    | (with_reducible apply ite_keeps)
    | (with_reducible apply State.setReg_keeps)
    | (with_reducible apply onGen_keeps)
    | split
    | dsimp only

theorem execOtgAtWrite_keeps (f : HostFn) (g : Fin 4) (at_ : Word) (s : State) {nx : State} (hn : execOtgAtWrite f g
    at_ s = .next nx) : Keeps true s nx := by
  unfold execOtgAtWrite at hn
  have hk := Keeps.refl true s
  refine ok_keeps hn ?_
  repeat' first
    | (with_reducible assumption)
    | (intro _)
    | (with_reducible apply ite_keeps)
    | (with_reducible apply hostWrite_keeps)
    | (with_reducible apply actOtgAt_keeps)
    | split
    | dsimp only

theorem actStrEnable_keeps (k : Nat) (s : State) (hk : Keeps fz s0 s) : Keeps fz s0 (actStrEnable k s) := by
  unfold actStrEnable
  repeat' first
    | (with_reducible assumption)
    | (intro _)
    | (with_reducible apply ite_keeps)
    | (with_reducible apply onChan_keeps)
    | split
    | dsimp only

theorem actStrStop_keeps (k : Nat) (s : State) (hk : Keeps fz s0 s) : Keeps fz s0 (actStrStop k s) := by
  unfold actStrStop
  repeat' first
    | (with_reducible assumption)
    | (intro _)
    | (with_reducible apply ite_keeps)
    | (with_reducible apply onChan_keeps)
    | split
    | dsimp only

theorem execStreamEnable_keeps (f : HostFn) (k : Fin 16) (s : State) {nx : State} (hn : execStreamEnable f k s =
    .next nx) : Keeps true s nx := by
  unfold execStreamEnable at hn
  have hk := Keeps.refl true s
  refine ok_keeps hn ?_
  repeat' first
    | (with_reducible assumption)
    | (intro _)
    | (with_reducible apply ite_keeps)
    | (with_reducible apply hostWrite_keeps)
    | (with_reducible apply actStrEnable_keeps)
    | split
    | dsimp only

theorem execStreamStop_keeps (f : HostFn) (k : Fin 16) (s : State) {nx : State} (hn : execStreamStop f k s = .next
    nx) : Keeps true s nx := by
  unfold execStreamStop at hn
  have hk := Keeps.refl true s
  refine ok_keeps hn ?_
  repeat' first
    | (with_reducible assumption)
    | (intro _)
    | (with_reducible apply ite_keeps)
    | (with_reducible apply hostWrite_keeps)
    | (with_reducible apply actStrStop_keeps)
    | split
    | dsimp only

theorem actStrTrig_keeps (k : Nat) (arg : Word) (s : State) (hk : Keeps fz s0 s) : Keeps fz s0 (actStrTrig k arg s)
    := by
  unfold actStrTrig
  repeat' first
    | (with_reducible assumption)
    | (intro _)
    | (with_reducible apply ite_keeps)
    | (with_reducible apply arriveTrigger_keeps)
    | split
    | dsimp only

theorem execHostTrigger_keeps (f : HostFn) (k : Fin 16) (arg : Word) (s : State) {nx : State} (hn : execHostTrigger
    f k arg s = .next nx) : Keeps true s nx := by
  unfold execHostTrigger at hn
  have hk := Keeps.refl true s
  refine ok_keeps hn ?_
  repeat' first
    | (with_reducible assumption)
    | (intro _)
    | (with_reducible apply ite_keeps)
    | (with_reducible apply hostWrite_keeps)
    | (with_reducible apply actStrTrig_keeps)
    | split
    | dsimp only

theorem actStrSignal_keeps (k : Nat) (v : Word) (s : State) (hk : Keeps fz s0 s) : Keeps fz s0 (actStrSignal k v s)
    := by
  unfold actStrSignal
  repeat' first
    | (with_reducible assumption)
    | (intro _)
    | (with_reducible apply ite_keeps)
    | (with_reducible apply raiseStr_keeps)
    | (with_reducible apply onChan_keeps)
    | split
    | dsimp only

theorem execStreamSignal_keeps (f : HostFn) (k : Fin 16) (val : Word) (s : State) {nx : State} (hn :
    execStreamSignal f k val s = .next nx) : Keeps true s nx := by
  unfold execStreamSignal at hn
  have hk := Keeps.refl true s
  refine ok_keeps hn ?_
  repeat' first
    | (with_reducible assumption)
    | (intro _)
    | (with_reducible apply ite_keeps)
    | (with_reducible apply hostWrite_keeps)
    | (with_reducible apply actStrSignal_keeps)
    | split
    | dsimp only

theorem issueJob_keeps (k : Nat) (locals : List Word) (arg : Word) (s : State) (hk : Keeps fz s0 s) : Keeps fz s0
    (issueJob k locals arg s) := by
  unfold issueJob
  repeat' first
    | (with_reducible assumption)
    | (intro _)
    | (with_reducible apply ite_keeps)
    | (with_reducible apply State.fadd_keeps)
    | (with_reducible apply onChan_keeps)
    | (with_reducible apply submitJob_keeps)
    | split
    | dsimp only

theorem strEmit_keeps (k : Nat) (locals : List Word) (dst : Nat) (arg : Word) (s : State) (hk : Keeps fz s0 s) :
    Keeps fz s0 (strEmit k locals dst arg s) := by
  unfold strEmit
  repeat' first
    | (with_reducible assumption)
    | (intro _)
    | (with_reducible apply ite_keeps)
    | (with_reducible apply issueJob_keeps)
    | (with_reducible apply readyChan_keeps)
    | (with_reducible apply onChan_keeps)
    | (with_reducible apply strEvent_keeps)
    | (with_reducible apply State.setReg_keeps)
    | split
    | dsimp only

theorem ticketAck_keeps (k : Nat) (err : List MemErr) (e : ExtReply) (s : State) (hk : Keeps fz s0 s) : Keeps fz s0
    (ticketAck k err e s) := by
  unfold ticketAck
  repeat' first
    | (with_reducible assumption)
    | (intro _)
    | (with_reducible apply ite_keeps)
    | (with_reducible apply writeBytes_keeps)
    | (with_reducible refine writeBytes_keeps' (by assumption) ?_)
    | (with_reducible apply onJob_keeps)
    | (with_reducible apply noteAccess_keeps)
    | (with_reducible apply completeJob_keeps)
    | split
    | dsimp only

theorem execTicketAck_keeps (k : Fin 16) (err : List MemErr) (e : ExtReply) (s : State) {nx : State} (hn :
    execTicketAck k err e s = .next nx) : Keeps true s nx := by
  unfold execTicketAck at hn
  have hk := Keeps.refl true s
  refine ok_keeps hn ?_
  repeat' first
    | (with_reducible assumption)
    | (intro _)
    | (with_reducible apply ite_keeps)
    | (with_reducible apply ticketAck_keeps)
    | split
    | dsimp only

theorem missChan_keeps (k : Nat) (c : SChan) (x : SJob) (t : Nat) (s : State) (hk : Keeps fz s0 s) : Keeps fz s0
    (missChan k c x t s) := by
  unfold missChan
  repeat' first
    | (with_reducible assumption)
    | (intro _)
    | (with_reducible apply ite_keeps)
    | (with_reducible apply State.setPair_keeps)
    | (with_reducible apply State.fadd_keeps)
    | (with_reducible apply strEvent_keeps)
    | (with_reducible apply raiseStr_keeps)
    | (with_reducible apply onChan_keeps)
    | (with_reducible apply onSJob_keeps)
    | (with_reducible apply onJobs_keeps)
    | split
    | dsimp only

theorem judgeChan_keeps (k t : Nat) (s : State) (hk : Keeps fz s0 s) : Keeps fz s0 (judgeChan k t s) := by
  unfold judgeChan
  repeat' first
    | (with_reducible assumption)
    | (intro _)
    | (with_reducible apply ite_keeps)
    | (with_reducible apply missChan_keeps)
    | (with_reducible apply onChan_keeps)
    | (with_reducible apply foldl_keeps)
    | split
    | dsimp only

theorem presentChan_keeps (k t : Nat) (s : State) (hk : Keeps fz s0 s) : Keeps fz s0 (presentChan k t s) := by
  unfold presentChan
  repeat' first
    | (with_reducible assumption)
    | (intro _)
    | (with_reducible apply ite_keeps)
    | (with_reducible apply onChan_keeps)
    | (with_reducible apply State.setReg_keeps)
    | split
    | dsimp only

theorem tickMember_keeps (t : Nat) (e : Nat × SChan) (s : State) (hk : Keeps fz s0 s) : Keeps fz s0 (tickMember t e
    s) := by
  unfold tickMember
  repeat' first
    | (with_reducible assumption)
    | (intro _)
    | (with_reducible apply ite_keeps)
    | (with_reducible apply raiseStr_keeps)
    | (with_reducible apply onChan_keeps)
    | (with_reducible apply State.setPair_keeps)
    | (with_reducible apply State.fadd_keeps)
    | (with_reducible apply strEvent_keeps)
    | split
    | dsimp only

theorem groupSlot_keeps (q : Nat) (r : SGroup) (frame t : Nat) (s : State) (hk : Keeps fz s0 s) : Keeps fz s0
    (groupSlot q r frame t s) := by
  unfold groupSlot
  repeat' first
    | (with_reducible assumption)
    | (intro _)
    | (with_reducible apply ite_keeps)
    | (with_reducible apply State.fset_keeps)
    | (with_reducible apply tickMember_keeps)
    | (with_reducible apply State.fadd_keeps)
    | (with_reducible apply foldl_keeps)
    | split
    | dsimp only
    | (fail_if_no_progress with_reducible refine Keeps.updMk ?_ rfl rfl rfl rfl rfl rfl rfl)

theorem frameStart_keeps (k : Nat) (s : State) (hk : Keeps fz s0 s) : Keeps fz s0 (frameStart k s) := by
  unfold frameStart
  repeat' first
    | (with_reducible assumption)
    | (intro _)
    | (with_reducible apply ite_keeps)
    | (with_reducible apply onGen_keeps)
    | (with_reducible apply State.setPair_keeps)
    | (with_reducible apply State.setReg_keeps)
    | (with_reducible apply presentChan_keeps)
    | (with_reducible apply judgeChan_keeps)
    | (with_reducible apply raiseStr_keeps)
    | (with_reducible apply groupSlot_keeps)
    | (with_reducible apply foldl_keeps)
    | split
    | dsimp only

end Sys2Proof.Machine
end

