-- ==== Sys2Proof/Laws/KeepsVideoOut.lean ====
section
/-! SUPPORT. What the operations of Machine/VideoOut.lean keep (Laws/Keeps.lean). -/
namespace Sys2Proof.Machine

variable {fz : Bool} {s0 : State}

theorem voutEvent_keeps (s : State) (hk : Keeps fz s0 s) : Keeps fz s0 (voutEvent s) := by
  unfold voutEvent
  repeat' first
    | (with_reducible assumption)
    | (intro _)
    | (with_reducible apply ite_keeps)
    | (with_reducible apply advanceSeq_keeps)
    | split
    | dsimp only

theorem setTxLink_keeps (g v : Nat) (s : State) (hk : Keeps fz s0 s) : Keeps fz s0 (setTxLink g v s) := by
  unfold setTxLink
  repeat' first
    | (with_reducible assumption)
    | (intro _)
    | (with_reducible apply ite_keeps)
    | (with_reducible apply State.fset_keeps)
    | split
    | dsimp only

theorem portBegin_keeps (g : Nat) (s : State) (hk : Keeps fz s0 s) : Keeps fz s0 (portBegin g s) := by
  unfold portBegin
  repeat' first
    | (with_reducible assumption)
    | (intro _)
    | (with_reducible apply ite_keeps)
    | (with_reducible apply setTxLink_keeps)
    | split
    | dsimp only
    | (fail_if_no_progress with_reducible refine Keeps.updMk ?_ rfl rfl rfl rfl rfl rfl rfl)

theorem auxSend_keeps (s : State) (hk : Keeps fz s0 s) : Keeps fz s0 (auxSend s) := by
  unfold auxSend
  repeat' first
    | (with_reducible assumption)
    | (intro _)
    | (with_reducible apply ite_keeps)
    | (with_reducible apply State.out_keeps)
    | split
    | dsimp only
    | (fail_if_no_progress with_reducible refine Keeps.updMk ?_ rfl rfl rfl rfl rfl rfl rfl)

theorem portOff_keeps (g : Nat) (s : State) (hk : Keeps fz s0 s) : Keeps fz s0 (portOff g s) := by
  unfold portOff
  repeat' first
    | (with_reducible assumption)
    | (intro _)
    | (with_reducible apply ite_keeps)
    | (with_reducible apply auxSend_keeps)
    | (with_reducible apply setTxLink_keeps)
    | split
    | dsimp only

theorem sendPps_keeps (g : Nat) (s : State) (hk : Keeps fz s0 s) : Keeps fz s0 (sendPps g s) := by
  unfold sendPps
  repeat' first
    | (with_reducible assumption)
    | (intro _)
    | (with_reducible apply ite_keeps)
    | (with_reducible apply State.out_keeps)
    | split
    | dsimp only

theorem hpdChange_keeps (p : Nat) (level : Bool) (s : State) (hk : Keeps fz s0 s) : Keeps fz s0 (hpdChange p level
    s) := by
  unfold hpdChange
  repeat' first
    | (with_reducible assumption)
    | (intro _)
    | (with_reducible apply ite_keeps)
    | (with_reducible apply voutEvent_keeps)
    | (with_reducible apply State.fset_keeps)
    | split
    | dsimp only
    | (fail_if_no_progress with_reducible refine Keeps.updMk ?_ rfl rfl rfl rfl rfl rfl rfl)

theorem execHpdChange_keeps (p : Fin 2) (level : Bool) (s : State) {nx : State} (hn : execHpdChange p level s =
    .next nx) : Keeps true s nx := by
  unfold execHpdChange at hn
  have hk := Keeps.refl true s
  refine ok_keeps hn ?_
  repeat' first
    | (with_reducible assumption)
    | (intro _)
    | (with_reducible apply ite_keeps)
    | (with_reducible apply hpdChange_keeps)
    | split
    | dsimp only

theorem trainingStart_keeps (p : Nat) (s : State) (hk : Keeps fz s0 s) : Keeps fz s0 (trainingStart p s) := by
  unfold trainingStart
  repeat' first
    | (with_reducible assumption)
    | (intro _)
    | (with_reducible apply ite_keeps)
    | (with_reducible apply setTxLink_keeps)
    | split
    | dsimp only

theorem execEdpTrainingStart_keeps (p : Fin 2) (s : State) {nx : State} (hn : execEdpTrainingStart p s = .next nx) :
    Keeps true s nx := by
  unfold execEdpTrainingStart at hn
  have hk := Keeps.refl true s
  refine ok_keeps hn ?_
  repeat' first
    | (with_reducible assumption)
    | (intro _)
    | (with_reducible apply ite_keeps)
    | (with_reducible apply trainingStart_keeps)
    | split
    | dsimp only

theorem edpLoss_keeps (p : Nat) (s : State) (hk : Keeps fz s0 s) : Keeps fz s0 (edpLoss p s) := by
  unfold edpLoss
  repeat' first
    | (with_reducible assumption)
    | (intro _)
    | (with_reducible apply ite_keeps)
    | (with_reducible apply auxSend_keeps)
    | (with_reducible apply voutEvent_keeps)
    | (with_reducible apply State.fadd_keeps)
    | (with_reducible apply setTxLink_keeps)
    | split
    | dsimp only

theorem execEdpLinkLoss_keeps (p : Fin 2) (s : State) {nx : State} (hn : execEdpLinkLoss p s = .next nx) : Keeps
    true s nx := by
  unfold execEdpLinkLoss at hn
  have hk := Keeps.refl true s
  refine ok_keeps hn ?_
  repeat' first
    | (with_reducible assumption)
    | (intro _)
    | (with_reducible apply ite_keeps)
    | (with_reducible apply edpLoss_keeps)
    | split
    | dsimp only

theorem hpdIrq_keeps (p : Nat) (lockLost : Bool) (s : State) (hk : Keeps fz s0 s) : Keeps fz s0 (hpdIrq p lockLost
    s) := by
  unfold hpdIrq
  repeat' first
    | (with_reducible assumption)
    | (intro _)
    | (with_reducible apply ite_keeps)
    | (with_reducible apply State.out_keeps)
    | (with_reducible apply setTxLink_keeps)
    | split
    | dsimp only

theorem execHpdIrq_keeps (p : Fin 2) (lockLost : Bool) (s : State) {nx : State} (hn : execHpdIrq p lockLost s =
    .next nx) : Keeps true s nx := by
  unfold execHpdIrq at hn
  have hk := Keeps.refl true s
  refine ok_keeps hn ?_
  repeat' first
    | (with_reducible assumption)
    | (intro _)
    | (with_reducible apply ite_keeps)
    | (with_reducible apply hpdIrq_keeps)
    | split
    | dsimp only

theorem trainingDone_keeps (p : Nat) (success : Bool) (s : State) (hk : Keeps fz s0 s) : Keeps fz s0 (trainingDone p
    success s) := by
  unfold trainingDone
  repeat' first
    | (with_reducible assumption)
    | (intro _)
    | (with_reducible apply ite_keeps)
    | (with_reducible apply auxSend_keeps)
    | (with_reducible apply voutEvent_keeps)
    | (with_reducible apply sendPps_keeps)
    | (with_reducible apply State.fadd_keeps)
    | (with_reducible apply setTxLink_keeps)
    | split
    | dsimp only
    | (fail_if_no_progress with_reducible refine Keeps.updMk ?_ rfl rfl rfl rfl rfl rfl rfl)

theorem execTrainingDone_keeps (p : Fin 2) (success : Bool) (s : State) {nx : State} (hn : execTrainingDone p
    success s = .next nx) : Keeps true s nx := by
  unfold execTrainingDone at hn
  have hk := Keeps.refl true s
  refine ok_keeps hn ?_
  repeat' first
    | (with_reducible assumption)
    | (intro _)
    | (with_reducible apply ite_keeps)
    | (with_reducible apply trainingDone_keeps)
    | split
    | dsimp only

theorem trainingRetry_keeps (p : Nat) (s : State) (hk : Keeps fz s0 s) : Keeps fz s0 (trainingRetry p s) := by
  unfold trainingRetry
  repeat' first
    | (with_reducible assumption)
    | (intro _)
    | (with_reducible apply ite_keeps)
    | (with_reducible apply setTxLink_keeps)
    | split
    | dsimp only

theorem execTrainingRetry_keeps (p : Fin 2) (s : State) {nx : State} (hn : execTrainingRetry p s = .next nx) : Keeps
    true s nx := by
  unfold execTrainingRetry at hn
  have hk := Keeps.refl true s
  refine ok_keeps hn ?_
  repeat' first
    | (with_reducible assumption)
    | (intro _)
    | (with_reducible apply ite_keeps)
    | (with_reducible apply trainingRetry_keeps)
    | split
    | dsimp only

theorem actRetrain_keeps (g : Nat) (s : State) (hk : Keeps fz s0 s) : Keeps fz s0 (actRetrain g s) := by
  unfold actRetrain
  repeat' first
    | (with_reducible assumption)
    | (intro _)
    | (with_reducible apply ite_keeps)
    | (with_reducible apply setTxLink_keeps)
    | split
    | dsimp only

theorem actHold_keeps (g : Nat) (s : State) (hk : Keeps fz s0 s) : Keeps fz s0 (actHold g s) := by
  unfold actHold
  repeat' first
    | (with_reducible assumption)
    | (intro _)
    | (with_reducible apply ite_keeps)
    | (with_reducible apply auxSend_keeps)
    | (with_reducible apply setTxLink_keeps)
    | split
    | dsimp only
    | (fail_if_no_progress with_reducible refine Keeps.updMk ?_ rfl rfl rfl rfl rfl rfl rfl)

theorem actRelease_keeps (g : Nat) (s : State) (hk : Keeps fz s0 s) : Keeps fz s0 (actRelease g s) := by
  unfold actRelease
  repeat' first
    | (with_reducible assumption)
    | (intro _)
    | (with_reducible apply ite_keeps)
    | (with_reducible apply setTxLink_keeps)
    | split
    | dsimp only
    | (fail_if_no_progress with_reducible refine Keeps.updMk ?_ rfl rfl rfl rfl rfl rfl rfl)

theorem execPortRetrain_keeps (f : HostFn) (g : Fin 4) (s : State) {nx : State} (hn : execPortRetrain f g s = .next
    nx) : Keeps true s nx := by
  unfold execPortRetrain at hn
  have hk := Keeps.refl true s
  refine ok_keeps hn ?_
  repeat' first
    | (with_reducible assumption)
    | (intro _)
    | (with_reducible apply ite_keeps)
    | (with_reducible apply hostWrite_keeps)
    | (with_reducible apply actRetrain_keeps)
    | split
    | dsimp only

theorem execPortHold_keeps (f : HostFn) (g : Fin 4) (s : State) {nx : State} (hn : execPortHold f g s = .next nx) :
    Keeps true s nx := by
  unfold execPortHold at hn
  have hk := Keeps.refl true s
  refine ok_keeps hn ?_
  repeat' first
    | (with_reducible assumption)
    | (intro _)
    | (with_reducible apply ite_keeps)
    | (with_reducible apply hostWrite_keeps)
    | (with_reducible apply actHold_keeps)
    | split
    | dsimp only

theorem execPortRelease_keeps (f : HostFn) (g : Fin 4) (s : State) {nx : State} (hn : execPortRelease f g s = .next
    nx) : Keeps true s nx := by
  unfold execPortRelease at hn
  have hk := Keeps.refl true s
  refine ok_keeps hn ?_
  repeat' first
    | (with_reducible assumption)
    | (intro _)
    | (with_reducible apply ite_keeps)
    | (with_reducible apply hostWrite_keeps)
    | (with_reducible apply actRelease_keeps)
    | split
    | dsimp only

theorem actAux_keeps (p op len seq : Nat) (s : State) (hk : Keeps fz s0 s) : Keeps fz s0 (actAux p op len seq s) :=
    by
  unfold actAux
  repeat' first
    | (with_reducible assumption)
    | (intro _)
    | (with_reducible apply ite_keeps)
    | (with_reducible apply State.fsat_keeps)
    | (with_reducible apply auxSend_keeps)
    | split
    | dsimp only
    | (fail_if_no_progress with_reducible refine Keeps.updMk ?_ rfl rfl rfl rfl rfl rfl rfl)

theorem execAuxNativeRead_keeps (f : HostFn) (p : Fin 2) (len : Fin 16) (seq : BitVec 16) (s : State) {nx : State}
    (hn : execAuxNativeRead f p len seq s = .next nx) : Keeps true s nx := by
  unfold execAuxNativeRead at hn
  have hk := Keeps.refl true s
  refine ok_keeps hn ?_
  repeat' first
    | (with_reducible assumption)
    | (intro _)
    | (with_reducible apply ite_keeps)
    | (with_reducible apply hostWrite_keeps)
    | (with_reducible apply actAux_keeps)
    | split
    | dsimp only

theorem execAuxNativeWrite_keeps (f : HostFn) (p : Fin 2) (len : Fin 16) (seq : BitVec 16) (s : State) {nx : State}
    (hn : execAuxNativeWrite f p len seq s = .next nx) : Keeps true s nx := by
  unfold execAuxNativeWrite at hn
  have hk := Keeps.refl true s
  refine ok_keeps hn ?_
  repeat' first
    | (with_reducible assumption)
    | (intro _)
    | (with_reducible apply ite_keeps)
    | (with_reducible apply hostWrite_keeps)
    | (with_reducible apply actAux_keeps)
    | split
    | dsimp only

theorem execAuxI2cRead_keeps (f : HostFn) (p : Fin 2) (len : Fin 16) (seq : BitVec 16) (s : State) {nx : State} (hn
    : execAuxI2cRead f p len seq s = .next nx) : Keeps true s nx := by
  unfold execAuxI2cRead at hn
  have hk := Keeps.refl true s
  refine ok_keeps hn ?_
  repeat' first
    | (with_reducible assumption)
    | (intro _)
    | (with_reducible apply ite_keeps)
    | (with_reducible apply hostWrite_keeps)
    | (with_reducible apply actAux_keeps)
    | split
    | dsimp only

theorem execAuxI2cWrite_keeps (f : HostFn) (p : Fin 2) (len : Fin 16) (seq : BitVec 16) (s : State) {nx : State} (hn
    : execAuxI2cWrite f p len seq s = .next nx) : Keeps true s nx := by
  unfold execAuxI2cWrite at hn
  have hk := Keeps.refl true s
  refine ok_keeps hn ?_
  repeat' first
    | (with_reducible assumption)
    | (intro _)
    | (with_reducible apply ite_keeps)
    | (with_reducible apply hostWrite_keeps)
    | (with_reducible apply actAux_keeps)
    | split
    | dsimp only

theorem auxEnd_keeps (x : AuxTx) (status len : Nat) (s : State) (hk : Keeps fz s0 s) : Keeps fz s0 (auxEnd x status
    len s) := by
  unfold auxEnd
  repeat' first
    | (with_reducible assumption)
    | (intro _)
    | (with_reducible apply ite_keeps)
    | (with_reducible apply State.fset_keeps)
    | split
    | dsimp only
    | (fail_if_no_progress with_reducible refine Keeps.updMk ?_ rfl rfl rfl rfl rfl rfl rfl)

theorem putAux_keeps (d : List Byte) (s : State) (hk : Keeps fz s0 s) : Keeps fz s0 (putAux d s) := by
  unfold putAux
  repeat' first
    | (with_reducible assumption)
    | (intro _)
    | (with_reducible apply ite_keeps)
    | (with_reducible apply State.setReg_keeps)
    | (with_reducible apply foldl_keeps)
    | split
    | dsimp only

theorem auxComplete_keeps (r : AuxReply) (data : List Byte) (s : State) (hk : Keeps fz s0 s) : Keeps fz s0
    (auxComplete r data s) := by
  unfold auxComplete
  repeat' first
    | (with_reducible assumption)
    | (intro _)
    | (with_reducible apply ite_keeps)
    | (with_reducible apply auxEnd_keeps)
    | (with_reducible apply putAux_keeps)
    | split
    | dsimp only
    | (fail_if_no_progress with_reducible refine Keeps.updMk ?_ rfl rfl rfl rfl rfl rfl rfl)

theorem execAuxComplete_keeps (r : AuxReply) (data : List Byte) (s : State) {nx : State} (hn : execAuxComplete r
    data s = .next nx) : Keeps true s nx := by
  unfold execAuxComplete at hn
  have hk := Keeps.refl true s
  refine ok_keeps hn ?_
  repeat' first
    | (with_reducible assumption)
    | (intro _)
    | (with_reducible apply ite_keeps)
    | (with_reducible apply auxComplete_keeps)
    | split
    | dsimp only

theorem auxRetry_keeps (s : State) (hk : Keeps fz s0 s) : Keeps fz s0 (auxRetry s) := by
  unfold auxRetry
  repeat' first
    | (with_reducible assumption)
    | (intro _)
    | (with_reducible apply ite_keeps)
    | (with_reducible apply auxSend_keeps)
    | split
    | dsimp only
    | (fail_if_no_progress with_reducible refine Keeps.updMk ?_ rfl rfl rfl rfl rfl rfl rfl)

theorem execAuxDeferRetry_keeps (s : State) {nx : State} (hn : execAuxDeferRetry s = .next nx) : Keeps true s nx :=
    by
  unfold execAuxDeferRetry at hn
  have hk := Keeps.refl true s
  refine ok_keeps hn ?_
  repeat' first
    | (with_reducible assumption)
    | (intro _)
    | (with_reducible apply ite_keeps)
    | (with_reducible apply auxRetry_keeps)
    | split
    | dsimp only

theorem actDsiPush_keeps (s : State) (hk : Keeps fz s0 s) : Keeps fz s0 (actDsiPush s) := by
  unfold actDsiPush
  repeat' first
    | (with_reducible assumption)
    | (intro _)
    | (with_reducible apply ite_keeps)
    | (with_reducible apply State.fsat_keeps)
    | split
    | dsimp only
    | (fail_if_no_progress with_reducible refine Keeps.updMk ?_ rfl rfl rfl rfl rfl rfl rfl)

theorem execDsiPush_keeps (f : HostFn) (s : State) {nx : State} (hn : execDsiPush f s = .next nx) : Keeps true s nx
    := by
  unfold execDsiPush at hn
  have hk := Keeps.refl true s
  refine ok_keeps hn ?_
  repeat' first
    | (with_reducible assumption)
    | (intro _)
    | (with_reducible apply ite_keeps)
    | (with_reducible apply hostWrite_keeps)
    | (with_reducible apply actDsiPush_keeps)
    | split
    | dsimp only

theorem dsiInitEntry_keeps (s : State) (hk : Keeps fz s0 s) : Keeps fz s0 (dsiInitEntry s) := by
  unfold dsiInitEntry
  repeat' first
    | (with_reducible assumption)
    | (intro _)
    | (with_reducible apply ite_keeps)
    | (with_reducible apply State.out_keeps)
    | (with_reducible apply setTxLink_keeps)
    | split
    | dsimp only
    | (fail_if_no_progress with_reducible refine Keeps.updMk ?_ rfl rfl rfl rfl rfl rfl rfl)

theorem execDsiInitEntry_keeps (s : State) {nx : State} (hn : execDsiInitEntry s = .next nx) : Keeps true s nx := by
  unfold execDsiInitEntry at hn
  have hk := Keeps.refl true s
  refine ok_keeps hn ?_
  repeat' first
    | (with_reducible assumption)
    | (intro _)
    | (with_reducible apply ite_keeps)
    | (with_reducible apply dsiInitEntry_keeps)
    | split
    | dsimp only

theorem portFrame_keeps (g : Nat) (s : State) (hk : Keeps fz s0 s) : Keeps fz s0 (portFrame g s) := by
  unfold portFrame
  repeat' first
    | (with_reducible assumption)
    | (intro _)
    | (with_reducible apply ite_keeps)
    | (with_reducible apply State.out_keeps)
    | (with_reducible apply State.free_keeps)
    | (with_reducible refine State.free_keeps' (by assumption) ?_)
    | (with_reducible apply State.setReg_keeps)
    | (with_reducible apply State.fset_keeps)
    | (with_reducible apply foldl_keeps)
    | split
    | dsimp only
    | (fail_if_no_progress with_reducible refine Keeps.updMk ?_ rfl rfl rfl rfl rfl rfl rfl)

theorem frameAndPort_keeps (g : Nat) (s : State) (hk : Keeps fz s0 s) : Keeps fz s0 (frameAndPort g s) := by
  unfold frameAndPort
  repeat' first
    | (with_reducible assumption)
    | (intro _)
    | (with_reducible apply ite_keeps)
    | (with_reducible apply frameStart_keeps)
    | (with_reducible apply sendPps_keeps)
    | (with_reducible apply portFrame_keeps)
    | split
    | dsimp only
    | (fail_if_no_progress with_reducible refine Keeps.updMk ?_ rfl rfl rfl rfl rfl rfl rfl)

theorem execFrameStart_keeps (g : Fin 4) (s : State) {nx : State} (hn : execFrameStart g s = .next nx) : Keeps true
    s nx := by
  unfold execFrameStart at hn
  have hk := Keeps.refl true s
  refine ok_keeps hn ?_
  repeat' first
    | (with_reducible assumption)
    | (intro _)
    | (with_reducible apply ite_keeps)
    | (with_reducible apply frameAndPort_keeps)
    | split
    | dsimp only

theorem layerLine_keeps (g y : Nat) (x : GLayer × LayerBuf) (r : ScanRead) (s : State) (hk : Keeps fz s0 s) : Keeps
    fz s0 (layerLine g y x r s).2 := by
  unfold layerLine
  repeat' first
    | (with_reducible assumption)
    | (intro _)
    | (with_reducible apply ite_keeps)
    | (with_reducible apply readBytes_keeps)
    | (with_reducible refine readBytes_keeps' (by assumption) ?_)
    | (with_reducible apply State.fadd_keeps)
    | split
    | dsimp only

theorem layerLine_keeps' {g : Nat} {y : Nat} {x : GLayer × LayerBuf} {r : ScanRead} {s : State} {res : Option (List
    Nat)} {u : State} (heq : layerLine g y x r s = (res, u)) (hk : Keeps fz s0 s) : Keeps fz s0 u := by
  have k := layerLine_keeps g y x r s hk
  rw [heq] at k
  exact k

theorem blendLayers_keeps (g y : Nat) (x0 : List (GLayer × LayerBuf)) (x1 : List ScanRead) (x2 : List Nat) (s :
    State) (hk : Keeps fz s0 s) : Keeps fz s0 (blendLayers g y x0 x1 x2 s).2 := by
  induction x0 generalizing x1 x2 s with
  | nil => simpa only [blendLayers] using hk
  | cons x xs ih =>
    rw [blendLayers]
    have ih' : ∀ {x1} {x2} {s} {res0} {u}, blendLayers g y xs x1 x2 s = (res0, u) → Keeps fz s0 s → Keeps fz s0 u := by
      intro x1 x2 s res0 u hq k
      have := ih x1 x2 s k
      rw [hq] at this; exact this
    repeat' first
      | (with_reducible assumption)
      | (intro _)
      | (with_reducible apply ite_keeps)
      | (with_reducible apply layerLine_keeps)
      | (with_reducible refine layerLine_keeps' (by assumption) ?_)
      | (with_reducible apply ih)
      | (with_reducible refine ih' (by assumption) ?_)
      | split
      | dsimp only

theorem blendLayers_keeps' {g : Nat} {y : Nat} {x0 : List (GLayer × LayerBuf)} {x1 : List ScanRead} {x2 : List Nat}
    {s : State} {res : List Nat} {u : State} (heq : blendLayers g y x0 x1 x2 s = (res, u)) (hk : Keeps fz s0 s) :
    Keeps fz s0 u := by
  have k := blendLayers_keeps g y x0 x1 x2 s hk
  rw [heq] at k
  exact k

theorem lvdsLine_keeps (v : LvdsCfg) (frame line : Nat) (ps : List Nat) (s : State) (hk : Keeps fz s0 s) : Keeps fz
    s0 (lvdsLine v frame line ps s) := by
  unfold lvdsLine
  repeat' first
    | (with_reducible assumption)
    | (intro _)
    | (with_reducible apply ite_keeps)
    | (with_reducible apply State.out_keeps)
    | split
    | dsimp only

theorem scanLine_keeps (g : Nat) (reads : List ScanRead) (s : State) (hk : Keeps fz s0 s) : Keeps fz s0 (scanLine g
    reads s) := by
  unfold scanLine
  repeat' first
    | (with_reducible assumption)
    | (intro _)
    | (with_reducible apply ite_keeps)
    | (with_reducible apply onGen_keeps)
    | (with_reducible apply blendLayers_keeps)
    | (with_reducible refine blendLayers_keeps' (by assumption) ?_)
    | (with_reducible apply State.out_keeps)
    | (with_reducible apply lvdsLine_keeps)
    | split
    | dsimp only

theorem execScanoutLine_keeps (g : Fin 4) (reads : List ScanRead) (s : State) {nx : State} (hn : execScanoutLine g
    reads s = .next nx) : Keeps true s nx := by
  unfold execScanoutLine at hn
  have hk := Keeps.refl true s
  refine ok_keeps hn ?_
  repeat' first
    | (with_reducible assumption)
    | (intro _)
    | (with_reducible apply ite_keeps)
    | (with_reducible apply scanLine_keeps)
    | split
    | dsimp only

end Sys2Proof.Machine
end

