-- ==== Sys2Proof/Laws/KeepsLoader.lean ====
section
/-! SUPPORT. What the operations of Machine/Loader.lean keep (Laws/Keeps.lean). -/
namespace Sys2Proof.Machine

variable {fz : Bool} {s0 : State}

theorem onRun_keeps (g : RcpRun → RcpRun) (s : State) (hk : Keeps fz s0 s) : Keeps fz s0 (onRun g s) := by
  unfold onRun
  repeat' first
    | (with_reducible assumption)
    | (intro _)
    | (with_reducible apply ite_keeps)
    | split
    | dsimp only
    | (fail_if_no_progress with_reducible refine Keeps.updMk ?_ rfl rfl rfl rfl rfl rfl rfl)

theorem setRcp_keeps (v : Nat) (s : State) (hk : Keeps fz s0 s) : Keeps fz s0 (setRcp v s) := by
  unfold setRcp
  repeat' first
    | (with_reducible assumption)
    | (intro _)
    | (with_reducible apply ite_keeps)
    | (with_reducible apply State.fset_keeps)
    | split
    | dsimp only

theorem rcpResult_keeps (cause : Nat) (r : RcpRun) (s : State) (hk : Keeps fz s0 s) : Keeps fz s0 (rcpResult cause r
    s) := by
  unfold rcpResult
  repeat' first
    | (with_reducible assumption)
    | (intro _)
    | (with_reducible apply ite_keeps)
    | (with_reducible apply advanceSeq_keeps)
    | (with_reducible apply State.fset_keeps)
    | split
    | dsimp only

theorem setReject_keeps (sect off : Nat) (s : State) (hk : Keeps fz s0 s) : Keeps fz s0 (setReject sect off s) := by
  unfold setReject
  repeat' first
    | (with_reducible assumption)
    | (intro _)
    | (with_reducible apply ite_keeps)
    | (with_reducible apply State.fset_keeps)
    | split
    | dsimp only

theorem rejectWith_keeps (r : RcpRun) (x : Reject) (s : State) (hk : Keeps fz s0 s) : Keeps fz s0 (rejectWith r x s)
    := by
  unfold rejectWith
  repeat' first
    | (with_reducible assumption)
    | (intro _)
    | (with_reducible apply ite_keeps)
    | (with_reducible apply rcpResult_keeps)
    | (with_reducible apply setReject_keeps)
    | (with_reducible apply logFault_keeps)
    | split
    | dsimp only

theorem succeed_keeps (cause : Nat) (r : RcpRun) (s : State) (hk : Keeps fz s0 s) : Keeps fz s0 (succeed cause r s)
    := by
  unfold succeed
  repeat' first
    | (with_reducible assumption)
    | (intro _)
    | (with_reducible apply ite_keeps)
    | (with_reducible apply rcpResult_keeps)
    | (with_reducible apply setReject_keeps)
    | split
    | dsimp only

theorem setBakState_keeps (b v : Nat) (s : State) (hk : Keeps fz s0 s) : Keeps fz s0 (setBakState b v s) := by
  unfold setBakState
  repeat' first
    | (with_reducible assumption)
    | (intro _)
    | (with_reducible apply ite_keeps)
    | (with_reducible apply State.fset_keeps)
    | split
    | dsimp only

theorem endRun_keeps (v : Nat) (s : State) (hk : Keeps fz s0 s) : Keeps fz s0 (endRun v s) := by
  unfold endRun
  repeat' first
    | (with_reducible assumption)
    | (intro _)
    | (with_reducible apply ite_keeps)
    | (with_reducible apply setRcp_keeps)
    | split
    | dsimp only
    | (fail_if_no_progress with_reducible refine Keeps.updMk ?_ rfl rfl rfl rfl rfl rfl rfl)

theorem flashRead_keeps (flash : Option Sfdp) (mode mhz off len : Nat) (s : State) (hk : Keeps fz s0 s) : Keeps fz
    s0 (flashRead flash mode mhz off len s) := by
  unfold flashRead
  repeat' first
    | (with_reducible assumption)
    | (intro _)
    | (with_reducible apply ite_keeps)
    | (with_reducible apply State.out_keeps)
    | split
    | dsimp only

theorem readSource_keeps (r : RcpRun) (off len : Nat) (s : State) (hk : Keeps fz s0 s) : Keeps fz s0 (readSource r
    off len s) := by
  unfold readSource
  repeat' first
    | (with_reducible assumption)
    | (intro _)
    | (with_reducible apply ite_keeps)
    | (with_reducible apply flashRead_keeps)
    | (with_reducible apply State.out_keeps)
    | split
    | dsimp only

theorem beginRun_keeps (r : RcpRun) (v len : Nat) (s : State) (hk : Keeps fz s0 s) : Keeps fz s0 (beginRun r v len
    s) := by
  unfold beginRun
  repeat' first
    | (with_reducible assumption)
    | (intro _)
    | (with_reducible apply ite_keeps)
    | (with_reducible apply readSource_keeps)
    | (with_reducible apply setRcp_keeps)
    | split
    | dsimp only
    | (fail_if_no_progress with_reducible refine Keeps.updMk ?_ rfl rfl rfl rfl rfl rfl rfl)

theorem autoLoad_keeps (flash : Option Sfdp) (s : State) (hk : Keeps fz s0 s) : Keeps fz s0 (autoLoad flash s) := by
  unfold autoLoad
  repeat' first
    | (with_reducible assumption)
    | (intro _)
    | (with_reducible apply ite_keeps)
    | (with_reducible apply beginRun_keeps)
    | (with_reducible apply State.out_keeps)
    | split
    | dsimp only
    | (fail_if_no_progress with_reducible refine Keeps.updMk ?_ rfl rfl rfl rfl rfl rfl rfl)

theorem execAutoSpiLoad_keeps (flash : Option Sfdp) (s : State) {nx : State} (hn : execAutoSpiLoad flash s = .next
    nx) : Keeps true s nx := by
  unfold execAutoSpiLoad at hn
  have hk := Keeps.refl true s
  refine ok_keeps hn ?_
  repeat' first
    | (with_reducible assumption)
    | (intro _)
    | (with_reducible apply ite_keeps)
    | (with_reducible apply autoLoad_keeps)
    | split
    | dsimp only

theorem startLoad_keeps (seq : Nat) (s : State) (hk : Keeps fz s0 s) : Keeps fz s0 (startLoad seq s) := by
  unfold startLoad
  repeat' first
    | (with_reducible assumption)
    | (intro _)
    | (with_reducible apply ite_keeps)
    | (with_reducible apply beginRun_keeps)
    | split
    | dsimp only

theorem startPatch_keeps (b seq : Nat) (s : State) (hk : Keeps fz s0 s) : Keeps fz s0 (startPatch b seq s) := by
  unfold startPatch
  repeat' first
    | (with_reducible assumption)
    | (intro _)
    | (with_reducible apply ite_keeps)
    | (with_reducible apply raiseZen_keeps)
    | (with_reducible apply setBakState_keeps)
    | (with_reducible apply beginRun_keeps)
    | split
    | dsimp only

theorem deferredOk_keeps (r : RcpRun) (s : State) (hk : Keeps fz s0 s) : Keeps fz s0 (deferredOk r s) := by
  unfold deferredOk
  repeat' first
    | (with_reducible assumption)
    | (intro _)
    | (with_reducible apply ite_keeps)
    | (with_reducible apply raiseZen_keeps)
    | (with_reducible apply State.fset_keeps)
    | (with_reducible apply endRun_keeps)
    | (with_reducible apply succeed_keeps)
    | split
    | dsimp only

theorem startDeferred_keeps (r : RcpRun) (s : State) (hk : Keeps fz s0 s) : Keeps fz s0 (startDeferred r s) := by
  unfold startDeferred
  repeat' first
    | (with_reducible assumption)
    | (intro _)
    | (with_reducible apply ite_keeps)
    | (with_reducible apply State.fset_keeps)
    | (with_reducible apply deferredOk_keeps)
    | (with_reducible apply setRcp_keeps)
    | (with_reducible apply readSource_keeps)
    | (with_reducible apply foldl_keeps)
    | split
    | dsimp only
    | (fail_if_no_progress with_reducible refine Keeps.updMk ?_ rfl rfl rfl rfl rfl rfl rfl)

theorem zenDeferred_keeps (s : State) (hk : Keeps fz s0 s) : Keeps fz s0 (zenDeferred s) := by
  unfold zenDeferred
  repeat' first
    | (with_reducible assumption)
    | (intro _)
    | (with_reducible apply ite_keeps)
    | (with_reducible apply startDeferred_keeps)
    | split
    | dsimp only

theorem actRcpCmd_keeps (v : Word) (s : State) (hk : Keeps fz s0 s) : Keeps fz s0 (actRcpCmd v s) := by
  unfold actRcpCmd
  repeat' first
    | (with_reducible assumption)
    | (intro _)
    | (with_reducible apply ite_keeps)
    | (with_reducible apply State.fsat_keeps)
    | (with_reducible apply startLoad_keeps)
    | (with_reducible apply startPatch_keeps)
    | (with_reducible apply startDeferred_keeps)
    | split
    | dsimp only

theorem execLoad_keeps (f : HostFn) (seq : BitVec 16) (s : State) {nx : State} (hn : execLoad f seq s = .next nx) :
    Keeps true s nx := by
  unfold execLoad at hn
  have hk := Keeps.refl true s
  refine ok_keeps hn ?_
  repeat' first
    | (with_reducible assumption)
    | (intro _)
    | (with_reducible apply ite_keeps)
    | (with_reducible apply hostWrite_keeps)
    | (with_reducible apply actRcpCmd_keeps)
    | split
    | dsimp only

theorem execPatch_keeps (f : HostFn) (bakery : Fin 16) (seq : BitVec 16) (s : State) {nx : State} (hn : execPatch f
    bakery seq s = .next nx) : Keeps true s nx := by
  unfold execPatch at hn
  have hk := Keeps.refl true s
  refine ok_keeps hn ?_
  repeat' first
    | (with_reducible assumption)
    | (intro _)
    | (with_reducible apply ite_keeps)
    | (with_reducible apply hostWrite_keeps)
    | (with_reducible apply actRcpCmd_keeps)
    | split
    | dsimp only

theorem execDeferred_keeps (f : HostFn) (seq : BitVec 16) (s : State) {nx : State} (hn : execDeferred f seq s =
    .next nx) : Keeps true s nx := by
  unfold execDeferred at hn
  have hk := Keeps.refl true s
  refine ok_keeps hn ?_
  repeat' first
    | (with_reducible assumption)
    | (intro _)
    | (with_reducible apply ite_keeps)
    | (with_reducible apply hostWrite_keeps)
    | (with_reducible apply actRcpCmd_keeps)
    | split
    | dsimp only

theorem nextCopy_keeps (r : RcpRun) (s : State) (hk : Keeps fz s0 s) : Keeps fz s0 (nextCopy r s) := by
  unfold nextCopy
  repeat' first
    | (with_reducible assumption)
    | (intro _)
    | (with_reducible apply ite_keeps)
    | (with_reducible apply beginRun_keeps)
    | split
    | dsimp only

theorem failEarly_keeps (r : RcpRun) (cause : Nat) (s : State) (hk : Keeps fz s0 s) : Keeps fz s0 (failEarly r cause
    s) := by
  unfold failEarly
  repeat' first
    | (with_reducible assumption)
    | (intro _)
    | (with_reducible apply ite_keeps)
    | (with_reducible apply nextCopy_keeps)
    | (with_reducible apply State.fset_keeps)
    | (with_reducible apply setBakState_keeps)
    | (with_reducible apply endRun_keeps)
    | split
    | dsimp only

theorem noMagic_keeps (r : RcpRun) (s : State) (hk : Keeps fz s0 s) : Keeps fz s0 (noMagic r s) := by
  unfold noMagic
  repeat' first
    | (with_reducible assumption)
    | (intro _)
    | (with_reducible apply ite_keeps)
    | (with_reducible apply failEarly_keeps)
    | (with_reducible apply rejectWith_keeps)
    | split
    | dsimp only

theorem readRest_keeps (r : RcpRun) (data : List Byte) (s : State) (hk : Keeps fz s0 s) : Keeps fz s0 (readRest r
    data s) := by
  unfold readRest
  repeat' first
    | (with_reducible assumption)
    | (intro _)
    | (with_reducible apply ite_keeps)
    | (with_reducible apply readSource_keeps)
    | split
    | dsimp only

theorem verify_keeps (r : RcpRun) (data : List Byte) (s : State) (hk : Keeps fz s0 s) : Keeps fz s0 (verify r data
    s) := by
  unfold verify
  repeat' first
    | (with_reducible assumption)
    | (intro _)
    | (with_reducible apply ite_keeps)
    | (with_reducible apply noMagic_keeps)
    | (with_reducible apply readRest_keeps)
    | (with_reducible apply failEarly_keeps)
    | (with_reducible apply rejectWith_keeps)
    | (with_reducible apply beginRun_keeps)
    | split
    | dsimp only
    | (fail_if_no_progress with_reducible refine Keeps.updMk ?_ rfl rfl rfl rfl rfl rfl rfl)

theorem loadVerified_keeps (data : List Byte) (s : State) (hk : Keeps fz s0 s) : Keeps fz s0 (loadVerified data s)
    := by
  unfold loadVerified
  repeat' first
    | (with_reducible assumption)
    | (intro _)
    | (with_reducible apply ite_keeps)
    | (with_reducible apply verify_keeps)
    | split
    | dsimp only

theorem execLoadVerified_keeps (data : List Byte) (s : State) {nx : State} (hn : execLoadVerified data s = .next nx)
    : Keeps true s nx := by
  unfold execLoadVerified at hn
  have hk := Keeps.refl true s
  refine ok_keeps hn ?_
  repeat' first
    | (with_reducible assumption)
    | (intro _)
    | (with_reducible apply ite_keeps)
    | (with_reducible apply loadVerified_keeps)
    | split
    | dsimp only

theorem writeImage_keeps (x : Sect) (s : State) (hk : Keeps fz s0 s) : Keeps fz s0 (writeImage x s) := by
  unfold writeImage
  repeat' first
    | (with_reducible assumption)
    | (intro _)
    | (with_reducible apply ite_keeps)
    | (with_reducible apply writeBytes_keeps)
    | (with_reducible refine writeBytes_keeps' (by assumption) ?_)
    | split
    | dsimp only

theorem writePantry_keeps (patch : Bool) (x : Sect) (s : State) (hk : Keeps fz s0 s) : Keeps fz s0 (writePantry
    patch x s) := by
  unfold writePantry
  repeat' first
    | (with_reducible assumption)
    | (intro _)
    | (with_reducible apply ite_keeps)
    | (with_reducible apply State.putPantry_keeps)
    | (with_reducible apply denyMem_keeps)
    | (with_reducible apply foldl_keeps)
    | split
    | dsimp only

theorem applySect_keeps (patch : Bool) (all : List Sect) (x : Sect) (s : State) (hk : Keeps fz s0 s) : Keeps fz s0
    (applySect patch all x s) := by
  unfold applySect
  repeat' first
    | (with_reducible assumption)
    | (intro _)
    | (with_reducible apply ite_keeps)
    | (with_reducible apply applyGlobal_keeps)
    | (with_reducible apply applyPower_keeps)
    | (with_reducible apply applyPace_keeps)
    | (with_reducible apply applyPcie_keeps)
    | (with_reducible apply gpioUpdate_keeps)
    | (with_reducible apply applySideband_keeps)
    | (with_reducible apply applyContexts_keeps)
    | (with_reducible apply applyMemory_keeps)
    | (with_reducible apply applyWindows_keeps)
    | (with_reducible apply applyMeridian_keeps)
    | (with_reducible apply applyBakery_keeps)
    | (with_reducible apply applyRacks_keeps)
    | (with_reducible apply applyFormats_keeps)
    | (with_reducible apply applyCurves_keeps)
    | (with_reducible apply applyProgram_keeps)
    | (with_reducible apply writePantry_keeps)
    | (with_reducible apply applyStarters_keeps)
    | (with_reducible apply applySlicer_keeps)
    | (with_reducible apply applyStream_keeps)
    | (with_reducible apply applyTiming_keeps)
    | (with_reducible apply applyVideo_keeps)
    | (with_reducible apply applyOrbit_keeps)
    | (with_reducible apply applyNw_keeps)
    | (with_reducible apply applyProc_keeps)
    | (with_reducible apply writeImage_keeps)
    | split
    | dsimp only

theorem applyAll_keeps (patch : Bool) (all x0 : List Sect) (s : State) (hk : Keeps fz s0 s) : Keeps fz s0 (applyAll
    patch all x0 s).1 := by
  induction x0 generalizing s with
  | nil => simpa only [applyAll] using hk
  | cons x xs ih =>
    rw [applyAll]
    have ih' : ∀ {s} {res0} {u}, applyAll patch all xs s = (u, res0) → Keeps fz s0 s → Keeps fz s0 u := by
      intro s res0 u hq k
      have := ih s k
      rw [hq] at this; exact this
    repeat' first
      | (with_reducible assumption)
      | (intro _)
      | (with_reducible apply ite_keeps)
      | (with_reducible apply applySect_keeps)
      | (with_reducible apply ih)
      | (with_reducible refine ih' (by assumption) ?_)
      | split
      | dsimp only

theorem applyAll_keeps' {patch : Bool} {all : List Sect} {x0 : List Sect} {s : State} {res : Option Sect} {u :
    State} (heq : applyAll patch all x0 s = (u, res)) (hk : Keeps fz s0 s) : Keeps fz s0 u := by
  have k := applyAll_keeps patch all x0 s hk
  rw [heq] at k
  exact k

theorem commitRegs_keeps (r : RcpRun) (s : State) (hk : Keeps fz s0 s) : Keeps fz s0 (commitRegs r s) := by
  unfold commitRegs
  repeat' first
    | (with_reducible assumption)
    | (intro _)
    | (with_reducible apply ite_keeps)
    | (with_reducible apply State.setPair_keeps)
    | (with_reducible apply State.fset_keeps)
    | (with_reducible apply State.setReg_keeps)
    | (with_reducible apply foldl_keeps)
    | split
    | dsimp only

theorem commitBlocks_keeps (xs : List Sect) (s : State) (hk : Keeps fz s0 s) : Keeps fz s0 (commitBlocks xs s) := by
  unfold commitBlocks
  repeat' first
    | (with_reducible assumption)
    | (intro _)
    | (with_reducible apply ite_keeps)
    | (with_reducible apply setLinkState_keeps)
    | (with_reducible apply portBegin_keeps)
    | (with_reducible apply syncReach_keeps)
    | (with_reducible apply orbBegin_keeps)
    | (with_reducible apply unconfigure_keeps)
    | (with_reducible apply foldl_keeps)
    | split
    | dsimp only

theorem commitFull_keeps (r : RcpRun) (xs : List Sect) (cause : Nat) (s : State) (hk : Keeps fz s0 s) : Keeps fz s0
    (commitFull r xs cause s) := by
  unfold commitFull
  repeat' first
    | (with_reducible assumption)
    | (intro _)
    | (with_reducible apply ite_keeps)
    | (with_reducible apply State.fset_keeps)
    | (with_reducible apply commitBlocks_keeps)
    | (with_reducible apply commitRegs_keeps)
    | (with_reducible apply succeed_keeps)
    | (with_reducible apply wakeAtCommit_keeps)
    | (with_reducible apply raiseZen_keeps)
    | (with_reducible apply endRun_keeps)
    | split
    | dsimp only
    | (fail_if_no_progress with_reducible refine Keeps.updMk ?_ rfl rfl rfl rfl rfl rfl rfl)

/-- Burning a fuse word that is not burnt yet only burns fuses. -/
theorem burnWord_grow (o : FuseOp) (x : Nat) (r : RcpState) (hn : wordDone o r = false) :
    fusesGrow r (burnWord o x r) := by
  have put : ∀ g : FuseSlot → FuseSlot,
      (r.slots.getD o.slot ⟨0, false, false⟩).grows (g (r.slots.getD o.slot ⟨0, false, false⟩)) →
      fusesGrow r { r with slots := r.slots.modify o.slot g } := fun g hg => by
    refine ⟨by simp, fun j => ?_, Nat.le_refl _⟩
    simp only [List.getD_eq_getElem?_getD, List.getElem?_modify] at hg ⊢
    by_cases hij : o.slot = j
    · subst hij
      cases hj : r.slots[o.slot]? with
      | none => simpa using FuseSlot.grows_refl _
      | some f => simpa [hj] using hg
    · simpa [hij] using FuseSlot.grows_refl _
  unfold burnWord
  extract_lets ps
  unfold wordDone at hn
  extract_lets f at hn
  split
  · next h1 =>
    rw [h1] at hn
    have hv : f.valid = false := (Bool.or_eq_false_iff.mp hn).1
    exact put _ ⟨fun b hb => by rw [Nat.testBit_or, hb]; rfl, fun h => absurd (h.symm.trans hv) (by decide), id⟩
  · exact put _ ⟨fun _ h => h, fun h => ⟨by rw [h]; rfl, rfl⟩, id⟩
  · exact put _ ⟨fun _ h => h, fun h => ⟨h, rfl⟩, fun h => by rw [h]; rfl⟩
  · refine ⟨rfl, fun _ => FuseSlot.grows_refl _, ?_⟩
    simp only [clampNat]
    split
    · exact Nat.le_refl _
    · split <;> omega

/-- Burning fuses only burns them, and leaves the rest of the loader alone. -/
theorem burnFuses_grow (os : List FuseOp) (reads : List Nat) (r : RcpState) : fusesGrow r (burnFuses os reads r).1
    := by
  induction os generalizing reads r with
  | nil => exact fusesGrow_refl r
  | cons o os ih =>
    unfold burnFuses
    split
    · exact ih _ _
    · next hn =>
      have hn : wordDone o r = false := by simpa using hn
      split
      · exact fusesGrow_refl r
      · extract_lets q
        split
        · exact fusesGrow_trans (burnWord_grow _ _ _ hn) (ih _ _)
        · exact burnWord_grow _ _ _ hn

theorem Keeps.updFuses {s0 s : State} (h : Keeps false s0 s) (r : RcpState) (hr : fusesGrow s.rcp r) :
    Keeps false s0 { s with rcp := r } :=
  h.trans ⟨rfl, rfl, fun z => (by cases z), hr, id⟩

theorem burnSection_keeps (r : RcpRun) (x : Sect) (fuses : List Nat) (s : State) (hk : Keeps false s0 s) :
    Keeps false s0 (burnSection r x fuses s).1 := by
  unfold burnSection
  have k := hk.updFuses _ (burnFuses_grow ((x.ents.map (fuseOp r.head.rollback)).flatMap fuseWords) fuses s.rcp)
  generalize burnFuses _ fuses s.rcp = y at k ⊢
  obtain ⟨f, done⟩ := y
  dsimp only at k ⊢
  split
  · exact k
  · exact k
  · exact logFault_keeps _ _ _ _ _ _ _ k

theorem finishLoad_keeps (r : RcpRun) (xs : List Sect) (fuses : List Nat) (s : State) (hk : Keeps false s0 s) :
    Keeps false s0 (finishLoad r xs fuses s) := by
  unfold finishLoad
  split
  · exact commitFull_keeps _ _ _ _ hk
  · next k _ =>
    have kb := burnSection_keeps r k fuses s hk
    generalize burnSection r k fuses s = z at kb ⊢
    obtain ⟨u, c⟩ := z
    split
    · next he => cases he; exact commitFull_keeps _ _ _ _ kb
    · next he => cases he; exact Keeps.updMk kb rfl rfl rfl rfl rfl rfl rfl

theorem undoLoad_keeps (done : List Sect) (before after : State) (hk : Keeps fz s0 before) :
    Keeps fz s0 (undoLoad done before after) := by
  unfold undoLoad
  have k : Keeps fz s0 (if done.any fun x => x.d.ty == 5 then
      gpioUpdate (fun s => (s.resetRegs Reg.SBD_GPIO_DIR (Reg.SBD_GPIO_DIR + 4)).resetRegs Reg.SBD_GPIO_OD
        (Reg.SBD_GPIO_OD + 4) |>.resetRegs Reg.SBD_GPIO_OUT (Reg.SBD_GPIO_OUT + 4)
        |>.resetRegs Reg.SBD_GPIO_EDGECFG (Reg.SBD_GPIO_EDGECFG + 4)) before else before) := by
    split
    · apply gpioUpdate_keeps _ _ _ hk
      intro s h
      exact State.resetRegs_keeps _ _ (State.resetRegs_keeps _ _ (State.resetRegs_keeps _ _ (State.resetRegs_keeps _
          _ h)))
    · exact hk
  extract_lets s1
  exact ite_keeps (nwReset_keeps _ k) k

theorem failLoad_keeps (r : RcpRun) (x : Reject) (done : List Sect) (before after : State) (hk : Keeps fz s0 before) :
    Keeps fz s0 (failLoad r x done before after) :=
  rejectWith_keeps _ _ _ (endRun_keeps _ _ (undoLoad_keeps _ _ _ hk))

theorem applyLoad_keeps (r : RcpRun) (data : List Byte) (fuses : List Nat) (s : State) (hk : Keeps false s0 s) :
    Keeps false s0 (applyLoad r data fuses s) := by
  unfold applyLoad
  extract_lets bytes xs
  have ka := applyAll_keeps false xs xs s hk
  generalize applyAll false xs xs s = y at ka ⊢
  split
  · exact failLoad_keeps _ _ _ _ _ hk
  · exact failLoad_keeps _ _ _ _ _ hk
  · exact finishLoad_keeps _ _ _ _ ka

theorem commit_keeps (data : List Byte) (fuses : List Nat) (s : State) (hk : Keeps false s0 s) :
    Keeps false s0 (commit data fuses s) := by
  unfold commit
  split
  · exact hk
  · exact ite_keeps hk (ite_keeps (applyLoad_keeps _ _ _ _ hk) (ite_keeps (finishLoad_keeps _ _ _ _ hk) hk))

theorem execCommit_keeps (data : List Byte) (fuses : List Nat) (s : State) {nx : State}
    (hn : execCommit data fuses s = .next nx) : Keeps false s nx := by
  rw [(ok_next hn).2]
  exact commit_keeps _ _ _ (Keeps.refl _ _)

theorem applyDeferred_keeps (x0 : List Sect) (s : State) (hk : Keeps fz s0 s) : Keeps fz s0 (applyDeferred x0 s).1
    := by
  induction x0 generalizing s with
  | nil => simpa only [applyDeferred] using hk
  | cons x xs ih =>
    rw [applyDeferred]
    have ih' : ∀ {s} {res0} {u}, applyDeferred xs s = (u, res0) → Keeps fz s0 s → Keeps fz s0 u := by
      intro s res0 u hq k
      have := ih s k
      rw [hq] at this; exact this
    repeat' first
      | (with_reducible assumption)
      | (intro _)
      | (with_reducible apply ite_keeps)
      | (with_reducible apply writeImage_keeps)
      | (with_reducible apply applyNw_keeps)
      | (with_reducible apply ih)
      | (with_reducible refine ih' (by assumption) ?_)
      | split
      | dsimp only

theorem applyDeferred_keeps' {x0 : List Sect} {s : State} {res : Option Sect} {u : State} (heq : applyDeferred x0 s
    = (u, res)) (hk : Keeps fz s0 s) : Keeps fz s0 u := by
  have k := applyDeferred_keeps x0 s hk
  rw [heq] at k
  exact k

theorem deferredDone_keeps (data : List Byte) (s : State) (hk : Keeps fz s0 s) : Keeps fz s0 (deferredDone data s)
    := by
  unfold deferredDone
  repeat' first
    | (with_reducible assumption)
    | (intro _)
    | (with_reducible apply ite_keeps)
    | (with_reducible apply applyDeferred_keeps)
    | (with_reducible refine applyDeferred_keeps' (by assumption) ?_)
    | (with_reducible apply deferredOk_keeps)
    | (with_reducible apply rejectWith_keeps)
    | (with_reducible apply endRun_keeps)
    | split
    | dsimp only

theorem execDeferredDone_keeps (data : List Byte) (s : State) {nx : State} (hn : execDeferredDone data s = .next nx)
    : Keeps true s nx := by
  unfold execDeferredDone at hn
  have hk := Keeps.refl true s
  refine ok_keeps hn ?_
  repeat' first
    | (with_reducible assumption)
    | (intro _)
    | (with_reducible apply ite_keeps)
    | (with_reducible apply deferredDone_keeps)
    | split
    | dsimp only

theorem cancelRings_keeps (b : Nat) (s : State) (hk : Keeps fz s0 s) : Keeps fz s0 (cancelRings b s) := by
  unfold cancelRings
  repeat' first
    | (with_reducible assumption)
    | (intro _)
    | (with_reducible apply ite_keeps)
    | split
    | dsimp only
    | (fail_if_no_progress with_reducible refine Keeps.updMk ?_ rfl rfl rfl rfl rfl rfl rfl)

theorem quiesce_keeps (b : Nat) (s : State) (hk : Keeps fz s0 s) : Keeps fz s0 (quiesce b s) := by
  unfold quiesce
  repeat' first
    | (with_reducible assumption)
    | (intro _)
    | (with_reducible apply ite_keeps)
    | (with_reducible apply State.onBakery_keeps)
    | (with_reducible apply cancelRings_keeps)
    | (with_reducible apply onChan_keeps)
    | (with_reducible apply proceedAll_keeps)
    | (with_reducible apply foldl_keeps)
    | split
    | dsimp only

theorem stopBakery_keeps (b : Nat) (s : State) (hk : Keeps fz s0 s) : Keeps fz s0 (stopBakery b s) := by
  unfold stopBakery
  repeat' first
    | (with_reducible assumption)
    | (intro _)
    | (with_reducible apply ite_keeps)
    | (with_reducible apply stopJob_keeps)
    | (with_reducible apply foldl_keeps)
    | split
    | dsimp only

theorem resume_keeps (b : Nat) (chans : List Nat) (s : State) (hk : Keeps fz s0 s) : Keeps fz s0 (resume b chans s)
    := by
  unfold resume
  repeat' first
    | (with_reducible assumption)
    | (intro _)
    | (with_reducible apply ite_keeps)
    | (with_reducible apply State.onBakery_keeps)
    | (with_reducible apply State.fset_keeps)
    | (with_reducible apply onChan_keeps)
    | (with_reducible apply proceedAll_keeps)
    | (with_reducible apply foldl_keeps)
    | split
    | dsimp only

theorem patchQuiesce_keeps (s : State) (hk : Keeps fz s0 s) : Keeps fz s0 (patchQuiesce s) := by
  unfold patchQuiesce
  repeat' first
    | (with_reducible assumption)
    | (intro _)
    | (with_reducible apply ite_keeps)
    | (with_reducible apply quiesce_keeps)
    | (with_reducible apply onRun_keeps)
    | split
    | dsimp only

theorem execPatchQuiesce_keeps (s : State) {nx : State} (hn : execPatchQuiesce s = .next nx) : Keeps true s nx := by
  unfold execPatchQuiesce at hn
  have hk := Keeps.refl true s
  refine ok_keeps hn ?_
  repeat' first
    | (with_reducible assumption)
    | (intro _)
    | (with_reducible apply ite_keeps)
    | (with_reducible apply patchQuiesce_keeps)
    | split
    | dsimp only

theorem drainTimeout_keeps (s : State) (hk : Keeps fz s0 s) : Keeps fz s0 (drainTimeout s) := by
  unfold drainTimeout
  repeat' first
    | (with_reducible assumption)
    | (intro _)
    | (with_reducible apply ite_keeps)
    | (with_reducible apply stopBakery_keeps)
    | split
    | dsimp only

theorem execDrainTimeout_keeps (s : State) {nx : State} (hn : execDrainTimeout s = .next nx) : Keeps true s nx := by
  unfold execDrainTimeout at hn
  have hk := Keeps.refl true s
  refine ok_keeps hn ?_
  repeat' first
    | (with_reducible assumption)
    | (intro _)
    | (with_reducible apply ite_keeps)
    | (with_reducible apply drainTimeout_keeps)
    | split
    | dsimp only

theorem failPatch_keeps (r : RcpRun) (x : Reject) (s : State) (hk : Keeps fz s0 s) : Keeps fz s0 (failPatch r x s)
    := by
  unfold failPatch
  repeat' first
    | (with_reducible assumption)
    | (intro _)
    | (with_reducible apply ite_keeps)
    | (with_reducible apply rejectWith_keeps)
    | (with_reducible apply State.fset_keeps)
    | (with_reducible apply setBakState_keeps)
    | (with_reducible apply endRun_keeps)
    | split
    | dsimp only

theorem patchDone_keeps (r : RcpRun) (chans : List Nat) (s : State) (hk : Keeps fz s0 s) : Keeps fz s0 (patchDone r
    chans s) := by
  unfold patchDone
  repeat' first
    | (with_reducible assumption)
    | (intro _)
    | (with_reducible apply ite_keeps)
    | (with_reducible apply resume_keeps)
    | (with_reducible apply refillRacks_keeps)
    | (with_reducible apply State.fset_keeps)
    | (with_reducible apply succeed_keeps)
    | (with_reducible apply setBakState_keeps)
    | (with_reducible apply endRun_keeps)
    | split
    | dsimp only

theorem patchApply_keeps (data : List Byte) (s : State) (hk : Keeps fz s0 s) : Keeps fz s0 (patchApply data s) := by
  unfold patchApply
  repeat' first
    | (with_reducible assumption)
    | (intro _)
    | (with_reducible apply ite_keeps)
    | (with_reducible apply applyAll_keeps)
    | (with_reducible refine applyAll_keeps' (by assumption) ?_)
    | (with_reducible apply failPatch_keeps)
    | (with_reducible apply patchDone_keeps)
    | split
    | dsimp only

theorem execPatchApply_keeps (data : List Byte) (s : State) {nx : State} (hn : execPatchApply data s = .next nx) :
    Keeps true s nx := by
  unfold execPatchApply at hn
  have hk := Keeps.refl true s
  refine ok_keeps hn ?_
  repeat' first
    | (with_reducible assumption)
    | (intro _)
    | (with_reducible apply ite_keeps)
    | (with_reducible apply patchApply_keeps)
    | split
    | dsimp only

theorem sourceFault_keeps (data : List Byte) (sect off : Nat) (s : State) (hk : Keeps fz s0 s) : Keeps fz s0
    (sourceFault data sect off s) := by
  unfold sourceFault
  repeat' first
    | (with_reducible assumption)
    | (intro _)
    | (with_reducible apply ite_keeps)
    | (with_reducible apply applyDeferred_keeps)
    | (with_reducible refine applyDeferred_keeps' (by assumption) ?_)
    | (with_reducible apply rejectWith_keeps)
    | (with_reducible apply endRun_keeps)
    | (with_reducible apply failEarly_keeps)
    | (with_reducible apply applyAll_keeps)
    | (with_reducible refine applyAll_keeps' (by assumption) ?_)
    | (with_reducible apply failLoad_keeps)
    | (with_reducible apply failPatch_keeps)
    | split
    | dsimp only

theorem execSourceFault_keeps (data : List Byte) (sect : BitVec 16) (off : Nat) (s : State) {nx : State} (hn :
    execSourceFault data sect off s = .next nx) : Keeps true s nx := by
  unfold execSourceFault at hn
  have hk := Keeps.refl true s
  refine ok_keeps hn ?_
  repeat' first
    | (with_reducible assumption)
    | (intro _)
    | (with_reducible apply ite_keeps)
    | (with_reducible apply sourceFault_keeps)
    | split
    | dsimp only

end Sys2Proof.Machine
end

