-- ==== Sys2Proof/Laws/KeepsPace.lean ====
section
/-! SUPPORT. What the operations of Machine/Pace.lean keep (Laws/Keeps.lean). -/
namespace Sys2Proof.Machine

variable {fz : Bool} {s0 : State}

theorem onPace_keeps (g : PaceState → PaceState) (s : State) (hk : Keeps fz s0 s) : Keeps fz s0 (onPace g s) := by
  unfold onPace
  repeat' first
    | (with_reducible assumption)
    | (intro _)
    | (with_reducible apply ite_keeps)
    | split
    | dsimp only
    | (fail_if_no_progress with_reducible refine Keeps.updMk ?_ rfl rfl rfl rfl rfl rfl rfl)

theorem paceEvent_keeps (f : Fld) (s : State) (hk : Keeps fz s0 s) : Keeps fz s0 (paceEvent f s) := by
  unfold paceEvent
  repeat' first
    | (with_reducible assumption)
    | (intro _)
    | (with_reducible apply ite_keeps)
    | (with_reducible apply advanceSeq_keeps)
    | (with_reducible apply State.fset_keeps)
    | split
    | dsimp only

theorem avsSend_keeps (s : State) (hk : Keeps fz s0 s) : Keeps fz s0 (avsSend s) := by
  unfold avsSend
  repeat' first
    | (with_reducible assumption)
    | (intro _)
    | (with_reducible apply ite_keeps)
    | (with_reducible apply State.out_keeps)
    | split
    | dsimp only

theorem voltGood_keeps (mv : Nat) (s : State) (hk : Keeps fz s0 s) : Keeps fz s0 (voltGood mv s) := by
  unfold voltGood
  repeat' first
    | (with_reducible assumption)
    | (intro _)
    | (with_reducible apply ite_keeps)
    | split
    | dsimp only
    | (fail_if_no_progress with_reducible refine Keeps.updMk ?_ rfl rfl rfl rfl rfl rfl rfl)

theorem showPower_keeps (s : State) (hk : Keeps fz s0 s) : Keeps fz s0 (showPower s) := by
  unfold showPower
  repeat' first
    | (with_reducible assumption)
    | (intro _)
    | (with_reducible apply ite_keeps)
    | (with_reducible apply State.fset_keeps)
    | split
    | dsimp only

theorem setShort_keeps (m : Nat) (s : State) (hk : Keeps fz s0 s) : Keeps fz s0 (setShort m s) := by
  unfold setShort
  repeat' first
    | (with_reducible assumption)
    | (intro _)
    | (with_reducible apply ite_keeps)
    | (with_reducible apply State.fset_keeps)
    | (with_reducible apply paceEvent_keeps)
    | split
    | dsimp only

theorem setBinding_keeps (b : Nat) (s : State) (hk : Keeps fz s0 s) : Keeps fz s0 (setBinding b s) := by
  unfold setBinding
  repeat' first
    | (with_reducible assumption)
    | (intro _)
    | (with_reducible apply ite_keeps)
    | (with_reducible apply State.fset_keeps)
    | (with_reducible apply paceEvent_keeps)
    | split
    | dsimp only

theorem keepShort_keeps (m : Nat) (s : State) (hk : Keeps fz s0 s) : Keeps fz s0 (keepShort m s) := by
  unfold keepShort
  repeat' first
    | (with_reducible assumption)
    | (intro _)
    | (with_reducible apply ite_keeps)
    | (with_reducible apply setShort_keeps)
    | split
    | dsimp only

theorem paceDecide_keeps (s : State) (hk : Keeps fz s0 s) : Keeps fz s0 (paceDecide s) := by
  unfold paceDecide
  repeat' first
    | (with_reducible assumption)
    | (intro _)
    | (with_reducible apply ite_keeps)
    | (with_reducible apply keepShort_keeps)
    | (with_reducible apply setBinding_keeps)
    | (with_reducible apply setShort_keeps)
    | (with_reducible apply onPace_keeps)
    | split
    | dsimp only

theorem avsOk_keeps (t : AvsTx) (data : Nat) (s : State) (hk : Keeps fz s0 s) : Keeps fz s0 (avsOk t data s) := by
  unfold avsOk
  repeat' first
    | (with_reducible assumption)
    | (intro _)
    | (with_reducible apply ite_keeps)
    | (with_reducible apply State.fset_keeps)
    | (with_reducible apply onPace_keeps)
    | (with_reducible apply voltGood_keeps)
    | (with_reducible apply showPower_keeps)
    | (with_reducible apply paceDecide_keeps)
    | split
    | dsimp only

theorem paceEnd_keeps (s : State) (hk : Keeps fz s0 s) : Keeps fz s0 (paceEnd s) := by
  unfold paceEnd
  repeat' first
    | (with_reducible assumption)
    | (intro _)
    | (with_reducible apply ite_keeps)
    | (with_reducible apply paceEvent_keeps)
    | (with_reducible apply State.fset_keeps)
    | (with_reducible apply onPace_keeps)
    | split
    | dsimp only

theorem avsNext_keeps (s : State) (hk : Keeps fz s0 s) : Keeps fz s0 (avsNext s) := by
  unfold avsNext
  repeat' first
    | (with_reducible assumption)
    | (intro _)
    | (with_reducible apply ite_keeps)
    | (with_reducible apply paceEnd_keeps)
    | (with_reducible apply avsSend_keeps)
    | split
    | dsimp only

theorem avsAttempt_keeps (good : Bool) (data : Nat) (s : State) (hk : Keeps fz s0 s) : Keeps fz s0 (avsAttempt good
    data s) := by
  unfold avsAttempt
  repeat' first
    | (with_reducible assumption)
    | (intro _)
    | (with_reducible apply ite_keeps)
    | (with_reducible apply onPace_keeps)
    | (with_reducible apply avsNext_keeps)
    | (with_reducible apply avsOk_keeps)
    | (with_reducible apply State.fsat_keeps)
    | (with_reducible apply avsSend_keeps)
    | (with_reducible apply paceDecide_keeps)
    | split
    | dsimp only

theorem execAvsAttemptDone_keeps (good : Bool) (data : BitVec 16) (s : State) {nx : State} (hn : execAvsAttemptDone
    good data s = .next nx) : Keeps true s nx := by
  unfold execAvsAttemptDone at hn
  have hk := Keeps.refl true s
  refine ok_keeps hn ?_
  repeat' first
    | (with_reducible assumption)
    | (intro _)
    | (with_reducible apply ite_keeps)
    | (with_reducible apply avsAttempt_keeps)
    | split
    | dsimp only

theorem paceEnLow_keeps (s : State) (hk : Keeps fz s0 s) : Keeps fz s0 (paceEnLow s) := by
  unfold paceEnLow
  repeat' first
    | (with_reducible assumption)
    | (intro _)
    | (with_reducible apply ite_keeps)
    | (with_reducible apply onPace_keeps)
    | (with_reducible apply State.fset_keeps)
    | split
    | dsimp only

theorem paceEnHigh_keeps (s : State) (hk : Keeps fz s0 s) : Keeps fz s0 (paceEnHigh s) := by
  unfold paceEnHigh
  repeat' first
    | (with_reducible assumption)
    | (intro _)
    | (with_reducible apply ite_keeps)
    | (with_reducible apply onPace_keeps)
    | (with_reducible apply showPower_keeps)
    | split
    | dsimp only

theorem riseWindow_keeps (s : State) (hk : Keeps fz s0 s) : Keeps fz s0 (riseWindow s) := by
  unfold riseWindow
  repeat' first
    | (with_reducible assumption)
    | (intro _)
    | (with_reducible apply ite_keeps)
    | (with_reducible apply onPace_keeps)
    | (with_reducible apply State.fset_keeps)
    | split
    | dsimp only

theorem execRiseCutWindow_keeps (s : State) {nx : State} (hn : execRiseCutWindow s = .next nx) : Keeps true s nx :=
    by
  unfold execRiseCutWindow at hn
  have hk := Keeps.refl true s
  refine ok_keeps hn ?_
  repeat' first
    | (with_reducible assumption)
    | (intro _)
    | (with_reducible apply ite_keeps)
    | (with_reducible apply riseWindow_keeps)
    | split
    | dsimp only

theorem paceSample_keeps (sent : List (Nat × Nat)) (crust : List Nat) (s : State) (hk : Keeps fz s0 s) : Keeps fz s0
    (paceSample sent crust s) := by
  unfold paceSample
  repeat' first
    | (with_reducible assumption)
    | (intro _)
    | (with_reducible apply ite_keeps)
    | (with_reducible apply State.fset_keeps)
    | (with_reducible apply State.setReg_keeps)
    | (with_reducible apply foldl_keeps)
    | split
    | dsimp only

theorem paceThrottle_keeps (s : State) (hk : Keeps fz s0 s) : Keeps fz s0 (paceThrottle s) := by
  unfold paceThrottle
  repeat' first
    | (with_reducible assumption)
    | (intro _)
    | (with_reducible apply ite_keeps)
    | (with_reducible apply paceEvent_keeps)
    | (with_reducible apply State.fset_keeps)
    | (with_reducible apply onPace_keeps)
    | split
    | dsimp only

theorem paceLatch_keeps (s : State) (hk : Keeps fz s0 s) : Keeps fz s0 (paceLatch s) := by
  unfold paceLatch
  repeat' first
    | (with_reducible assumption)
    | (intro _)
    | (with_reducible apply ite_keeps)
    | (with_reducible apply State.setReg_keeps)
    | (with_reducible apply State.fset_keeps)
    | (with_reducible apply onPace_keeps)
    | (with_reducible apply foldl_keeps)
    | split
    | dsimp only

theorem paceWindow_keeps (s : State) (hk : Keeps fz s0 s) : Keeps fz s0 (paceWindow s) := by
  unfold paceWindow
  repeat' first
    | (with_reducible assumption)
    | (intro _)
    | (with_reducible apply ite_keeps)
    | (with_reducible apply onPace_keeps)
    | split
    | dsimp only

theorem paceCeil_keeps (s : State) (hk : Keeps fz s0 s) : Keeps fz s0 (paceCeil s) := by
  unfold paceCeil
  repeat' first
    | (with_reducible assumption)
    | (intro _)
    | (with_reducible apply ite_keeps)
    | (with_reducible apply State.fset_keeps)
    | (with_reducible apply paceEvent_keeps)
    | (with_reducible apply onPace_keeps)
    | split
    | dsimp only

theorem paceIssue_keeps (s : State) (hk : Keeps fz s0 s) : Keeps fz s0 (paceIssue s) := by
  unfold paceIssue
  repeat' first
    | (with_reducible assumption)
    | (intro _)
    | (with_reducible apply ite_keeps)
    | (with_reducible apply avsSend_keeps)
    | (with_reducible apply onPace_keeps)
    | split
    | dsimp only

theorem paceTick_keeps (sent : List (Nat × Nat)) (crust : List Nat) (s : State) (hk : Keeps fz s0 s) : Keeps fz s0
    (paceTick sent crust s) := by
  unfold paceTick
  repeat' first
    | (with_reducible assumption)
    | (intro _)
    | (with_reducible apply ite_keeps)
    | (with_reducible apply riseWindow_keeps)
    | (with_reducible apply paceLatch_keeps)
    | (with_reducible apply onPace_keeps)
    | (with_reducible apply paceThrottle_keeps)
    | (with_reducible apply paceSample_keeps)
    | (with_reducible apply orbTick_keeps)
    | (with_reducible apply paceCeil_keeps)
    | (with_reducible apply paceWindow_keeps)
    | (with_reducible apply State.fset_keeps)
    | (with_reducible apply paceIssue_keeps)
    | (with_reducible apply paceDecide_keeps)
    | split
    | dsimp only

theorem execPaceTick_keeps (sent : List (Nat × Nat)) (crust : List Nat) (s : State) {nx : State} (hn : execPaceTick
    sent crust s = .next nx) : Keeps true s nx := by
  unfold execPaceTick at hn
  have hk := Keeps.refl true s
  refine ok_keeps hn ?_
  repeat' first
    | (with_reducible assumption)
    | (intro _)
    | (with_reducible apply ite_keeps)
    | (with_reducible apply paceTick_keeps)
    | split
    | dsimp only

theorem actPaceAck_keeps (v : Word) (s : State) (hk : Keeps fz s0 s) : Keeps fz s0 (actPaceAck v s) := by
  unfold actPaceAck
  repeat' first
    | (with_reducible assumption)
    | (intro _)
    | (with_reducible apply ite_keeps)
    | (with_reducible apply onPace_keeps)
    | split
    | dsimp only

theorem execPaceEvtAck_keeps (f : HostFn) (seq : Word) (s : State) {nx : State} (hn : execPaceEvtAck f seq s = .next
    nx) : Keeps true s nx := by
  unfold execPaceEvtAck at hn
  have hk := Keeps.refl true s
  refine ok_keeps hn ?_
  repeat' first
    | (with_reducible assumption)
    | (intro _)
    | (with_reducible apply ite_keeps)
    | (with_reducible apply hostWrite_keeps)
    | (with_reducible apply actPaceAck_keeps)
    | split
    | dsimp only

end Sys2Proof.Machine
end

