-- ==== Sys2Proof/Laws/KeepsPcie.lean ====
section
/-! SUPPORT. What the operations of Machine/Pcie.lean keep (Laws/Keeps.lean). -/
namespace Sys2Proof.Machine

variable {fz : Bool} {s0 : State}

theorem flushPending_keeps (f : HostFn) (s : State) (hk : Keeps fz s0 s) : Keeps fz s0 (flushPending f s) := by
  unfold flushPending
  repeat' first
    | (with_reducible assumption)
    | (intro _)
    | (with_reducible apply ite_keeps)
    | (with_reducible apply messageDue_keeps)
    | (with_reducible apply State.setMsix_keeps)
    | (with_reducible apply foldl_keeps)
    | split
    | dsimp only

theorem resetFnConfig_keeps (f : HostFn) (s : State) (hk : Keeps fz s0 s) : Keeps fz s0 (resetFnConfig f s) := by
  unfold resetFnConfig
  repeat' first
    | (with_reducible assumption)
    | (intro _)
    | (with_reducible apply ite_keeps)
    | split
    | dsimp only
    | (fail_if_no_progress with_reducible refine Keeps.updMk ?_ rfl rfl rfl rfl rfl rfl rfl)

theorem resetFn_keeps (f : HostFn) (s : State) (hk : Keeps fz s0 s) : Keeps fz s0 (resetFn f s) := by
  unfold resetFn
  repeat' first
    | (with_reducible assumption)
    | (intro _)
    | (with_reducible apply ite_keeps)
    | (with_reducible apply resetFnConfig_keeps)
    | (with_reducible apply resetContexts_keeps)
    | split
    | dsimp only

theorem dropVfs_keeps (p : PPort) (s : State) (hk : Keeps fz s0 s) : Keeps fz s0 (dropVfs p s) := by
  unfold dropVfs
  repeat' first
    | (with_reducible assumption)
    | (intro _)
    | (with_reducible apply ite_keeps)
    | (with_reducible apply resetFn_keeps)
    | (with_reducible apply State.setCfgWord_keeps)
    | (with_reducible apply foldl_keeps)
    | split
    | dsimp only

theorem okConfig_keeps {f : HostFn} {g : State → State} {s t : State} (e : okConfig f g s = .next t)
    (hg : Keeps true s (g s)) : Keeps true s t :=
  ok_keeps e (ite_keeps (State.out_keeps _ _ (Keeps.refl _ _)) hg)

theorem flr_keeps (f : HostFn) (s : State) (hk : Keeps fz s0 s) : Keeps fz s0 (flr f s) := by
  unfold flr
  repeat' first
    | (with_reducible assumption)
    | (intro _)
    | (with_reducible apply ite_keeps)
    | (with_reducible apply resetFn_keeps)
    | (with_reducible apply dropVfs_keeps)
    | split
    | dsimp only

theorem execFlr_keeps (f : HostFn) (s : State) {nx : State} (hn : execFlr f s = .next nx) : Keeps true s nx := by
  unfold execFlr at hn
  have hk := Keeps.refl true s
  refine okConfig_keeps hn ?_
  repeat' first
    | (with_reducible assumption)
    | (intro _)
    | (with_reducible apply ite_keeps)
    | (with_reducible apply flr_keeps)
    | split
    | dsimp only

theorem resetPort_keeps (p : PPort) (s : State) (hk : Keeps fz s0 s) : Keeps fz s0 (resetPort p s) := by
  unfold resetPort
  repeat' first
    | (with_reducible assumption)
    | (intro _)
    | (with_reducible apply ite_keeps)
    | (with_reducible apply resetFn_keeps)
    | (with_reducible apply dropVfs_keeps)
    | split
    | dsimp only

theorem execHotReset_keeps (p : PPort) (s : State) {nx : State} (hn : execHotReset p s = .next nx) : Keeps true s nx
    := by
  unfold execHotReset at hn
  have hk := Keeps.refl true s
  refine ok_keeps hn ?_
  repeat' first
    | (with_reducible assumption)
    | (intro _)
    | (with_reducible apply ite_keeps)
    | (with_reducible apply resetPort_keeps)
    | split
    | dsimp only

theorem setVfEnable_keeps (p : PPort) (enable : Bool) (s : State) (hk : Keeps fz s0 s) : Keeps fz s0 (setVfEnable p
    enable s) := by
  unfold setVfEnable
  repeat' first
    | (with_reducible assumption)
    | (intro _)
    | (with_reducible apply ite_keeps)
    | (with_reducible apply State.setCfgWord_keeps)
    | (with_reducible apply dropVfs_keeps)
    | split
    | dsimp only

theorem execVfEnableWrite_keeps (p : PPort) (enable : Bool) (s : State) {nx : State} (hn : execVfEnableWrite p
    enable s = .next nx) : Keeps true s nx := by
  unfold execVfEnableWrite at hn
  have hk := Keeps.refl true s
  refine okConfig_keeps hn ?_
  repeat' first
    | (with_reducible assumption)
    | (intro _)
    | (with_reducible apply ite_keeps)
    | (with_reducible apply setVfEnable_keeps)
    | split
    | dsimp only

theorem d3hot_keeps (f : HostFn) (s : State) (hk : Keeps fz s0 s) : Keeps fz s0 (d3hot f s) := by
  unfold d3hot
  repeat' first
    | (with_reducible assumption)
    | (intro _)
    | (with_reducible apply ite_keeps)
    | (with_reducible apply State.setCfgWord_keeps)
    | split
    | dsimp only

theorem execD3hot_keeps (f : HostFn) (s : State) {nx : State} (hn : execD3hot f s = .next nx) : Keeps true s nx :=
    by
  unfold execD3hot at hn
  have hk := Keeps.refl true s
  refine okConfig_keeps hn ?_
  repeat' first
    | (with_reducible assumption)
    | (intro _)
    | (with_reducible apply ite_keeps)
    | (with_reducible apply d3hot_keeps)
    | split
    | dsimp only

theorem configWrite_keeps (f : HostFn) (off be : Nat) (data : Word) (s : State) (hk : Keeps fz s0 s) : Keeps fz s0
    (configWrite f off be data s) := by
  unfold configWrite
  repeat' first
    | (with_reducible assumption)
    | (intro _)
    | (with_reducible apply ite_keeps)
    | (with_reducible apply flr_keeps)
    | (with_reducible apply dropVfs_keeps)
    | (with_reducible apply flushPending_keeps)
    | (with_reducible apply State.setCfgWord_keeps)
    | split
    | dsimp only

theorem execConfigWrite_keeps (f : HostFn) (off : Nat) (be : BitVec 4) (data : Word) (s : State) {nx : State} (hn :
    execConfigWrite f off be data s = .next nx) : Keeps true s nx := by
  unfold execConfigWrite at hn
  have hk := Keeps.refl true s
  refine okConfig_keeps hn ?_
  repeat' first
    | (with_reducible assumption)
    | (intro _)
    | (with_reducible apply ite_keeps)
    | (with_reducible apply configWrite_keeps)
    | split
    | dsimp only

theorem setLink_keeps (p : PPort) (k : PLink) (s : State) (hk : Keeps fz s0 s) : Keeps fz s0 (setLink p k s) := by
  unfold setLink
  repeat' first
    | (with_reducible assumption)
    | (intro _)
    | (with_reducible apply ite_keeps)
    | (with_reducible apply sbdEvent_keeps)
    | split
    | dsimp only
    | (fail_if_no_progress with_reducible refine Keeps.updMk ?_ rfl rfl rfl rfl rfl rfl rfl)

theorem endReads_keeps (p : PPort) (s : State) (hk : Keeps fz s0 s) : Keeps fz s0 (endReads p s) := by
  unfold endReads
  repeat' first
    | (with_reducible assumption)
    | (intro _)
    | (with_reducible apply ite_keeps)
    | (with_reducible apply logHostRead_keeps)
    | (with_reducible apply dropHostRead_keeps)
    | (with_reducible apply resolveOp_keeps)
    | (with_reducible apply foldl_keeps)
    | split
    | dsimp only

theorem dlDown_keeps (p : PPort) (s : State) (hk : Keeps fz s0 s) : Keeps fz s0 (dlDown p s) := by
  unfold dlDown
  repeat' first
    | (with_reducible assumption)
    | (intro _)
    | (with_reducible apply ite_keeps)
    | (with_reducible apply State.fadd_keeps)
    | (with_reducible apply setLink_keeps)
    | (with_reducible apply resetPort_keeps)
    | (with_reducible apply endReads_keeps)
    | split
    | dsimp only

theorem execDlDown_keeps (p : PPort) (s : State) {nx : State} (hn : execDlDown p s = .next nx) : Keeps true s nx :=
    by
  unfold execDlDown at hn
  have hk := Keeps.refl true s
  refine ok_keeps hn ?_
  repeat' first
    | (with_reducible assumption)
    | (intro _)
    | (with_reducible apply ite_keeps)
    | (with_reducible apply dlDown_keeps)
    | split
    | dsimp only

theorem dlUp_keeps (p : PPort) (gen width : Nat) (s : State) (hk : Keeps fz s0 s) : Keeps fz s0 (dlUp p gen width s)
    := by
  unfold dlUp
  repeat' first
    | (with_reducible assumption)
    | (intro _)
    | (with_reducible apply ite_keeps)
    | (with_reducible apply setLink_keeps)
    | split
    | dsimp only
    | (fail_if_no_progress with_reducible refine Keeps.updMk ?_ rfl rfl rfl rfl rfl rfl rfl)

theorem execDlUp_keeps (p : PPort) (gen : Fin 6) (width : Fin 5) (s : State) {nx : State} (hn : execDlUp p gen width
    s = .next nx) : Keeps true s nx := by
  unfold execDlUp at hn
  have hk := Keeps.refl true s
  refine ok_keeps hn ?_
  repeat' first
    | (with_reducible assumption)
    | (intro _)
    | (with_reducible apply ite_keeps)
    | (with_reducible apply dlUp_keeps)
    | split
    | dsimp only

theorem aspm_keeps (p : PPort) (l0 : Bool) (s : State) (hk : Keeps fz s0 s) : Keeps fz s0 (aspm p l0 s) := by
  unfold aspm
  repeat' first
    | (with_reducible assumption)
    | (intro _)
    | (with_reducible apply ite_keeps)
    | (with_reducible apply setLink_keeps)
    | split
    | dsimp only

theorem execAspmL1Entry_keeps (p : PPort) (s : State) {nx : State} (hn : execAspmL1Entry p s = .next nx) : Keeps
    true s nx := by
  unfold execAspmL1Entry at hn
  have hk := Keeps.refl true s
  refine ok_keeps hn ?_
  repeat' first
    | (with_reducible assumption)
    | (intro _)
    | (with_reducible apply ite_keeps)
    | (with_reducible apply aspm_keeps)
    | split
    | dsimp only

theorem execAspmL1Exit_keeps (p : PPort) (s : State) {nx : State} (hn : execAspmL1Exit p s = .next nx) : Keeps true
    s nx := by
  unfold execAspmL1Exit at hn
  have hk := Keeps.refl true s
  refine ok_keeps hn ?_
  repeat' first
    | (with_reducible assumption)
    | (intro _)
    | (with_reducible apply ite_keeps)
    | (with_reducible apply aspm_keeps)
    | split
    | dsimp only

theorem aerError_keeps (p : PPort) (bit : Nat) (s : State) (hk : Keeps fz s0 s) : Keeps fz s0 (aerError p bit s) :=
    by
  unfold aerError
  repeat' first
    | (with_reducible assumption)
    | (intro _)
    | (with_reducible apply ite_keeps)
    | (with_reducible apply State.setCfgWord_keeps)
    | split
    | dsimp only

theorem execUnsupportedRequest_keeps (f : HostFn) (s : State) {nx : State} (hn : execUnsupportedRequest f s = .next
    nx) : Keeps true s nx := by
  unfold execUnsupportedRequest at hn
  have hk := Keeps.refl true s
  refine ok_keeps hn ?_
  repeat' first
    | (with_reducible assumption)
    | (intro _)
    | (with_reducible apply ite_keeps)
    | (with_reducible apply State.out_keeps)
    | (with_reducible apply aerError_keeps)
    | split
    | dsimp only

theorem execPoisonedTlpReceived_keeps (f : HostFn) (s : State) {nx : State} (hn : execPoisonedTlpReceived f s =
    .next nx) : Keeps true s nx := by
  unfold execPoisonedTlpReceived at hn
  have hk := Keeps.refl true s
  refine ok_keeps hn ?_
  repeat' first
    | (with_reducible assumption)
    | (intro _)
    | (with_reducible apply ite_keeps)
    | (with_reducible apply aerError_keeps)
    | split
    | dsimp only

theorem execEcrcError_keeps (f : HostFn) (s : State) {nx : State} (hn : execEcrcError f s = .next nx) : Keeps true s
    nx := by
  unfold execEcrcError at hn
  have hk := Keeps.refl true s
  refine ok_keeps hn ?_
  repeat' first
    | (with_reducible assumption)
    | (intro _)
    | (with_reducible apply ite_keeps)
    | (with_reducible apply aerError_keeps)
    | split
    | dsimp only

theorem setMask_keeps (f : HostFn) (v : Nat) (mask : Bool) (s : State) (hk : Keeps fz s0 s) : Keeps fz s0 (setMask f
    v mask s) := by
  unfold setMask
  repeat' first
    | (with_reducible assumption)
    | (intro _)
    | (with_reducible apply ite_keeps)
    | (with_reducible apply flushPending_keeps)
    | (with_reducible apply State.setMsix_keeps)
    | split
    | dsimp only

theorem execMsixUnmask_keeps (f : HostFn) (v : Fin 2048) (s : State) {nx : State} (hn : execMsixUnmask f v s = .next
    nx) : Keeps true s nx := by
  unfold execMsixUnmask at hn
  have hk := Keeps.refl true s
  refine ok_keeps hn ?_
  repeat' first
    | (with_reducible assumption)
    | (intro _)
    | (with_reducible apply ite_keeps)
    | (with_reducible apply setMask_keeps)
    | split
    | dsimp only

theorem bar4Read_keeps (f : HostFn) (off len : Nat) (err : List MemErr) (e : ExtReply) (s : State) (hk : Keeps fz s0
    s) : Keeps fz s0 (bar4Read f off len err e s) := by
  unfold bar4Read
  repeat' first
    | (with_reducible assumption)
    | (intro _)
    | (with_reducible apply ite_keeps)
    | (with_reducible apply State.out_keeps)
    | (with_reducible apply aerError_keeps)
    | (with_reducible apply readBytes_keeps)
    | (with_reducible refine readBytes_keeps' (by assumption) ?_)
    | split
    | dsimp only

theorem execBar4Read_keeps (f : HostFn) (off len : Nat) (err : List MemErr) (e : ExtReply) (s : State) {nx : State}
    (hn : execBar4Read f off len err e s = .next nx) : Keeps true s nx := by
  unfold execBar4Read at hn
  have hk := Keeps.refl true s
  refine ok_keeps hn ?_
  repeat' first
    | (with_reducible assumption)
    | (intro _)
    | (with_reducible apply ite_keeps)
    | (with_reducible apply bar4Read_keeps)
    | split
    | dsimp only

theorem bar4Write_keeps (f : HostFn) (off : Nat) (data : List Byte) (en : Nat) (ep : Bool) (err : List MemErr) (e :
    ExtReply) (s : State) (hk : Keeps fz s0 s) : Keeps fz s0 (bar4Write f off data en ep err e s) := by
  unfold bar4Write
  repeat' first
    | (with_reducible assumption)
    | (intro _)
    | (with_reducible apply ite_keeps)
    | (with_reducible apply aerError_keeps)
    | (with_reducible apply writeRuns_keeps)
    | (with_reducible refine writeRuns_keeps' (by assumption) ?_)
    | split
    | dsimp only

theorem execBar4Write_keeps (f : HostFn) (off : Nat) (data : List Byte) (en : Nat) (ep : Bool) (err : List MemErr)
    (e : ExtReply) (s : State) {nx : State} (hn : execBar4Write f off data en ep err e s = .next nx) : Keeps true s
    nx := by
  unfold execBar4Write at hn
  have hk := Keeps.refl true s
  refine ok_keeps hn ?_
  repeat' first
    | (with_reducible assumption)
    | (intro _)
    | (with_reducible apply ite_keeps)
    | (with_reducible apply bar4Write_keeps)
    | split
    | dsimp only

end Sys2Proof.Machine
end

