-- ==== Sys2Proof/Laws/KeepsVideoIn.lean ====
section
/-! SUPPORT. What the operations of Machine/VideoIn.lean keep (Laws/Keeps.lean). -/
namespace Sys2Proof.Machine

variable {fz : Bool} {s0 : State}

theorem vinEvent_keeps (s : State) (hk : Keeps fz s0 s) : Keeps fz s0 (vinEvent s) := by
  unfold vinEvent
  repeat' first
    | (with_reducible assumption)
    | (intro _)
    | (with_reducible apply ite_keeps)
    | (with_reducible apply advanceSeq_keeps)
    | split
    | dsimp only

theorem rxPacket_keeps (p v : Nat) (corrected : Bool) (g : Nat → SChan → State → State) (s : State) (hg : ∀ (a0 :
    Nat) (a1 : SChan) (s : State), Keeps fz s0 s → Keeps fz s0 (g a0 a1 s)) (hk : Keeps fz s0 s) : Keeps fz s0
    (rxPacket p v corrected g s) := by
  unfold rxPacket
  repeat' first
    | (with_reducible assumption)
    | (intro _)
    | (with_reducible apply ite_keeps)
    | (apply hg)
    | (with_reducible apply State.fadd_keeps)
    | split
    | dsimp only

theorem setOpen_keeps (p v : Nat) (x : RxFrame) (s : State) (hk : Keeps fz s0 s) : Keeps fz s0 (setOpen p v x s) :=
    by
  unfold setOpen
  repeat' first
    | (with_reducible assumption)
    | (intro _)
    | (with_reducible apply ite_keeps)
    | split
    | dsimp only
    | (fail_if_no_progress with_reducible refine Keeps.updMk ?_ rfl rfl rfl rfl rfl rfl rfl)

theorem closeShort_keeps (p v : Nat) (s : State) (hk : Keeps fz s0 s) : Keeps fz s0 (closeShort p v s) := by
  unfold closeShort
  repeat' first
    | (with_reducible assumption)
    | (intro _)
    | (with_reducible apply ite_keeps)
    | (with_reducible apply State.fadd_keeps)
    | (with_reducible apply vinEvent_keeps)
    | split
    | dsimp only
    | (fail_if_no_progress with_reducible refine Keeps.updMk ?_ rfl rfl rfl rfl rfl rfl rfl)

theorem frameStartPacket_keeps (p v number k : Nat) (c : SChan) (s : State) (hk : Keeps fz s0 s) : Keeps fz s0
    (frameStartPacket p v number k c s) := by
  unfold frameStartPacket
  repeat' first
    | (with_reducible assumption)
    | (intro _)
    | (with_reducible apply ite_keeps)
    | (with_reducible apply closeShort_keeps)
    | (with_reducible apply State.fadd_keeps)
    | (with_reducible apply setOpen_keeps)
    | (with_reducible apply onChan_keeps)
    | (with_reducible apply arriveTrigger_keeps)
    | split
    | dsimp only

theorem execFrameStartPacket_keeps (p : Fin 2) (vc : Fin 16) (number : BitVec 16) (corrected : Bool) (s : State) {nx
    : State} (hn : execFrameStartPacket p vc number corrected s = .next nx) : Keeps true s nx := by
  unfold execFrameStartPacket at hn
  have hk := Keeps.refl true s
  refine ok_keeps hn ?_
  repeat' first
    | (with_reducible assumption)
    | (intro _)
    | (with_reducible apply ite_keeps)
    | (with_reducible apply rxPacket_keeps)
    | (with_reducible apply frameStartPacket_keeps)
    | split
    | dsimp only

theorem writeLine_keeps (vc frame k x0 x1 : Nat) (x2 : List Byte) (s : State) (hk : Keeps fz s0 s) : Keeps fz s0
    (writeLine vc frame k x0 x1 x2 s) := by
  induction x0 generalizing x1 x2 s with
  | zero => simpa only [writeLine] using hk
  | succ fuel ih =>
    rw [writeLine]
    repeat' first
      | (with_reducible assumption)
      | (intro _)
      | (with_reducible apply ite_keeps)
      | (with_reducible apply addReq_keeps)
      | (with_reducible apply issueRemote_keeps)
      | (with_reducible apply writePiece_keeps)
      | (with_reducible refine writePiece_keeps' (by assumption) ?_)
      | (with_reducible apply ih)
      | split
      | dsimp only

theorem longPacket_keeps (p v dt : Nat) (data : List Byte) (crcOk : Bool) (k : Nat) (s : State) (hk : Keeps fz s0 s)
    : Keeps fz s0 (longPacket p v dt data crcOk k s) := by
  unfold longPacket
  repeat' first
    | (with_reducible assumption)
    | (intro _)
    | (with_reducible apply ite_keeps)
    | (with_reducible apply State.fadd_keeps)
    | (with_reducible apply setOpen_keeps)
    | (with_reducible apply writeLine_keeps)
    | split
    | dsimp only

theorem execLongPacket_keeps (p : Fin 2) (vc : Fin 16) (dt : BitVec 6) (data : List Byte) (crcOk corrected : Bool)
    (s : State) {nx : State} (hn : execLongPacket p vc dt data crcOk corrected s = .next nx) : Keeps true s nx := by
  unfold execLongPacket at hn
  have hk := Keeps.refl true s
  refine ok_keeps hn ?_
  repeat' first
    | (with_reducible assumption)
    | (intro _)
    | (with_reducible apply ite_keeps)
    | (with_reducible apply rxPacket_keeps)
    | (with_reducible apply longPacket_keeps)
    | split
    | dsimp only

theorem frameEndPacket_keeps (p v : Nat) (s : State) (hk : Keeps fz s0 s) : Keeps fz s0 (frameEndPacket p v s) := by
  unfold frameEndPacket
  repeat' first
    | (with_reducible assumption)
    | (intro _)
    | (with_reducible apply ite_keeps)
    | split
    | dsimp only
    | (fail_if_no_progress with_reducible refine Keeps.updMk ?_ rfl rfl rfl rfl rfl rfl rfl)

theorem execFrameEndPacket_keeps (p : Fin 2) (vc : Fin 16) (corrected : Bool) (s : State) {nx : State} (hn :
    execFrameEndPacket p vc corrected s = .next nx) : Keeps true s nx := by
  unfold execFrameEndPacket at hn
  have hk := Keeps.refl true s
  refine ok_keeps hn ?_
  repeat' first
    | (with_reducible assumption)
    | (intro _)
    | (with_reducible apply ite_keeps)
    | (with_reducible apply rxPacket_keeps)
    | (with_reducible apply frameEndPacket_keeps)
    | split
    | dsimp only

theorem otherPacket_keeps (p v : Nat) (x : RxOther) (s : State) (hk : Keeps fz s0 s) : Keeps fz s0 (otherPacket p v
    x s) := by
  unfold otherPacket
  repeat' first
    | (with_reducible assumption)
    | (intro _)
    | (with_reducible apply ite_keeps)
    | (with_reducible apply State.fadd_keeps)
    | (with_reducible apply rxPacket_keeps)
    | split
    | dsimp only

theorem execOtherPacket_keeps (p : Fin 2) (vc : Fin 16) (x : RxOther) (s : State) {nx : State} (hn : execOtherPacket
    p vc x s = .next nx) : Keeps true s nx := by
  unfold execOtherPacket at hn
  have hk := Keeps.refl true s
  refine ok_keeps hn ?_
  repeat' first
    | (with_reducible assumption)
    | (intro _)
    | (with_reducible apply ite_keeps)
    | (with_reducible apply otherPacket_keeps)
    | split
    | dsimp only

theorem frameDone_keeps (p v : Nat) (s : State) (hk : Keeps fz s0 s) : Keeps fz s0 (frameDone p v s) := by
  unfold frameDone
  repeat' first
    | (with_reducible assumption)
    | (intro _)
    | (with_reducible apply ite_keeps)
    | (with_reducible apply State.fset_keeps)
    | (with_reducible apply State.fadd_keeps)
    | (with_reducible apply State.setPair_keeps)
    | (with_reducible apply vinEvent_keeps)
    | split
    | dsimp only
    | (fail_if_no_progress with_reducible refine Keeps.updMk ?_ rfl rfl rfl rfl rfl rfl rfl)

theorem execMipiFrameDone_keeps (p : Fin 2) (vc : Fin 16) (s : State) {nx : State} (hn : execMipiFrameDone p vc s =
    .next nx) : Keeps true s nx := by
  unfold execMipiFrameDone at hn
  have hk := Keeps.refl true s
  refine ok_keeps hn ?_
  repeat' first
    | (with_reducible assumption)
    | (intro _)
    | (with_reducible apply ite_keeps)
    | (with_reducible apply frameDone_keeps)
    | split
    | dsimp only

theorem rxState_keeps (p st : Nat) (s : State) (hk : Keeps fz s0 s) : Keeps fz s0 (rxState p st s) := by
  unfold rxState
  repeat' first
    | (with_reducible assumption)
    | (intro _)
    | (with_reducible apply ite_keeps)
    | (with_reducible apply vinEvent_keeps)
    | (with_reducible apply State.fset_keeps)
    | split
    | dsimp only

theorem execMipiPortStateChange_keeps (p : Fin 2) (st : Fin 4) (s : State) {nx : State} (hn :
    execMipiPortStateChange p st s = .next nx) : Keeps true s nx := by
  unfold execMipiPortStateChange at hn
  have hk := Keeps.refl true s
  refine ok_keeps hn ?_
  repeat' first
    | (with_reducible assumption)
    | (intro _)
    | (with_reducible apply ite_keeps)
    | (with_reducible apply rxState_keeps)
    | split
    | dsimp only

end Sys2Proof.Machine
end

