-- ==== Sys2Proof/Laws/KeepsPower.lean ====
section
/-! SUPPORT. What the operations of Machine/Power.lean keep (Laws/Keeps.lean). -/
namespace Sys2Proof.Machine

variable {fz : Bool} {s0 : State}

theorem setDom_keeps (d : Nat) (v : DomState) (s : State) (hk : Keeps fz s0 s) : Keeps fz s0 (setDom d v s) := by
  unfold setDom
  repeat' first
    | (with_reducible assumption)
    | (intro _)
    | (with_reducible apply ite_keeps)
    | split
    | dsimp only
    | (fail_if_no_progress with_reducible refine Keeps.updMk ?_ rfl rfl rfl rfl rfl rfl rfl)

theorem dropRegs_keeps (p : Nat → Bool) (s : State) (hk : Keeps fz s0 s) : Keeps fz s0 (dropRegs p s) :=
  hk.updRegs _ (spWf_filter _ _)

theorem emptyRacks_keeps (n : Nat) (s : State) (hk : Keeps fz s0 s) : Keeps fz s0 (emptyRacks n s) := by
  unfold emptyRacks
  repeat' first
    | (with_reducible assumption)
    | (intro _)
    | (with_reducible apply ite_keeps)
    | (with_reducible apply emptyRack_keeps)
    | (with_reducible apply foldl_keeps)
    | split
    | dsimp only

theorem ovenDark_keeps (n : Nat) (s : State) (hk : Keeps fz s0 s) : Keeps fz s0 (ovenDark n s) := by
  unfold ovenDark
  repeat' first
    | (with_reducible assumption)
    | (intro _)
    | (with_reducible apply ite_keeps)
    | (with_reducible apply emptyRacks_keeps)
    | split
    | dsimp only
    | (fail_if_no_progress with_reducible refine Keeps.updMk ?_ rfl rfl rfl rfl rfl rfl rfl)

theorem nocOff_keeps (s : State) (hk : Keeps fz s0 s) : Keeps fz s0 (nocOff s) := by
  unfold nocOff
  repeat' first
    | (with_reducible assumption)
    | (intro _)
    | (with_reducible apply ite_keeps)
    | split
    | dsimp only
    | (fail_if_no_progress with_reducible refine Keeps.updMk ?_ rfl rfl rfl rfl rfl rfl rfl)

theorem clearPort_keeps (p : PPort) (s : State) (hk : Keeps fz s0 s) : Keeps fz s0 (clearPort p s) := by
  unfold clearPort
  repeat' first
    | (with_reducible assumption)
    | (intro _)
    | (with_reducible apply ite_keeps)
    | split
    | dsimp only
    | (fail_if_no_progress with_reducible refine Keeps.updMk ?_ rfl rfl rfl rfl rfl rfl rfl)

theorem rxDark_keeps (p : Nat) (s : State) (hk : Keeps fz s0 s) : Keeps fz s0 (rxDark p s) := by
  unfold rxDark
  repeat' first
    | (with_reducible assumption)
    | (intro _)
    | (with_reducible apply ite_keeps)
    | (with_reducible apply vinEvent_keeps)
    | split
    | dsimp only
    | (fail_if_no_progress with_reducible refine Keeps.updMk ?_ rfl rfl rfl rfl rfl rfl rfl)

theorem rxBegin_keeps (p : Nat) (s : State) (hk : Keeps fz s0 s) : Keeps fz s0 (rxBegin p s) := by
  unfold rxBegin
  repeat' first
    | (with_reducible assumption)
    | (intro _)
    | (with_reducible apply ite_keeps)
    | (with_reducible apply State.fset_keeps)
    | split
    | dsimp only

theorem groupDark_keeps (q : Nat) (s : State) (hk : Keeps fz s0 s) : Keeps fz s0 (groupDark q s) := by
  unfold groupDark
  repeat' first
    | (with_reducible assumption)
    | (intro _)
    | (with_reducible apply ite_keeps)
    | (with_reducible apply onChan_keeps)
    | (with_reducible apply actStrStop_keeps)
    | (with_reducible apply foldl_keeps)
    | split
    | dsimp only

theorem slicerDark_keeps (k : Nat) (s : State) (hk : Keeps fz s0 s) : Keeps fz s0 (slicerDark k s) := by
  unfold slicerDark
  repeat' first
    | (with_reducible assumption)
    | (intro _)
    | (with_reducible apply ite_keeps)
    | split
    | dsimp only
    | (fail_if_no_progress with_reducible refine Keeps.updMk ?_ rfl rfl rfl rfl rfl rfl rfl)

theorem pantryErase_keeps (lo hi : Nat) (s : State) (hk : Keeps fz s0 s) :
    Keeps fz s0 { s with mem := { s.mem with pantry := spErase lo hi s.mem.pantry } } := by
  refine hk.updMem _ fun w => ?_
  simp only [MemState.wf, Bool.and_eq_true] at w ⊢
  exact ⟨w.1, spWf_spErase _ _ _ w.2⟩

theorem domOff_keeps (d : Nat) (s : State) (hk : Keeps fz s0 s) : Keeps fz s0 (domOff d s) := by
  unfold domOff
  refine ite_keeps (ovenDark_keeps _ _ (hk.updMk rfl rfl rfl rfl rfl rfl rfl)) ?_
  refine ite_keeps (pantryErase_keeps _ _ _ hk) ?_
  refine ite_keeps (slicerDark_keeps _ _ hk) ?_
  refine ite_keeps (nocOff_keeps _ hk) ?_
  refine ite_keeps (clearPort_keeps _ _ (dlDown_keeps _ _ hk)) ?_
  refine ite_keeps (dlDown_keeps _ _ hk) ?_
  refine ite_keeps (clearPort_keeps _ _ (dlDown_keeps _ _ hk)) ?_
  refine ite_keeps (dlDown_keeps _ _ hk) ?_
  refine ite_keeps (rxDark_keeps _ _ hk) ?_
  refine ite_keeps (portOff_keeps _ _ hk) ?_
  refine ite_keeps (foldl_keeps (fun _ _ h => portOff_keeps _ _ h) _ hk) ?_
  refine ite_keeps (actOtgStop_keeps _ _ hk) ?_
  refine ite_keeps (groupDark_keeps _ _ hk) ?_
  refine ite_keeps (channelOff_keeps _ _ hk) ?_
  refine ite_keeps (signalLost_keeps _ _ _ hk) ?_
  refine ite_keeps (signalLost_keeps _ _ _ hk) ?_
  exact ite_keeps (hk.updMk rfl rfl rfl rfl rfl rfl rfl) hk

theorem domOn_keeps (d : Nat) (old : DomState) (s : State) (hk : Keeps fz s0 s) : Keeps fz s0 (domOn d old s) := by
  unfold domOn
  repeat' first
    | (with_reducible assumption)
    | (intro _)
    | (with_reducible apply ite_keeps)
    | (with_reducible apply landSlots_keeps)
    | (with_reducible apply rxBegin_keeps)
    | (with_reducible apply portBegin_keeps)
    | (with_reducible apply beginTraining_keeps)
    | (with_reducible apply orbBegin_keeps)
    | (with_reducible apply foldl_keeps)
    | split
    | dsimp only

theorem domRet_keeps (d : Nat) (s : State) (hk : Keeps fz s0 s) : Keeps fz s0 (domRet d s) := by
  unfold domRet
  repeat' first
    | (with_reducible assumption)
    | (intro _)
    | (with_reducible apply ite_keeps)
    | (with_reducible apply ovenDark_keeps)
    | (with_reducible apply onOven_keeps)
    | split
    | dsimp only

theorem moveDom_keeps (e : Nat × DomState) (s : State) (hk : Keeps fz s0 s) : Keeps fz s0 (moveDom e s) := by
  unfold moveDom
  repeat' first
    | (with_reducible assumption)
    | (intro _)
    | (with_reducible apply ite_keeps)
    | (with_reducible apply domOn_keeps)
    | (with_reducible apply setDom_keeps)
    | (with_reducible apply dropRegs_keeps)
    | (with_reducible apply domOff_keeps)
    | (with_reducible apply domRet_keeps)
    | split
    | dsimp only

theorem powerDone_keeps (s : State) (hk : Keeps fz s0 s) : Keeps fz s0 (powerDone s) := by
  unfold powerDone
  repeat' first
    | (with_reducible assumption)
    | (intro _)
    | (with_reducible apply ite_keeps)
    | (with_reducible apply raiseZen_keeps)
    | split
    | dsimp only

theorem actPwrReq_keeps (d v : Nat) (s : State) (hk : Keeps fz s0 s) : Keeps fz s0 (actPwrReq d v s) := by
  unfold actPwrReq
  repeat' first
    | (with_reducible assumption)
    | (intro _)
    | (with_reducible apply ite_keeps)
    | (with_reducible apply State.fset_keeps)
    | (with_reducible apply powerDone_keeps)
    | split
    | dsimp only
    | (fail_if_no_progress with_reducible refine Keeps.updMk ?_ rfl rfl rfl rfl rfl rfl rfl)

theorem execPwrReqWrite_keeps (f : HostFn) (d : Fin 164) (req : Fin 4) (s : State) {nx : State} (hn :
    execPwrReqWrite f d req s = .next nx) : Keeps true s nx := by
  unfold execPwrReqWrite at hn
  have hk := Keeps.refl true s
  refine ok_keeps hn ?_
  repeat' first
    | (with_reducible assumption)
    | (intro _)
    | (with_reducible apply ite_keeps)
    | (with_reducible apply hostWrite_keeps)
    | (with_reducible apply actPwrReq_keeps)
    | split
    | dsimp only

theorem transitionStart_keeps (d : Nat) (s : State) (hk : Keeps fz s0 s) : Keeps fz s0 (transitionStart d s) := by
  unfold transitionStart
  repeat' first
    | (with_reducible assumption)
    | (intro _)
    | (with_reducible apply ite_keeps)
    | split
    | dsimp only
    | (fail_if_no_progress with_reducible refine Keeps.updMk ?_ rfl rfl rfl rfl rfl rfl rfl)

theorem execDomainTransitionStart_keeps (d : Fin 164) (s : State) {nx : State} (hn : execDomainTransitionStart d s =
    .next nx) : Keeps true s nx := by
  unfold execDomainTransitionStart at hn
  have hk := Keeps.refl true s
  refine ok_keeps hn ?_
  repeat' first
    | (with_reducible assumption)
    | (intro _)
    | (with_reducible apply ite_keeps)
    | (with_reducible apply transitionStart_keeps)
    | split
    | dsimp only

theorem transitionDone_keeps (s : State) (hk : Keeps fz s0 s) : Keeps fz s0 (transitionDone s) := by
  unfold transitionDone
  repeat' first
    | (with_reducible assumption)
    | (intro _)
    | (with_reducible apply ite_keeps)
    | (with_reducible apply powerDone_keeps)
    | (with_reducible apply moveDom_keeps)
    | (with_reducible apply foldl_keeps)
    | split
    | dsimp only
    | (fail_if_no_progress with_reducible refine Keeps.updMk ?_ rfl rfl rfl rfl rfl rfl rfl)

theorem execDomainTransitionDone_keeps (s : State) {nx : State} (hn : execDomainTransitionDone s = .next nx) : Keeps
    true s nx := by
  unfold execDomainTransitionDone at hn
  have hk := Keeps.refl true s
  refine ok_keeps hn ?_
  repeat' first
    | (with_reducible assumption)
    | (intro _)
    | (with_reducible apply ite_keeps)
    | (with_reducible apply transitionDone_keeps)
    | split
    | dsimp only

theorem hearthDark_keeps (s : State) (hk : Keeps fz s0 s) : Keeps fz s0 (hearthDark s) := by
  unfold hearthDark
  repeat' first
    | (with_reducible assumption)
    | (intro _)
    | (with_reducible apply ite_keeps)
    | (with_reducible apply moveDom_keeps)
    | (with_reducible apply foldl_keeps)
    | split
    | dsimp only
    | (fail_if_no_progress with_reducible refine Keeps.updMk ?_ rfl rfl rfl rfl rfl rfl rfl)

theorem driveHearthEn_keeps (level : Bool) (s : State) (hk : Keeps fz s0 s) : Keeps fz s0 (driveHearthEn level s) :=
    by
  unfold driveHearthEn
  repeat' first
    | (with_reducible assumption)
    | (intro _)
    | (with_reducible apply ite_keeps)
    | (with_reducible apply paceEnHigh_keeps)
    | (with_reducible apply paceEnLow_keeps)
    | split
    | dsimp only
    | (fail_if_no_progress with_reducible refine Keeps.updMk ?_ rfl rfl rfl rfl rfl rfl rfl)

theorem hearthLost_keeps (s : State) (hk : Keeps fz s0 s) : Keeps fz s0 (hearthLost s) := by
  unfold hearthLost
  repeat' first
    | (with_reducible assumption)
    | (intro _)
    | (with_reducible apply ite_keeps)
    | (with_reducible apply hearthDark_keeps)
    | split
    | dsimp only
    | (fail_if_no_progress with_reducible refine Keeps.updMk ?_ rfl rfl rfl rfl rfl rfl rfl)

theorem setHearth_keeps (b : Bool) (s : State) (hk : Keeps fz s0 s) : Keeps fz s0 (setHearth b s) := by
  unfold setHearth
  repeat' first
    | (with_reducible assumption)
    | (intro _)
    | (with_reducible apply ite_keeps)
    | split
    | dsimp only
    | (fail_if_no_progress with_reducible refine Keeps.updMk ?_ rfl rfl rfl rfl rfl rfl rfl)

theorem execVddHearthLoss_keeps (s : State) {nx : State} (hn : execVddHearthLoss s = .next nx) : Keeps true s nx :=
    by
  unfold execVddHearthLoss at hn
  have hk := Keeps.refl true s
  repeat' first
    | (split at hn)
    | (injection hn with hn; subst hn)
    | (with_reducible assumption)
    | (intro _)
    | (with_reducible apply ite_keeps)
    | (with_reducible apply hearthLost_keeps)
    | (with_reducible apply setHearth_keeps)
    | split
    | dsimp only

theorem execVddHearthReturn_keeps (s : State) {nx : State} (hn : execVddHearthReturn s = .next nx) : Keeps true s nx
    := by
  unfold execVddHearthReturn at hn
  have hk := Keeps.refl true s
  repeat' first
    | (split at hn)
    | (injection hn with hn; subst hn)
    | (with_reducible assumption)
    | (intro _)
    | (with_reducible apply ite_keeps)
    | (with_reducible apply setHearth_keeps)
    | split
    | dsimp only

theorem execCrustSupplyFault_keeps (sup : CrustSupply) (s : State) {nx : State} (hn : execCrustSupplyFault sup s =
    .next nx) : Keeps true s nx := by
  unfold execCrustSupplyFault at hn
  have hk := Keeps.refl true s
  repeat' first
    | (split at hn)
    | (injection hn with hn; subst hn)
    | (with_reducible assumption)
    | (intro _)
    | (with_reducible apply ite_keeps)
    | split
    | dsimp only
    | (fail_if_no_progress with_reducible refine Keeps.updMk ?_ rfl rfl rfl rfl rfl rfl rfl)

theorem thermTrip_keeps (s : State) (hk : Keeps fz s0 s) : Keeps fz s0 (thermTrip s) := by
  unfold thermTrip
  repeat' first
    | (with_reducible assumption)
    | (intro _)
    | (with_reducible apply ite_keeps)
    | (with_reducible apply hearthDark_keeps)
    | (with_reducible apply driveHearthEn_keeps)
    | (with_reducible apply dlDown_keeps)
    | (with_reducible apply portOff_keeps)
    | (with_reducible apply orbTrip_keeps)
    | (with_reducible apply signalLost_keeps)
    | (with_reducible apply foldl_keeps)
    | split
    | dsimp only
    | (fail_if_no_progress with_reducible refine Keeps.updMk ?_ rfl rfl rfl rfl rfl rfl rfl)

theorem execThermtrip_keeps (s : State) {nx : State} (hn : execThermtrip s = .next nx) : Keeps true s nx := by
  unfold execThermtrip at hn
  have hk := Keeps.refl true s
  refine ok_keeps hn ?_
  repeat' first
    | (with_reducible assumption)
    | (intro _)
    | (with_reducible apply ite_keeps)
    | (with_reducible apply thermTrip_keeps)
    | split
    | dsimp only

theorem porReset_keeps (s : State) (hk : Keeps fz s0 s) : Keeps fz s0 (porReset s) := by
  refine Keeps.updMkW hk rfl rfl (spWf_filter _ _) (fun _ => by decide) (fun _ => by decide) (fun _ => by decide)

theorem execPorNAssert_keeps (s : State) {nx : State} (hn : execPorNAssert s = .next nx) : Keeps true s nx := by
  unfold execPorNAssert at hn
  have hk := Keeps.refl true s
  repeat' first
    | (split at hn)
    | (injection hn with hn; subst hn)
    | (with_reducible assumption)
    | (intro _)
    | (with_reducible apply ite_keeps)
    | (with_reducible apply porReset_keeps)
    | split
    | dsimp only

theorem execPorNDeassert_keeps (bootsel : Fin 4) (addrSel : Bool) (s : State) {nx : State} (hn : execPorNDeassert
    bootsel addrSel s = .next nx) : Keeps true s nx := by
  unfold execPorNDeassert at hn
  have hk := Keeps.refl true s
  repeat' first
    | (split at hn)
    | (injection hn with hn; subst hn)
    | (with_reducible assumption)
    | (intro _)
    | (with_reducible apply ite_keeps)
    | split
    | dsimp only
    | (fail_if_no_progress with_reducible refine Keeps.updMk ?_ rfl rfl rfl rfl rfl rfl rfl)

theorem perstReset_keeps (s : State) (hk : Keeps fz s0 s) : Keeps fz s0 (perstReset s) := by
  refine Keeps.updMkW hk rfl rfl (spWf_filter _ _) (fun _ => by decide) (fun _ => by decide) id

theorem setPerst_keeps (b : Bool) (s : State) (hk : Keeps fz s0 s) : Keeps fz s0 (setPerst b s) := by
  unfold setPerst
  repeat' first
    | (with_reducible assumption)
    | (intro _)
    | (with_reducible apply ite_keeps)
    | split
    | dsimp only
    | (fail_if_no_progress with_reducible refine Keeps.updMk ?_ rfl rfl rfl rfl rfl rfl rfl)

theorem execPerstNAssert_keeps (s : State) {nx : State} (hn : execPerstNAssert s = .next nx) : Keeps true s nx := by
  unfold execPerstNAssert at hn
  have hk := Keeps.refl true s
  repeat' first
    | (split at hn)
    | (injection hn with hn; subst hn)
    | (with_reducible assumption)
    | (intro _)
    | (with_reducible apply ite_keeps)
    | (with_reducible apply perstReset_keeps)
    | (with_reducible apply setPerst_keeps)
    | split
    | dsimp only

theorem execPerstNDeassert_keeps (s : State) {nx : State} (hn : execPerstNDeassert s = .next nx) : Keeps true s nx
    := by
  unfold execPerstNDeassert at hn
  have hk := Keeps.refl true s
  repeat' first
    | (split at hn)
    | (injection hn with hn; subst hn)
    | (with_reducible assumption)
    | (intro _)
    | (with_reducible apply ite_keeps)
    | (with_reducible apply setPerst_keeps)
    | split
    | dsimp only
    | (fail_if_no_progress with_reducible refine Keeps.updMk ?_ rfl rfl rfl rfl rfl rfl rfl)

theorem bootRom_keeps (s : State) (hk : Keeps fz s0 s) : Keeps fz s0 (bootRom s) := by
  unfold bootRom
  repeat' first
    | (with_reducible assumption)
    | (intro _)
    | (with_reducible apply ite_keeps)
    | (with_reducible apply moveDom_keeps)
    | (with_reducible apply State.fset_keeps)
    | (with_reducible apply foldl_keeps)
    | split
    | dsimp only
    | (fail_if_no_progress with_reducible refine Keeps.updMk ?_ rfl rfl rfl rfl rfl rfl rfl)

theorem execBootRomStart_keeps (s : State) {nx : State} (hn : execBootRomStart s = .next nx) : Keeps true s nx := by
  unfold execBootRomStart at hn
  have hk := Keeps.refl true s
  refine ok_keeps hn ?_
  repeat' first
    | (with_reducible assumption)
    | (intro _)
    | (with_reducible apply ite_keeps)
    | (with_reducible apply bootRom_keeps)
    | split
    | dsimp only

theorem execConfigSpaceBuilt_keeps (s : State) {nx : State} (hn : execConfigSpaceBuilt s = .next nx) : Keeps true s
    nx := by
  unfold execConfigSpaceBuilt at hn
  have hk := Keeps.refl true s
  refine ok_keeps hn ?_
  repeat' first
    | (with_reducible assumption)
    | (intro _)
    | (with_reducible apply ite_keeps)
    | split
    | dsimp only
    | (fail_if_no_progress with_reducible refine Keeps.updMk ?_ rfl rfl rfl rfl rfl rfl rfl)

theorem setPres_keeps (b : Bool) (s : State) (hk : Keeps fz s0 s) : Keeps fz s0 (setPres b s) := by
  unfold setPres
  repeat' first
    | (with_reducible assumption)
    | (intro _)
    | (with_reducible apply ite_keeps)
    | split
    | dsimp only
    | (fail_if_no_progress with_reducible refine Keeps.updMk ?_ rfl rfl rfl rfl rfl rfl rfl)

theorem execModulePresAssert_keeps (s : State) {nx : State} (hn : execModulePresAssert s = .next nx) : Keeps true s
    nx := by
  unfold execModulePresAssert at hn
  have hk := Keeps.refl true s
  repeat' first
    | (split at hn)
    | (injection hn with hn; subst hn)
    | (with_reducible assumption)
    | (intro _)
    | (with_reducible apply ite_keeps)
    | (with_reducible apply setPres_keeps)
    | split
    | dsimp only

theorem execModulePresRelease_keeps (s : State) {nx : State} (hn : execModulePresRelease s = .next nx) : Keeps true
    s nx := by
  unfold execModulePresRelease at hn
  have hk := Keeps.refl true s
  repeat' first
    | (split at hn)
    | (injection hn with hn; subst hn)
    | (with_reducible assumption)
    | (intro _)
    | (with_reducible apply ite_keeps)
    | (with_reducible apply setPres_keeps)
    | (with_reducible apply signalLost_keeps)
    | (with_reducible apply foldl_keeps)
    | split
    | dsimp only

theorem execModuleEjectNFall_keeps (s : State) {nx : State} (hn : execModuleEjectNFall s = .next nx) : Keeps true s
    nx := by
  unfold execModuleEjectNFall at hn
  have hk := Keeps.refl true s
  repeat' first
    | (split at hn)
    | (injection hn with hn; subst hn)
    | (with_reducible assumption)
    | (intro _)
    | (with_reducible apply ite_keeps)
    | split
    | dsimp only
    | (fail_if_no_progress with_reducible refine Keeps.updMk ?_ rfl rfl rfl rfl rfl rfl rfl)

theorem moduleEject_keeps (s : State) (hk : Keeps fz s0 s) : Keeps fz s0 (moduleEject s) := by
  unfold moduleEject
  repeat' first
    | (with_reducible assumption)
    | (intro _)
    | (with_reducible apply ite_keeps)
    | (with_reducible apply raiseZen_keeps)
    | split
    | dsimp only
    | (fail_if_no_progress with_reducible refine Keeps.updMk ?_ rfl rfl rfl rfl rfl rfl rfl)

theorem execModuleEject_keeps (s : State) {nx : State} (hn : execModuleEject s = .next nx) : Keeps true s nx := by
  unfold execModuleEject at hn
  have hk := Keeps.refl true s
  refine ok_keeps hn ?_
  repeat' first
    | (with_reducible assumption)
    | (intro _)
    | (with_reducible apply ite_keeps)
    | (with_reducible apply moduleEject_keeps)
    | split
    | dsimp only

theorem execModuleEjectNRise_keeps (s : State) {nx : State} (hn : execModuleEjectNRise s = .next nx) : Keeps true s
    nx := by
  unfold execModuleEjectNRise at hn
  have hk := Keeps.refl true s
  repeat' first
    | (split at hn)
    | (injection hn with hn; subst hn)
    | (with_reducible assumption)
    | (intro _)
    | (with_reducible apply ite_keeps)
    | split
    | dsimp only
    | (fail_if_no_progress with_reducible refine Keeps.updMk ?_ rfl rfl rfl rfl rfl rfl rfl)

theorem bakrstDone_keeps (b seq : Nat) (refused : Bool) (s : State) (hk : Keeps fz s0 s) : Keeps fz s0 (bakrstDone b
    seq refused s) := by
  unfold bakrstDone
  repeat' first
    | (with_reducible assumption)
    | (intro _)
    | (with_reducible apply ite_keeps)
    | (with_reducible apply signalMisc_keeps)
    | (with_reducible apply State.fset_keeps)
    | split
    | dsimp only

theorem actBakrst_keeps (v : Word) (s : State) (hk : Keeps fz s0 s) : Keeps fz s0 (actBakrst v s) := by
  unfold actBakrst
  repeat' first
    | (with_reducible assumption)
    | (intro _)
    | (with_reducible apply ite_keeps)
    | (with_reducible apply bakrstDone_keeps)
    | (with_reducible apply quiesce_keeps)
    | split
    | dsimp only
    | (fail_if_no_progress with_reducible refine Keeps.updMk ?_ rfl rfl rfl rfl rfl rfl rfl)

theorem execBakeryReset_keeps (f : HostFn) (bakery : Fin 16) (seq : BitVec 16) (s : State) {nx : State} (hn :
    execBakeryReset f bakery seq s = .next nx) : Keeps true s nx := by
  unfold execBakeryReset at hn
  have hk := Keeps.refl true s
  refine ok_keeps hn ?_
  repeat' first
    | (with_reducible assumption)
    | (intro _)
    | (with_reducible apply ite_keeps)
    | (with_reducible apply hostWrite_keeps)
    | (with_reducible apply actBakrst_keeps)
    | split
    | dsimp only

theorem bakeryResetDone_keeps (s : State) (hk : Keeps fz s0 s) : Keeps fz s0 (bakeryResetDone s) := by
  unfold bakeryResetDone
  repeat' first
    | (with_reducible assumption)
    | (intro _)
    | (with_reducible apply ite_keeps)
    | (with_reducible apply refillRacks_keeps)
    | (with_reducible apply onOven_keeps)
    | (with_reducible apply resume_keeps)
    | (with_reducible apply bakrstDone_keeps)
    | (with_reducible apply foldl_keeps)
    | split
    | dsimp only
    | (fail_if_no_progress with_reducible refine Keeps.updMk ?_ rfl rfl rfl rfl rfl rfl rfl)

theorem execBakeryResetDone_keeps (s : State) {nx : State} (hn : execBakeryResetDone s = .next nx) : Keeps true s nx
    := by
  unfold execBakeryResetDone at hn
  have hk := Keeps.refl true s
  refine ok_keeps hn ?_
  repeat' first
    | (with_reducible assumption)
    | (intro _)
    | (with_reducible apply ite_keeps)
    | (with_reducible apply bakeryResetDone_keeps)
    | split
    | dsimp only

end Sys2Proof.Machine
end

