-- ==== Sys2Proof/Laws/KeepsBus.lean ====
section
/-! SUPPORT. What the operations of Machine/Bus.lean keep (Laws/Keeps.lean). -/
namespace Sys2Proof.Machine

variable {fz : Bool} {s0 : State}

theorem actStore_keeps (off : Nat) (v : Word) (s : State) (hk : Keeps fz s0 s) : Keeps fz s0 (actStore off v s) :=
    by
  unfold actStore
  repeat' first
    | (with_reducible assumption)
    | (intro _)
    | (with_reducible apply ite_keeps)
    | (with_reducible apply State.setReg_keeps)
    | split
    | dsimp only

theorem writeCore_keeps (off : Nat) (v : Word) (s : State) (hk : Keeps fz s0 s) : Keeps fz s0 (writeCore off v s) :=
    by
  unfold writeCore
  repeat' first
    | (with_reducible assumption)
    | (intro _)
    | (with_reducible apply ite_keeps)
    | (with_reducible apply actRcpCmd_keeps)
    | (with_reducible apply actBakrst_keeps)
    | (with_reducible apply actPwrReq_keeps)
    | (with_reducible apply actPaceAck_keeps)
    | (with_reducible apply startRequest_keeps)
    | (with_reducible apply raiseZen_keeps)
    | (with_reducible apply actStore_keeps)
    | split
    | dsimp only

theorem writeCtx_keeps (off : Nat) (v : Word) (s : State) (hk : Keeps fz s0 s) : Keeps fz s0 (writeCtx off v s) :=
    by
  unfold writeCtx
  repeat' first
    | (with_reducible assumption)
    | (intro _)
    | (with_reducible apply ite_keeps)
    | (with_reducible apply actMbxAck_keeps)
    | (with_reducible apply actStore_keeps)
    | (with_reducible apply actCtxEnable_keeps)
    | (with_reducible apply actCtxDisable_keeps)
    | split
    | dsimp only

theorem writeStr_keeps (off : Nat) (v : Word) (s : State) (hk : Keeps fz s0 s) : Keeps fz s0 (writeStr off v s) :=
    by
  unfold writeStr
  repeat' first
    | (with_reducible assumption)
    | (intro _)
    | (with_reducible apply ite_keeps)
    | (with_reducible apply actStrEnable_keeps)
    | (with_reducible apply actStrStop_keeps)
    | (with_reducible apply actStrTrig_keeps)
    | (with_reducible apply actStrSignal_keeps)
    | (with_reducible apply actOtgStart_keeps)
    | (with_reducible apply actOtgStop_keeps)
    | (with_reducible apply actOtgMode_keeps)
    | (with_reducible apply actOtgAt_keeps)
    | split
    | dsimp only

theorem writeMem_keeps (off : Nat) (v : Word) (s : State) (hk : Keeps fz s0 s) : Keeps fz s0 (writeMem off v s) :=
    by
  unfold writeMem
  repeat' first
    | (with_reducible assumption)
    | (intro _)
    | (with_reducible apply ite_keeps)
    | (with_reducible apply State.fset_keeps)
    | (with_reducible apply actSetGo_keeps)
    | (with_reducible apply actRise_keeps)
    | (with_reducible apply actLinkCtrl_keeps)
    | (with_reducible apply actStore_keeps)
    | split
    | dsimp only

theorem writeVideo_keeps (off : Nat) (v : Word) (s : State) (hk : Keeps fz s0 s) : Keeps fz s0 (writeVideo off v s)
    := by
  unfold writeVideo
  repeat' first
    | (with_reducible assumption)
    | (intro _)
    | (with_reducible apply ite_keeps)
    | (with_reducible apply actRetrain_keeps)
    | (with_reducible apply actHold_keeps)
    | (with_reducible apply actRelease_keeps)
    | (with_reducible apply actAux_keeps)
    | (with_reducible apply State.fset_keeps)
    | (with_reducible apply actStore_keeps)
    | (with_reducible apply actDsiPush_keeps)
    | (with_reducible apply actOrbCmd_keeps)
    | split
    | dsimp only

theorem writeNw_keeps (off : Nat) (v : Word) (s : State) (hk : Keeps fz s0 s) : Keeps fz s0 (writeNw off v s) := by
  unfold writeNw
  repeat' first
    | (with_reducible assumption)
    | (intro _)
    | (with_reducible apply ite_keeps)
    | (with_reducible apply actNwCtrl_keeps)
    | (with_reducible apply actNwSignal_keeps)
    | (with_reducible apply actNwPost_keeps)
    | (with_reducible apply actNwWakeAck_keeps)
    | (with_reducible apply actNwClose_keeps)
    | (with_reducible apply actNwEnrol_keeps)
    | (with_reducible apply actStore_keeps)
    | split
    | dsimp only

theorem writeSbd_keeps (off : Nat) (v : Word) (s : State) (hk : Keeps fz s0 s) : Keeps fz s0 (writeSbd off v s) :=
    by
  unfold writeSbd
  repeat' first
    | (with_reducible assumption)
    | (intro _)
    | (with_reducible apply ite_keeps)
    | (with_reducible apply actGpioSet_keeps)
    | (with_reducible apply actGpioClr_keeps)
    | (with_reducible apply gpioUpdate_keeps)
    | (with_reducible apply actStore_keeps)
    | (with_reducible apply actSbdEvtAck_keeps)
    | (with_reducible apply actTosb_keeps)
    | (with_reducible apply actSpiGo_keeps)
    | split
    | dsimp only

theorem busAction_keeps (off : Nat) (v : Word) (s : State) (hk : Keeps fz s0 s) : Keeps fz s0 (busAction off v s) :=
    by
  unfold busAction
  repeat' first
    | (with_reducible assumption)
    | (intro _)
    | (with_reducible apply ite_keeps)
    | (with_reducible apply writeCore_keeps)
    | (with_reducible apply writeCtx_keeps)
    | (with_reducible apply writeStr_keeps)
    | (with_reducible apply writeMem_keeps)
    | (with_reducible apply writeVideo_keeps)
    | (with_reducible apply writeNw_keeps)
    | (with_reducible apply writeSbd_keeps)
    | split
    | dsimp only

theorem msixWrite_keeps (f : HostFn) (off : Nat) (v : Word) (s : State) (hk : Keeps fz s0 s) : Keeps fz s0
    (msixWrite f off v s) := by
  unfold msixWrite
  repeat' first
    | (with_reducible assumption)
    | (intro _)
    | (with_reducible apply ite_keeps)
    | (with_reducible apply State.setMsix_keeps)
    | (with_reducible apply setMask_keeps)
    | split
    | dsimp only

theorem busWrite_keeps (m : Nat) (fn : Option HostFn) (off : Nat) (v : Word) (s : State) (hk : Keeps fz s0 s) :
    Keeps fz s0 (busWrite m fn off v s) := by
  unfold busWrite
  repeat' first
    | (with_reducible assumption)
    | (intro _)
    | (with_reducible apply ite_keeps)
    | (with_reducible apply denyAccess_keeps)
    | (with_reducible apply msixWrite_keeps)
    | (with_reducible apply busAction_keeps)
    | (with_reducible apply gateFaults_keeps)
    | split
    | dsimp only

theorem sizeFault_keeps (m : Nat) (write : Bool) (off size : Nat) (s : State) (hk : Keeps fz s0 s) : Keeps fz s0
    (sizeFault m write off size s) := by
  unfold sizeFault
  repeat' first
    | (with_reducible assumption)
    | (intro _)
    | (with_reducible apply ite_keeps)
    | (with_reducible apply logFault_keeps)
    | split
    | dsimp only

theorem bar0Write_keeps (f : HostFn) (off size : Nat) (data : BitVec 64) (s : State) (hk : Keeps fz s0 s) : Keeps fz
    s0 (bar0Write f off size data s) := by
  unfold bar0Write
  repeat' first
    | (with_reducible assumption)
    | (intro _)
    | (with_reducible apply ite_keeps)
    | (with_reducible apply sizeFault_keeps)
    | (with_reducible apply busWrite_keeps)
    | split
    | dsimp only

theorem doorbellWord_keeps (c off v : Nat) {s : State} (hk : Keeps fz s0 s) : Keeps fz s0 (doorbellWord c off v s)
    := by
  unfold doorbellWord
  split
  · exact actSqTail_keeps _ _ _ hk
  · split
    · split
      · exact actCqArm_keeps _ _ _ hk
      · exact actCqHead_keeps _ _ _ hk
    · exact hk

theorem pageWrite_keeps (f : HostFn) (off v : Nat) (s : State) (hk : Keeps fz s0 s) : Keeps fz s0 (pageWrite f off v
    s) := by
  unfold pageWrite
  repeat' first
    | (with_reducible assumption)
    | (intro _)
    | (with_reducible apply ite_keeps)
    | (with_reducible apply doorbell_keeps)
    | (with_reducible apply doorbellWord_keeps)
    | split
    | dsimp only

theorem pageSizeFault_keeps (m off size : Nat) (s : State) (hk : Keeps fz s0 s) : Keeps fz s0 (pageSizeFault m off
    size s) := by
  unfold pageSizeFault
  repeat' first
    | (with_reducible assumption)
    | (intro _)
    | (with_reducible apply ite_keeps)
    | (with_reducible apply logFault_keeps)
    | split
    | dsimp only

theorem bar2Write_keeps (f : HostFn) (off size : Nat) (data : BitVec 64) (s : State) (hk : Keeps fz s0 s) : Keeps fz
    s0 (bar2Write f off size data s) := by
  unfold bar2Write
  repeat' first
    | (with_reducible assumption)
    | (intro _)
    | (with_reducible apply ite_keeps)
    | (with_reducible apply pageWrite_keeps)
    | (with_reducible apply pageSizeFault_keeps)
    | split
    | dsimp only

theorem registerWrite_keeps (f : HostFn) (bar2 : Bool) (off size : Nat) (data : BitVec 64) (s : State) (hk : Keeps
    fz s0 s) : Keeps fz s0 (registerWrite f bar2 off size data s) := by
  unfold registerWrite
  repeat' first
    | (with_reducible assumption)
    | (intro _)
    | (with_reducible apply ite_keeps)
    | (with_reducible apply aerError_keeps)
    | (with_reducible apply bar2Write_keeps)
    | (with_reducible apply bar0Write_keeps)
    | split
    | dsimp only

theorem execRegisterWrite_keeps (f : HostFn) (bar2 : Bool) (off size : Nat) (data : BitVec 64) (s : State) {nx :
    State} (hn : execRegisterWrite f bar2 off size data s = .next nx) : Keeps true s nx := by
  unfold execRegisterWrite at hn
  have hk := Keeps.refl true s
  refine ok_keeps hn ?_
  repeat' first
    | (with_reducible assumption)
    | (intro _)
    | (with_reducible apply ite_keeps)
    | (with_reducible apply registerWrite_keeps)
    | split
    | dsimp only

theorem busRead_keeps (f : HostFn) (off : Nat) (s : State) (hk : Keeps fz s0 s) : Keeps fz s0 (busRead f off s).2 :=
    by
  unfold busRead
  repeat' first
    | (with_reducible assumption)
    | (intro _)
    | (with_reducible apply ite_keeps)
    | (with_reducible apply gateFaults_keeps)
    | split
    | dsimp only

theorem busRead_keeps' {f : HostFn} {off : Nat} {s : State} {res : Word} {u : State} (heq : busRead f off s = (res,
    u)) (hk : Keeps fz s0 s) : Keeps fz s0 u := by
  have k := busRead_keeps f off s hk
  rw [heq] at k
  exact k

theorem bar0Read_keeps (f : HostFn) (off size : Nat) (s : State) (hk : Keeps fz s0 s) : Keeps fz s0 (bar0Read f off
    size s) := by
  unfold bar0Read
  repeat' first
    | (with_reducible assumption)
    | (intro _)
    | (with_reducible apply ite_keeps)
    | (with_reducible apply State.out_keeps)
    | (with_reducible apply sizeFault_keeps)
    | (with_reducible apply busRead_keeps)
    | (with_reducible refine busRead_keeps' (by assumption) ?_)
    | split
    | dsimp only

theorem bar2Read_keeps (f : HostFn) (off size : Nat) (s : State) (hk : Keeps fz s0 s) : Keeps fz s0 (bar2Read f off
    size s) := by
  unfold bar2Read
  repeat' first
    | (with_reducible assumption)
    | (intro _)
    | (with_reducible apply ite_keeps)
    | (with_reducible apply State.out_keeps)
    | split
    | dsimp only

theorem registerRead_keeps (f : HostFn) (bar2 : Bool) (off size : Nat) (s : State) (hk : Keeps fz s0 s) : Keeps fz
    s0 (registerRead f bar2 off size s) := by
  unfold registerRead
  repeat' first
    | (with_reducible assumption)
    | (intro _)
    | (with_reducible apply ite_keeps)
    | (with_reducible apply State.out_keeps)
    | (with_reducible apply aerError_keeps)
    | (with_reducible apply bar2Read_keeps)
    | (with_reducible apply bar0Read_keeps)
    | split
    | dsimp only

theorem execRegisterRead_keeps (f : HostFn) (bar2 : Bool) (off size : Nat) (s : State) {nx : State} (hn :
    execRegisterRead f bar2 off size s = .next nx) : Keeps true s nx := by
  unfold execRegisterRead at hn
  have hk := Keeps.refl true s
  refine ok_keeps hn ?_
  repeat' first
    | (with_reducible assumption)
    | (intro _)
    | (with_reducible apply ite_keeps)
    | (with_reducible apply registerRead_keeps)
    | split
    | dsimp only

theorem execZenTrig_keeps (f : HostFn) (proc : Fin 64) (arg : BitVec 16) (s : State) {nx : State} (hn : execZenTrig
    f proc arg s = .next nx) : Keeps true s nx := by
  unfold execZenTrig at hn
  have hk := Keeps.refl true s
  refine ok_keeps hn ?_
  repeat' first
    | (with_reducible assumption)
    | (intro _)
    | (with_reducible apply ite_keeps)
    | (with_reducible apply hostWrite_keeps)
    | (with_reducible apply busAction_keeps)
    | split
    | dsimp only

theorem execZenSignal_keeps (f : HostFn) (val : Word) (s : State) {nx : State} (hn : execZenSignal f val s = .next
    nx) : Keeps true s nx := by
  unfold execZenSignal at hn
  have hk := Keeps.refl true s
  refine ok_keeps hn ?_
  repeat' first
    | (with_reducible assumption)
    | (intro _)
    | (with_reducible apply ite_keeps)
    | (with_reducible apply hostWrite_keeps)
    | (with_reducible apply busAction_keeps)
    | split
    | dsimp only

end Sys2Proof.Machine
end

