-- ==== Sys2Proof/Laws/KeepsFaults.lean ====
section
/-! SUPPORT. What the operations of Machine/Faults.lean keep (Laws/Keeps.lean). -/
namespace Sys2Proof.Machine

variable {fz : Bool} {s0 : State}

theorem putRecord_keeps (slot : Nat) (ws : List Nat) (s : State) (hk : Keeps fz s0 s) : Keeps fz s0 (putRecord slot
    ws s) := by
  unfold putRecord
  repeat' first
    | (with_reducible assumption)
    | (intro _)
    | (with_reducible apply ite_keeps)
    | (with_reducible apply State.setReg_keeps)
    | (with_reducible apply foldl_keeps)
    | split
    | dsimp only

theorem logOne_keeps (e : FaultEntry) (s : State) (hk : Keeps fz s0 s) : Keeps fz s0 (logOne e s) := by
  unfold logOne
  repeat' first
    | (with_reducible assumption)
    | (intro _)
    | (with_reducible apply ite_keeps)
    | (with_reducible apply State.fadd_keeps)
    | (with_reducible apply State.setReg_keeps)
    | (with_reducible apply advanceSeq_keeps)
    | (with_reducible apply putRecord_keeps)
    | split
    | dsimp only

theorem faultLogWrite_keeps (s : State) (hk : Keeps fz s0 s) : Keeps fz s0 (faultLogWrite s) := by
  unfold faultLogWrite
  repeat' first
    | (with_reducible assumption)
    | (intro _)
    | (with_reducible apply ite_keeps)
    | (with_reducible apply logOne_keeps)
    | (with_reducible apply State.fset_keeps)
    | split
    | dsimp only
    | (fail_if_no_progress with_reducible refine Keeps.updMk ?_ rfl rfl rfl rfl rfl rfl rfl)
    | (refine Keeps.updMkW ?_ rfl rfl id id id (fun w => by simp_all; omega))

theorem execFaultLogWrite_keeps (s : State) {nx : State} (hn : execFaultLogWrite s = .next nx) : Keeps true s nx :=
    by
  unfold execFaultLogWrite at hn
  have hk := Keeps.refl true s
  refine ok_keeps hn ?_
  repeat' first
    | (with_reducible assumption)
    | (intro _)
    | (with_reducible apply ite_keeps)
    | (with_reducible apply faultLogWrite_keeps)
    | split
    | dsimp only

end Sys2Proof.Machine
end

