-- ==== Sys2Proof/Laws/KeepsMerMsgs.lean ====
section
/-! SUPPORT. What the operations of Machine/MerMsgs.lean keep (Laws/Keeps.lean). -/
namespace Sys2Proof.Machine

variable {fz : Bool} {s0 : State}

theorem arriveMsg_keeps (l : Nat) (m : MerMsg) (g : State → State) (s : State) (hg : ∀ (s : State), Keeps fz s0 s →
    Keeps fz s0 (g s)) (hk : Keeps fz s0 s) : Keeps fz s0 (arriveMsg l m g s) := by
  unfold arriveMsg
  repeat' first
    | (with_reducible assumption)
    | (intro _)
    | (with_reducible apply ite_keeps)
    | (apply hg)
    | (with_reducible apply returnUnits_keeps)
    | split
    | dsimp only

theorem denyGuest_keeps (l : Nat) (m : MerMsg) (s : State) (hk : Keeps fz s0 s) : Keeps fz s0 (denyGuest l m s) :=
    by
  unfold denyGuest
  repeat' first
    | (with_reducible assumption)
    | (intro _)
    | (with_reducible apply ite_keeps)
    | (with_reducible apply State.fadd_keeps)
    | (with_reducible apply logFault_keeps)
    | (with_reducible apply answerRemote_keeps)
    | (with_reducible apply returnUnits_keeps)
    | split
    | dsimp only

theorem admitGuest_keeps (l : Nat) (m : MerMsg) (g : Guest) (s : State) (hk : Keeps fz s0 s) : Keeps fz s0
    (admitGuest l m g s) := by
  unfold admitGuest
  repeat' first
    | (with_reducible assumption)
    | (intro _)
    | (with_reducible apply ite_keeps)
    | (with_reducible apply addReq_keeps)
    | (with_reducible apply issueHost_keeps)
    | (with_reducible apply returnUnits_keeps)
    | (with_reducible apply issueRemote_keeps)
    | (with_reducible apply performGuest_keeps)
    | split
    | dsimp only

theorem fillPool_keeps (l : Nat) (m : MerMsg) (s : State) (hk : Keeps fz s0 s) : Keeps fz s0 (fillPool l m s) := by
  unfold fillPool
  repeat' first
    | (with_reducible assumption)
    | (intro _)
    | (with_reducible apply ite_keeps)
    | (with_reducible apply answerRemote_keeps)
    | (with_reducible apply returnUnits_keeps)
    | (with_reducible apply dramWrite_keeps)
    | (with_reducible apply dramService_keeps)
    | split
    | dsimp only

theorem requestMsg_keeps (l : Nat) (m : MerMsg) (s : State) (hk : Keeps fz s0 s) : Keeps fz s0 (requestMsg l m s) :=
    by
  unfold requestMsg
  repeat' first
    | (with_reducible assumption)
    | (intro _)
    | (with_reducible apply ite_keeps)
    | (with_reducible apply arriveMsg_keeps)
    | (with_reducible apply forwardMsg_keeps)
    | (with_reducible apply fillPool_keeps)
    | (with_reducible apply denyGuest_keeps)
    | (with_reducible apply admitGuest_keeps)
    | split
    | dsimp only

theorem execMsgRd_keeps (l : Fin 4) (m : MerMsg) (s : State) {nx : State} (hn : execMsgRd l m s = .next nx) : Keeps
    true s nx := by
  unfold execMsgRd at hn
  have hk := Keeps.refl true s
  refine ok_keeps hn ?_
  repeat' first
    | (with_reducible assumption)
    | (intro _)
    | (with_reducible apply ite_keeps)
    | (with_reducible apply requestMsg_keeps)
    | split
    | dsimp only

theorem execMsgWrf_keeps (l : Fin 4) (m : MerMsg) (s : State) {nx : State} (hn : execMsgWrf l m s = .next nx) :
    Keeps true s nx := by
  unfold execMsgWrf at hn
  have hk := Keeps.refl true s
  refine ok_keeps hn ?_
  repeat' first
    | (with_reducible assumption)
    | (intro _)
    | (with_reducible apply ite_keeps)
    | (with_reducible apply requestMsg_keeps)
    | split
    | dsimp only

theorem execMsgWrm_keeps (l : Fin 4) (m : MerMsg) (s : State) {nx : State} (hn : execMsgWrm l m s = .next nx) :
    Keeps true s nx := by
  unfold execMsgWrm at hn
  have hk := Keeps.refl true s
  refine ok_keeps hn ?_
  repeat' first
    | (with_reducible assumption)
    | (intro _)
    | (with_reducible apply ite_keeps)
    | (with_reducible apply requestMsg_keeps)
    | split
    | dsimp only

theorem completionMsg_keeps (l : Nat) (m : MerMsg) (s : State) (hk : Keeps fz s0 s) : Keeps fz s0 (completionMsg l m
    s) := by
  unfold completionMsg
  repeat' first
    | (with_reducible assumption)
    | (intro _)
    | (with_reducible apply ite_keeps)
    | (with_reducible apply arriveMsg_keeps)
    | (with_reducible apply forwardMsg_keeps)
    | (with_reducible apply answerReq_keeps)
    | split
    | dsimp only

theorem execMsgRdc_keeps (l : Fin 4) (m : MerMsg) (s : State) {nx : State} (hn : execMsgRdc l m s = .next nx) :
    Keeps true s nx := by
  unfold execMsgRdc at hn
  have hk := Keeps.refl true s
  refine ok_keeps hn ?_
  repeat' first
    | (with_reducible assumption)
    | (intro _)
    | (with_reducible apply ite_keeps)
    | (with_reducible apply settleFinals_keeps)
    | (with_reducible apply completionMsg_keeps)
    | split
    | dsimp only

theorem execMsgWra_keeps (l : Fin 4) (m : MerMsg) (s : State) {nx : State} (hn : execMsgWra l m s = .next nx) :
    Keeps true s nx := by
  unfold execMsgWra at hn
  have hk := Keeps.refl true s
  refine ok_keeps hn ?_
  repeat' first
    | (with_reducible assumption)
    | (intro _)
    | (with_reducible apply ite_keeps)
    | (with_reducible apply settleFinals_keeps)
    | (with_reducible apply completionMsg_keeps)
    | split
    | dsimp only

theorem slotArrives_keeps (l : Nat) (m : MerMsg) (s : State) (hk : Keeps fz s0 s) : Keeps fz s0 (slotArrives l m s)
    := by
  unfold slotArrives
  repeat' first
    | (with_reducible assumption)
    | (intro _)
    | (with_reducible apply ite_keeps)
    | (with_reducible apply arriveMsg_keeps)
    | (with_reducible apply slotMoved_keeps)
    | (with_reducible apply State.setRack_keeps)
    | split
    | dsimp only

theorem execMsgSlot_keeps (l : Fin 4) (m : MerMsg) (s : State) {nx : State} (hn : execMsgSlot l m s = .next nx) :
    Keeps true s nx := by
  unfold execMsgSlot at hn
  have hk := Keeps.refl true s
  refine ok_keeps hn ?_
  repeat' first
    | (with_reducible assumption)
    | (intro _)
    | (with_reducible apply ite_keeps)
    | (with_reducible apply slotArrives_keeps)
    | split
    | dsimp only

end Sys2Proof.Machine
end

