-- ==== Sys2Proof/Laws/KeepsOvens.lean ====
section
/-! SUPPORT. What the operations of Machine/Ovens.lean keep (Laws/Keeps.lean). -/
namespace Sys2Proof.Machine

variable {fz : Bool} {s0 : State}

theorem loadw_keeps (n : Nat) (s : State) (hk : Keeps fz s0 s) : Keeps fz s0 (loadw n s) := by
  unfold loadw
  repeat' first
    | (with_reducible assumption)
    | (intro _)
    | (with_reducible apply ite_keeps)
    | (with_reducible apply dispatch_keeps)
    | (with_reducible apply finishDisp_keeps)
    | (with_reducible apply onOven_keeps)
    | split
    | dsimp only

theorem execLoadw_keeps (n : Fin 48) (s : State) {nx : State} (hn : execLoadw n s = .next nx) : Keeps true s nx :=
    by
  unfold execLoadw at hn
  have hk := Keeps.refl true s
  refine ok_keeps hn ?_
  repeat' first
    | (with_reducible assumption)
    | (intro _)
    | (with_reducible apply ite_keeps)
    | (with_reducible apply loadw_keeps)
    | split
    | dsimp only

theorem macWave_keeps (n k : Nat) (d : DInstr) (bs : List Byte) (s : State) (hk : Keeps fz s0 s) : Keeps fz s0
    (macWave n k d bs s) := by
  unfold macWave
  repeat' first
    | (with_reducible assumption)
    | (intro _)
    | (with_reducible apply ite_keeps)
    | (with_reducible apply onDisp_keeps)
    | (with_reducible apply onOven_keeps)
    | (with_reducible apply countAccSat_keeps)
    | (with_reducible apply State.setPair_keeps)
    | split
    | dsimp only

theorem macLoop_keeps (n k x0 : Nat) (s : State) (hk : Keeps fz s0 s) : Keeps fz s0 (macLoop n k x0 s) := by
  induction x0 generalizing s with
  | zero => simpa only [macLoop] using hk
  | succ fuel ih =>
    rw [macLoop]
    repeat' first
      | (with_reducible assumption)
      | (intro _)
      | (with_reducible apply ite_keeps)
      | (with_reducible apply finishDisp_keeps)
      | (with_reducible apply gather_keeps)
      | (with_reducible refine gather_keeps' (by assumption) ?_)
      | (with_reducible apply onDisp_keeps)
      | (with_reducible apply macWave_keeps)
      | (with_reducible apply ih)
      | split
      | dsimp only

theorem mac_keeps (n : Nat) (s : State) (hk : Keeps fz s0 s) : Keeps fz s0 (mac n s) := by
  unfold mac
  repeat' first
    | (with_reducible assumption)
    | (intro _)
    | (with_reducible apply ite_keeps)
    | (with_reducible apply dispatch_keeps)
    | (with_reducible apply macLoop_keeps)
    | split
    | dsimp only

theorem execMac_keeps (n : Fin 48) (s : State) {nx : State} (hn : execMac n s = .next nx) : Keeps true s nx := by
  unfold execMac at hn
  have hk := Keeps.refl true s
  refine ok_keeps hn ?_
  repeat' first
    | (with_reducible assumption)
    | (intro _)
    | (with_reducible apply ite_keeps)
    | (with_reducible apply mac_keeps)
    | split
    | dsimp only

theorem emitVec_keeps (n k : Nat) (d : DInstr) (x : List Int) (s : State) (hk : Keeps fz s0 s) : Keeps fz s0
    (emitVec n k d x s) := by
  unfold emitVec
  repeat' first
    | (with_reducible assumption)
    | (intro _)
    | (with_reducible apply ite_keeps)
    | (with_reducible apply State.putPantry_keeps)
    | (with_reducible apply onDisp_keeps)
    | split
    | dsimp only

theorem glazeVec_keeps (n k : Nat) (d : DInstr) (x a2 a3 : List Int) (s : State) (hk : Keeps fz s0 s) : Keeps fz s0
    (glazeVec n k d x a2 a3 s) := by
  unfold glazeVec
  repeat' first
    | (with_reducible assumption)
    | (intro _)
    | (with_reducible apply ite_keeps)
    | (with_reducible apply countLaneSat_keeps)
    | (with_reducible apply onDisp_keeps)
    | (with_reducible apply emitVec_keeps)
    | split
    | dsimp only

theorem glazeLoop_keeps (n k x0 : Nat) (s : State) (hk : Keeps fz s0 s) : Keeps fz s0 (glazeLoop n k x0 s) := by
  induction x0 generalizing s with
  | zero => simpa only [glazeLoop] using hk
  | succ fuel ih =>
    rw [glazeLoop]
    repeat' first
      | (with_reducible assumption)
      | (intro _)
      | (with_reducible apply ite_keeps)
      | (with_reducible apply pushAll_keeps)
      | (with_reducible refine pushAll_keeps' (by assumption) ?_)
      | (with_reducible apply onDisp_keeps)
      | (with_reducible apply finishDisp_keeps)
      | (with_reducible apply gather_keeps)
      | (with_reducible refine gather_keeps' (by assumption) ?_)
      | (with_reducible apply countLaneSat_keeps)
      | (with_reducible apply glazeVec_keeps)
      | (with_reducible apply ih)
      | split
      | dsimp only

theorem glaze_keeps (n : Nat) (s : State) (hk : Keeps fz s0 s) : Keeps fz s0 (glaze n s) := by
  unfold glaze
  repeat' first
    | (with_reducible assumption)
    | (intro _)
    | (with_reducible apply ite_keeps)
    | (with_reducible apply dispatch_keeps)
    | (with_reducible apply glazeLoop_keeps)
    | split
    | dsimp only

theorem execGlaze_keeps (n : Fin 48) (s : State) {nx : State} (hn : execGlaze n s = .next nx) : Keeps true s nx :=
    by
  unfold execGlaze at hn
  have hk := Keeps.refl true s
  refine ok_keeps hn ?_
  repeat' first
    | (with_reducible assumption)
    | (intro _)
    | (with_reducible apply ite_keeps)
    | (with_reducible apply glaze_keeps)
    | split
    | dsimp only

end Sys2Proof.Machine
end

