-- ==== Sys2Proof/Laws/KeepsSlicers.lean ====
section
/-! SUPPORT. What the operations of Machine/Slicers.lean keep (Laws/Keeps.lean). -/
namespace Sys2Proof.Machine

variable {fz : Bool} {s0 : State}

theorem checkRun_keeps (c : SCtx) (write : Bool) (x0 : List (Nat × Nat)) (s : State) (hk : Keeps fz s0 s) : Keeps fz
    s0 (checkRun c write x0 s) := by
  induction x0 generalizing s with
  | nil => simpa only [checkRun] using hk
  | cons x xs ih =>
    rw [checkRun]
    repeat' first
      | (with_reducible assumption)
      | (intro _)
      | (with_reducible apply ite_keeps)
      | (with_reducible apply noteAccess_keeps)
      | (with_reducible apply denyMem_keeps)
      | (with_reducible apply ih)
      | split
      | dsimp only

theorem checkSegs_keeps (c : SCtx) (gs : List Seg) (s : State) (hk : Keeps fz s0 s) : Keeps fz s0 (checkSegs c gs s)
    := by
  unfold checkSegs
  repeat' first
    | (with_reducible assumption)
    | (intro _)
    | (with_reducible apply ite_keeps)
    | (with_reducible apply checkRun_keeps)
    | (with_reducible apply foldl_keeps)
    | split
    | dsimp only

theorem readRun_keeps (c : SCtx) (x0 : List (Nat × Nat)) (x1 : Feed) (s : State) (hk : Keeps fz s0 s) : Keeps fz s0
    (readRun c x0 x1 s).2.2 := by
  induction x0 generalizing x1 s with
  | nil => simpa only [readRun] using hk
  | cons x xs ih =>
    rw [readRun]
    have ih' : ∀ {x1} {s} {res0} {res1} {u}, readRun c xs x1 s = (res0, res1, u) → Keeps fz s0 s → Keeps fz s0 u := by
      intro x1 s res0 res1 u hq k
      have := ih x1 s k
      rw [hq] at this; exact this
    repeat' first
      | (with_reducible assumption)
      | (intro _)
      | (with_reducible apply ite_keeps)
      | (with_reducible apply readBytes_keeps)
      | (with_reducible refine readBytes_keeps' (by assumption) ?_)
      | (with_reducible apply noteAccess_keeps)
      | (with_reducible apply onJob_keeps)
      | (with_reducible apply ih)
      | (with_reducible refine ih' (by assumption) ?_)
      | split
      | dsimp only

theorem readRun_keeps' {c : SCtx} {x0 : List (Nat × Nat)} {x1 : Feed} {s : State} {res : List (Byte × Bool)} {res1 :
    Feed} {u : State} (heq : readRun c x0 x1 s = (res, res1, u)) (hk : Keeps fz s0 s) : Keeps fz s0 u := by
  have k := readRun_keeps c x0 x1 s hk
  rw [heq] at k
  exact k

theorem writeRun_keeps (c : SCtx) (x0 : List (Nat × Nat)) (x1 : List (Byte × Bool)) (x2 : Feed) (s : State) (hk :
    Keeps fz s0 s) : Keeps fz s0 (writeRun c x0 x1 x2 s).2 := by
  induction x0 generalizing x1 x2 s with
  | nil => simpa only [writeRun] using hk
  | cons x xs ih =>
    rw [writeRun]
    have ih' : ∀ {x1} {x2} {s} {res0} {u}, writeRun c xs x1 x2 s = (res0, u) → Keeps fz s0 s → Keeps fz s0 u := by
      intro x1 x2 s res0 u hq k
      have := ih x1 x2 s k
      rw [hq] at this; exact this
    repeat' first
      | (with_reducible assumption)
      | (intro _)
      | (with_reducible apply ite_keeps)
      | (with_reducible apply writeMarked_keeps)
      | (with_reducible refine writeMarked_keeps' (by assumption) ?_)
      | (with_reducible apply noteAccess_keeps)
      | (with_reducible apply ih)
      | (with_reducible refine ih' (by assumption) ?_)
      | split
      | dsimp only

theorem writeRun_keeps' {c : SCtx} {x0 : List (Nat × Nat)} {x1 : List (Byte × Bool)} {x2 : Feed} {s : State} {res :
    Feed} {u : State} (heq : writeRun c x0 x1 x2 s = (res, u)) (hk : Keeps fz s0 s) : Keeps fz s0 u := by
  have k := writeRun_keeps c x0 x1 x2 s hk
  rw [heq] at k
  exact k

theorem readRuns_keeps (c : SCtx) (x0 : List Seg) (x1 : Feed) (s : State) (hk : Keeps fz s0 s) : Keeps fz s0
    (readRuns c x0 x1 s).2.2 := by
  induction x0 generalizing x1 s with
  | nil => simpa only [readRuns] using hk
  | cons x xs ih =>
    rw [readRuns]
    have ih' : ∀ {x1} {s} {res0} {res1} {u}, readRuns c xs x1 s = (res0, res1, u) → Keeps fz s0 s → Keeps fz s0 u := by
      intro x1 s res0 res1 u hq k
      have := ih x1 s k
      rw [hq] at this; exact this
    repeat' first
      | (with_reducible assumption)
      | (intro _)
      | (with_reducible apply ite_keeps)
      | (with_reducible apply readRun_keeps)
      | (with_reducible refine readRun_keeps' (by assumption) ?_)
      | (with_reducible apply ih)
      | (with_reducible refine ih' (by assumption) ?_)
      | split
      | dsimp only

theorem readRuns_keeps' {c : SCtx} {x0 : List Seg} {x1 : Feed} {s : State} {res : List (Byte × Bool)} {res1 : Feed}
    {u : State} (heq : readRuns c x0 x1 s = (res, res1, u)) (hk : Keeps fz s0 s) : Keeps fz s0 u := by
  have k := readRuns_keeps c x0 x1 s hk
  rw [heq] at k
  exact k

theorem writeSegs_keeps (c : SCtx) (x0 : List Seg) (x1 : List (Byte × Bool)) (x2 : Feed) (s : State) (hk : Keeps fz
    s0 s) : Keeps fz s0 (writeSegs c x0 x1 x2 s) := by
  induction x0 generalizing x1 x2 s with
  | nil => simpa only [writeSegs] using hk
  | cons x xs ih =>
    rw [writeSegs]
    repeat' first
      | (with_reducible assumption)
      | (intro _)
      | (with_reducible apply ite_keeps)
      | (with_reducible apply writeRun_keeps)
      | (with_reducible refine writeRun_keeps' (by assumption) ?_)
      | (with_reducible apply ih)
      | split
      | dsimp only

theorem noteRuns_keeps (job : Nat) (gs : List Seg) (s : State) (hk : Keeps fz s0 s) : Keeps fz s0 (noteRuns job gs
    s) := by
  unfold noteRuns
  repeat' first
    | (with_reducible assumption)
    | (intro _)
    | (with_reducible apply ite_keeps)
    | (with_reducible apply noteHome_keeps)
    | (with_reducible apply foldl_keeps)
    | split
    | dsimp only

theorem readPart_keeps (c : SCtx) (d : CopyDesc) (p n : Nat) (f : Feed) (s : State) (hk : Keeps fz s0 s) : Keeps fz
    s0 (readPart c d p n f s).2.2 := by
  unfold readPart
  repeat' first
    | (with_reducible assumption)
    | (intro _)
    | (with_reducible apply ite_keeps)
    | (with_reducible apply readRuns_keeps)
    | (with_reducible refine readRuns_keeps' (by assumption) ?_)
    | (with_reducible apply checkSegs_keeps)
    | (with_reducible apply noteRuns_keeps)
    | split
    | dsimp only

theorem readPart_keeps' {c : SCtx} {d : CopyDesc} {p : Nat} {n : Nat} {f : Feed} {s : State} {res : List (Byte ×
    Bool)} {res1 : Feed} {u : State} (heq : readPart c d p n f s = (res, res1, u)) (hk : Keeps fz s0 s) : Keeps fz
    s0 u := by
  have k := readPart_keeps c d p n f s hk
  rw [heq] at k
  exact k

theorem writePart_keeps (c : SCtx) (d : CopyDesc) (p n : Nat) (x : List (Byte × Bool)) (f : Feed) (s : State) (hk :
    Keeps fz s0 s) : Keeps fz s0 (writePart c d p n x f s) := by
  unfold writePart
  repeat' first
    | (with_reducible assumption)
    | (intro _)
    | (with_reducible apply ite_keeps)
    | (with_reducible apply writeSegs_keeps)
    | split
    | dsimp only

theorem setStage_keeps (k : Nat) (x : Stage) (s : State) (hk : Keeps fz s0 s) : Keeps fz s0 (setStage k x s) := by
  unfold setStage
  repeat' first
    | (with_reducible assumption)
    | (intro _)
    | (with_reducible apply ite_keeps)
    | split
    | dsimp only
    | (fail_if_no_progress with_reducible refine Keeps.updMk ?_ rfl rfl rfl rfl rfl rfl rfl)

theorem unitServed_keeps (k n : Nat) (j : Job) (d : CopyDesc) (s : State) (hk : Keeps fz s0 s) : Keeps fz s0
    (unitServed k n j d s) := by
  unfold unitServed
  repeat' first
    | (with_reducible assumption)
    | (intro _)
    | (with_reducible apply ite_keeps)
    | (with_reducible apply onJob_keeps)
    | (with_reducible apply State.fadd_keeps)
    | split
    | dsimp only

theorem stagedUnit_keeps (k : Nat) (j : Job) (d : CopyDesc) (n : Nat) (f : Feed) (s : State) (hk : Keeps fz s0 s) :
    Keeps fz s0 (stagedUnit k j d n f s) := by
  unfold stagedUnit
  repeat' first
    | (with_reducible assumption)
    | (intro _)
    | (with_reducible apply ite_keeps)
    | (with_reducible apply readPart_keeps)
    | (with_reducible refine readPart_keeps' (by assumption) ?_)
    | (with_reducible apply setStage_keeps)
    | (with_reducible apply onJob_keeps)
    | (with_reducible apply writePart_keeps)
    | (with_reducible apply unitServed_keeps)
    | (with_reducible apply State.fadd_keeps)
    | split
    | dsimp only
    | (fail_if_no_progress with_reducible refine Keeps.updMk ?_ rfl rfl rfl rfl rfl rfl rfl)

theorem plainUnit_keeps (k : Nat) (j : Job) (d : CopyDesc) (n : Nat) (f : Feed) (s : State) (hk : Keeps fz s0 s) :
    Keeps fz s0 (plainUnit k j d n f s) := by
  unfold plainUnit
  repeat' first
    | (with_reducible assumption)
    | (intro _)
    | (with_reducible apply ite_keeps)
    | (with_reducible apply readPart_keeps)
    | (with_reducible refine readPart_keeps' (by assumption) ?_)
    | (with_reducible apply unitServed_keeps)
    | (with_reducible apply writePart_keeps)
    | split
    | dsimp only

theorem copyUnit_keeps (k : Nat) (errs : List MemErr) (e : ExtReply) (s : State) (hk : Keeps fz s0 s) : Keeps fz s0
    (copyUnit k errs e s) := by
  unfold copyUnit
  repeat' first
    | (with_reducible assumption)
    | (intro _)
    | (with_reducible apply ite_keeps)
    | (with_reducible apply State.fset_keeps)
    | (with_reducible apply charge_keeps)
    | (with_reducible apply stagedUnit_keeps)
    | (with_reducible apply plainUnit_keeps)
    | split
    | dsimp only

theorem execCopyUnit_keeps (k : Fin 8) (errs : List MemErr) (e : ExtReply) (s : State) {nx : State} (hn :
    execCopyUnit k errs e s = .next nx) : Keeps true s nx := by
  unfold execCopyUnit at hn
  have hk := Keeps.refl true s
  refine ok_keeps hn ?_
  repeat' first
    | (with_reducible assumption)
    | (intro _)
    | (with_reducible apply ite_keeps)
    | (with_reducible apply copyUnit_keeps)
    | split
    | dsimp only

theorem copyComplete_keeps (k : Nat) (s : State) (hk : Keeps fz s0 s) : Keeps fz s0 (copyComplete k s) := by
  unfold copyComplete
  repeat' first
    | (with_reducible assumption)
    | (intro _)
    | (with_reducible apply ite_keeps)
    | (with_reducible apply completeJob_keeps)
    | (with_reducible apply State.fset_keeps)
    | (with_reducible apply State.fadd_keeps)
    | split
    | dsimp only

theorem execCopyComplete_keeps (k : Fin 8) (s : State) {nx : State} (hn : execCopyComplete k s = .next nx) : Keeps
    true s nx := by
  unfold execCopyComplete at hn
  have hk := Keeps.refl true s
  refine ok_keeps hn ?_
  repeat' first
    | (with_reducible assumption)
    | (intro _)
    | (with_reducible apply ite_keeps)
    | (with_reducible apply copyComplete_keeps)
    | split
    | dsimp only

theorem promoteCopy_keeps (k : Nat) (s : State) (hk : Keeps fz s0 s) : Keeps fz s0 (promoteCopy k s) := by
  unfold promoteCopy
  repeat' first
    | (with_reducible assumption)
    | (intro _)
    | (with_reducible apply ite_keeps)
    | (with_reducible apply onJob_keeps)
    | (with_reducible apply State.fadd_keeps)
    | split
    | dsimp only

theorem serveTarget_keeps (t : Nat) (errs : List MemErr) (e : ExtReply) (s : State) (hk : Keeps fz s0 s) : Keeps fz
    s0 (serveTarget t errs e s) := by
  unfold serveTarget
  repeat' first
    | (with_reducible assumption)
    | (intro _)
    | (with_reducible apply ite_keeps)
    | (with_reducible apply copyUnit_keeps)
    | (with_reducible apply serveReq_keeps)
    | split
    | dsimp only

theorem execServiceOpportunity_keeps (t : Fin 80) (errs : List MemErr) (e : ExtReply) (s : State) {nx : State} (hn :
    execServiceOpportunity t errs e s = .next nx) : Keeps true s nx := by
  unfold execServiceOpportunity at hn
  have hk := Keeps.refl true s
  refine ok_keeps hn ?_
  repeat' first
    | (with_reducible assumption)
    | (intro _)
    | (with_reducible apply ite_keeps)
    | (with_reducible apply serveTarget_keeps)
    | split
    | dsimp only

theorem execBulkPromotion_keeps (t : Fin 80) (s : State) {nx : State} (hn : execBulkPromotion t s = .next nx) :
    Keeps true s nx := by
  unfold execBulkPromotion at hn
  have hk := Keeps.refl true s
  refine ok_keeps hn ?_
  repeat' first
    | (with_reducible assumption)
    | (intro _)
    | (with_reducible apply ite_keeps)
    | (with_reducible apply promoteCopy_keeps)
    | (with_reducible apply promoteReq_keeps)
    | split
    | dsimp only

end Sys2Proof.Machine
end

