-- ==== Sys2Proof/Laws/KeepsZenith.lean ====
section
/-! SUPPORT. What the operations of Machine/Zenith.lean keep (Laws/Keeps.lean). -/
namespace Sys2Proof.Machine

variable {fz : Bool} {s0 : State}

theorem hostEvent_keeps (code : Word) (s : State) (hk : Keeps fz s0 s) : Keeps fz s0 (hostEvent code s) := by
  unfold hostEvent
  repeat' first
    | (with_reducible assumption)
    | (intro _)
    | (with_reducible apply ite_keeps)
    | (with_reducible apply advanceSeq_keeps)
    | (with_reducible apply State.setReg_keeps)
    | split
    | dsimp only

theorem moduleRdy_keeps (low : Bool) (s : State) (hk : Keeps fz s0 s) : Keeps fz s0 (moduleRdy low s) := by
  unfold moduleRdy
  repeat' first
    | (with_reducible assumption)
    | (intro _)
    | (with_reducible apply ite_keeps)
    | split
    | dsimp only
    | (fail_if_no_progress with_reducible refine Keeps.updMk ?_ rfl rfl rfl rfl rfl rfl rfl)

theorem zenEmit_keeps (dst : Nat) (arg : Word) (s : State) (hk : Keeps fz s0 s) : Keeps fz s0 (zenEmit dst arg s) :=
    by
  unfold zenEmit
  repeat' first
    | (with_reducible assumption)
    | (intro _)
    | (with_reducible apply ite_keeps)
    | (with_reducible apply startRequest_keeps)
    | (with_reducible apply zenDeferred_keeps)
    | (with_reducible apply hostEvent_keeps)
    | (with_reducible apply moduleRdy_keeps)
    | (with_reducible apply driveHearthEn_keeps)
    | (with_reducible apply nwHandover_keeps)
    | (with_reducible apply nwStandby_keeps)
    | split
    | dsimp only

theorem zenWrite_keeps (i dst : Nat) (arg : Word) (s : State) (hk : Keeps fz s0 s) : Keeps fz s0 (zenWrite i dst arg
    s) := by
  unfold zenWrite
  repeat' first
    | (with_reducible assumption)
    | (intro _)
    | (with_reducible apply ite_keeps)
    | (with_reducible apply writeDone_keeps)
    | (with_reducible apply busWrite_keeps)
    | (with_reducible apply onInst_keeps)
    | split
    | dsimp only

theorem rowOut_keeps (emitMax writeMax : Nat) (emit : Nat → Word → List Word → State → State) (write : Nat → Word →
    State → State) (r : TRow) (locals : List Word) (s : State) (hemit : ∀ (a0 : Nat) (a1 : Word) (a2 : List Word) (s
    : State), Keeps fz s0 s → Keeps fz s0 (emit a0 a1 a2 s)) (hwrite : ∀ (a0 : Nat) (a1 : Word) (s : State), Keeps
    fz s0 s → Keeps fz s0 (write a0 a1 s)) (hk : Keeps fz s0 s) : Keeps fz s0 (rowOut emitMax writeMax emit write r
    locals s) := by
  unfold rowOut
  repeat' first
    | (with_reducible assumption)
    | (intro _)
    | (with_reducible apply ite_keeps)
    | (apply hemit)
    | (apply hwrite)
    | split
    | dsimp only

theorem runRows_keeps (t : TTable) (inputs : List Word) (now : Nat) (get : State → Option TInst) (put : TInst →
    State → State) (out : TRow → List Word → State → State) (x0 x1 : Nat) (s : State) (hput : ∀ (a0 : TInst) (s :
    State), Keeps fz s0 s → Keeps fz s0 (put a0 s)) (hout : ∀ (a0 : TRow) (a1 : List Word) (s : State), Keeps fz s0
    s → Keeps fz s0 (out a0 a1 s)) (hk : Keeps fz s0 s) : Keeps fz s0 (runRows t inputs now get put out x0 x1 s).2
    := by
  induction x0 generalizing x1 s with
  | zero => simpa only [runRows] using hk
  | succ fuel ih =>
    rw [runRows]
    have ih' : ∀ {x1} {s} {res0} {u}, runRows t inputs now get put out fuel x1 s = (res0, u) → Keeps fz s0 s → Keeps fz
        s0 u := by
      intro x1 s res0 u hq k
      have := ih x1 s k
      rw [hq] at this; exact this
    repeat' first
      | (with_reducible assumption)
      | (intro _)
      | (with_reducible apply ite_keeps)
      | (apply hput)
      | (apply hout)
      | (with_reducible apply ih)
      | (with_reducible refine ih' (by assumption) ?_)
      | split
      | dsimp only

theorem runRows_keeps' {t : TTable} {inputs : List Word} {now : Nat} {get : State → Option TInst} {put : TInst →
    State → State} {out : TRow → List Word → State → State} {x0 : Nat} {x1 : Nat} {s : State} {res : PassEnd} {u :
    State} (hput : ∀ (a0 : TInst) (s : State), Keeps fz s0 s → Keeps fz s0 (put a0 s)) (hout : ∀ (a0 : TRow) (a1 :
    List Word) (s : State), Keeps fz s0 s → Keeps fz s0 (out a0 a1 s)) (heq : runRows t inputs now get put out x0 x1
    s = (res, u)) (hk : Keeps fz s0 s) : Keeps fz s0 u := by
  have k := runRows_keeps t inputs now get put out x0 x1 s hput hout hk
  rw [heq] at k
  exact k

theorem runPass_keeps (t : TTable) (inputs : List Word) (now : Nat) (get : State → Option TInst) (put : TInst →
    State → State) (out : TRow → List Word → State → State) (i : TInst) (s : State) (hput : ∀ (a0 : TInst) (s :
    State), Keeps fz s0 s → Keeps fz s0 (put a0 s)) (hout : ∀ (a0 : TRow) (a1 : List Word) (s : State), Keeps fz s0
    s → Keeps fz s0 (out a0 a1 s)) (hk : Keeps fz s0 s) : Keeps fz s0 (runPass t inputs now get put out i s).2 := by
  unfold runPass
  repeat' first
    | (with_reducible assumption)
    | (intro _)
    | (with_reducible apply ite_keeps)
    | (apply hput)
    | (apply hout)
    | (with_reducible apply runRows_keeps)
    | (with_reducible refine runRows_keeps' (by assumption) ?_)
    | split
    | dsimp only

theorem runPass_keeps' {t : TTable} {inputs : List Word} {now : Nat} {get : State → Option TInst} {put : TInst →
    State → State} {out : TRow → List Word → State → State} {i : TInst} {s : State} {res : PassEnd} {u : State}
    (hput : ∀ (a0 : TInst) (s : State), Keeps fz s0 s → Keeps fz s0 (put a0 s)) (hout : ∀ (a0 : TRow) (a1 : List
    Word) (s : State), Keeps fz s0 s → Keeps fz s0 (out a0 a1 s)) (heq : runPass t inputs now get put out i s =
    (res, u)) (hk : Keeps fz s0 s) : Keeps fz s0 u := by
  have k := runPass_keeps t inputs now get put out i s hput hout hk
  rw [heq] at k
  exact k

theorem clearInst_keeps (i : Nat) (s : State) (hk : Keeps fz s0 s) :
    Keeps fz s0 { s with zen := { s.zen with insts := s.zen.insts.set i none } } := by
  refine hk.updZen _ fun w => ?_
  simp only [ZenState.wf, ZenState.running, Bool.and_eq_true, beq_iff_eq] at w ⊢
  exact ⟨by simpa using w.1, decide_eq_true ((running_set_none _ i).nodup (of_decide_eq_true w.2))⟩

theorem zenPass_keeps (i : Nat) (s : State) (hk : Keeps fz s0 s) : Keeps fz s0 (zenPass i s) := by
  unfold zenPass
  split
  · exact hk
  · split
    · exact hk
    · extract_lets ins
      refine ite_keeps hk ?_
      split
      next e s1 he =>
      have k1 : Keeps fz s0 s1 := by
        refine runPass_keeps' (fun x s h => ?_) (fun r ls s h => ?_) he hk
        · exact onInst_keeps _ _ _ (fun _ => rfl) h
        · exact rowOut_keeps _ _ _ _ _ _ _ (fun _ _ _ _ h => zenEmit_keeps _ _ _ h)
            (fun _ _ _ h => zenWrite_keeps _ _ _ _ h) h
      extract_lets s2
      have k2 : Keeps fz s0 s2 := ite_keeps (State.fsat_keeps _ _ k1) k1
      exact syncZen_keeps _ (ite_keeps (clearInst_keeps _ _ k2) k2)

theorem strPass_keeps (k : Nat) (s : State) (hk : Keeps fz s0 s) : Keeps fz s0 (strPass k s) := by
  unfold strPass
  split
  · exact hk
  · split
    · exact hk
    · extract_lets ins
      refine ite_keeps hk ?_
      split
      next e s1 he =>
      have k1 : Keeps fz s0 s1 := by
        refine runPass_keeps' (fun x s h => onChan_keeps _ _ _ h) (fun r ls s h => ?_) he hk
        exact rowOut_keeps _ _ _ _ _ _ _ (fun _ _ _ _ h => strEmit_keeps _ _ _ _ _ h) (fun _ _ _ h => h) h
      extract_lets s2
      have k2 : Keeps fz s0 s2 := ite_keeps (State.fsat_keeps _ _ k1) k1
      exact ite_keeps (onChan_keeps _ _ _ k2) k2

theorem putNwInst_keeps (t : Nat) (x : TInst) (s : State) (hk : Keeps fz s0 s) : Keeps fz s0 (putNwInst t x s) := by
  unfold putNwInst
  repeat' first
    | (with_reducible assumption)
    | (intro _)
    | (with_reducible apply ite_keeps)
    | (with_reducible apply onNw_keeps)
    | split
    | dsimp only

theorem nwPass_keeps (t : Nat) (s : State) (hk : Keeps fz s0 s) : Keeps fz s0 (nwPass t s) := by
  unfold nwPass
  split
  · extract_lets ins
    refine ite_keeps hk ?_
    split
    next e s1 he =>
    have k1 : Keeps fz s0 s1 := by
      refine runPass_keeps' (fun x s h => putNwInst_keeps _ _ _ h) (fun r ls s h => ?_) he hk
      exact rowOut_keeps _ _ _ _ _ _ _ (fun _ _ _ _ h => nwEmit_keeps _ _ _ _ h) (fun _ _ _ h => h) h
    extract_lets s2
    have k2 : Keeps fz s0 s2 := nwTableRegs_keeps _ (ite_keeps (State.fsat_keeps _ _ k1) k1)
    exact ite_keeps (onNw_keeps _ _ k2) k2
  · exact hk

theorem execStateTablePass_keeps (e : Engine) (s : State) {nx : State} (hn : execStateTablePass e s = .next nx) :
    Keeps true s nx := by
  unfold execStateTablePass at hn
  have hk := Keeps.refl true s
  repeat' first
    | (split at hn)
    | (injection hn with hn; subst hn)
    | (with_reducible assumption)
    | (intro _)
    | (with_reducible apply ite_keeps)
    | (with_reducible apply zenPass_keeps)
    | (with_reducible apply strPass_keeps)
    | (with_reducible apply nwPass_keeps)
    | split
    | dsimp only
    | (with_reducible refine ok_keeps hn ?_)
    | (with_reducible refine okNw_keeps hn ?_)

theorem execTimerExpiry_keeps (e : Engine) (k : Fin 4) (s : State) {nx : State} (hn : execTimerExpiry e k s = .next
    nx) : Keeps true s nx := by
  unfold execTimerExpiry at hn
  have hk := Keeps.refl true s
  repeat' first
    | (split at hn)
    | (injection hn with hn; subst hn)
    | (with_reducible assumption)
    | (intro _)
    | (with_reducible apply ite_keeps)
    | (with_reducible apply onInst_keeps)
    | (with_reducible apply onChan_keeps)
    | (with_reducible apply onNw_keeps)
    | split
    | dsimp only
    | (with_reducible refine ok_keeps hn ?_)
    | (with_reducible refine okNw_keeps hn ?_)

theorem writeCompletes_keeps (i : Nat) (s : State) (hk : Keeps fz s0 s) : Keeps fz s0 (writeCompletes i s) := by
  unfold writeCompletes
  repeat' first
    | (with_reducible assumption)
    | (intro _)
    | (with_reducible apply ite_keeps)
    | (with_reducible apply writeDone_keeps)
    | split
    | dsimp only

theorem execWriteDone_keeps (i : Fin 8) (s : State) {nx : State} (hn : execWriteDone i s = .next nx) : Keeps true s
    nx := by
  unfold execWriteDone at hn
  have hk := Keeps.refl true s
  refine ok_keeps hn ?_
  repeat' first
    | (with_reducible assumption)
    | (intro _)
    | (with_reducible apply ite_keeps)
    | (with_reducible apply writeCompletes_keeps)
    | split
    | dsimp only

theorem takeReq_idle (z : ZenState) {l : List ZenReq} {r : ZenReq} {rs : List ZenReq} (h : takeReq z l = some (r,
    rs)) :
    z.runs r.proc = false := by
  induction l generalizing rs with
  | nil => cases h
  | cons q qs ih =>
    simp only [takeReq] at h
    split at h
    · split at h
      · next q' qs' hq => cases h; exact ih hq
      · cases h
    · next hn => cases h; simpa using hn

theorem procedureStart_keeps (s : State) (hk : Keeps fz s0 s) : Keeps fz s0 (procedureStart s) := by
  unfold procedureStart
  refine ite_keeps hk ?_
  split
  · next r rs h =>
    exact startInst_keeps _ _ (takeReq_idle s.zen h) (hk.updMk rfl rfl rfl rfl rfl rfl rfl)
  · exact hk

theorem execProcedureStart_keeps (s : State) {nx : State} (hn : execProcedureStart s = .next nx) : Keeps true s nx
    := by
  unfold execProcedureStart at hn
  have hk := Keeps.refl true s
  refine ok_keeps hn ?_
  repeat' first
    | (with_reducible assumption)
    | (intro _)
    | (with_reducible apply ite_keeps)
    | (with_reducible apply procedureStart_keeps)
    | split
    | dsimp only

end Sys2Proof.Machine
end

