-- ==== Sys2Proof/Laws/Outcomes.lean ====
section
/-! SUPPORT. What a command's outcome is, once for each shape of meaning: of a defined machine, of CRUST_AON, of Nightwatch, of a
configured Orbit channel, of a configuration request, of a host's register write. -/
namespace Sys2Proof.Machine

theorem ok_defined {f : State → State} {s : State} (h : Defined s) : ok f s = .next (f s) := by simp_all [ok, Defined]

theorem okAon_on {f : State → State} {s : State} (h : Defined s) (on : s.on 111 = true) : okAon f s = .next (f s) := by
  simp [okAon, ok_defined h, on]

theorem okAon_off {f : State → State} {s : State} (h : Defined s) (off : s.on 111 = false) : okAon f s = .next s := by
  simp [okAon, ok_defined h, off]

theorem okNw_on {f : State → State} {s : State} (h : s.pwr.sup.vddNw = true) : okNw f s = .next (f s) := by simp [okNw, h]

theorem okNw_off {f : State → State} {s : State} (h : s.pwr.sup.vddNw = false) : okNw f s = .next s := by simp [okNw, h]

theorem okOrb_chan {c : Nat} {f : OrbChan → State → State} {s : State} {ch : OrbChan} (h : Defined s) (on : s.on 157 = true)
    (trip : s.orb.tripped = false) (hc : s.orb.chans.lookup c = some ch) : okOrb c f s = .next (f ch s) := by
  simp [okOrb, ok_defined h, on, trip, hc]

theorem okConfig_built {f : HostFn} {g : State → State} {s : State} (h : Defined s) (hb : cfgPending s f.port = false) :
    okConfig f g s = .next (g s) := by
  simp [okConfig, ok_defined h, hb]

theorem okConfig_pending {f : HostFn} {g : State → State} {s : State} (h : Defined s) (hb : cfgPending s f.port = true) :
    okConfig f g s = .next (s.out (.retryStatus f)) := by
  simp [okConfig, ok_defined h, hb]

theorem hostWrite_granted {f : HostFn} {off : Nat} {act : State → State} {s : State} (h : HostGranted s f off) :
    ok (hostWrite f off act) s = .next (act s) := by
  obtain ⟨h1, h2, h3⟩ := h
  simp [ok, h1, hostWrite, h2, h3]

theorem hostWrite_void {f : HostFn} {off : Nat} {act : State → State} {s : State}
    (h : s.barsDecode f = false ∨ regGate s (s.masterOf f) true off = .void) : hostWrite f off act s = s := by
  rcases h with h | h <;> simp [hostWrite, h, gateFaults]

theorem hostWrite_denied {f : HostFn} {off t : Nat} {act : State → State} {s : State} (hb : s.barsDecode f = true)
    (h : regGate s (s.masterOf f) true off = .denied t) :
    hostWrite f off act s = denyAccess t (s.masterOf f) (faultFlags true false false true false) off s := by
  simp [hostWrite, hb, h, gateFaults]

theorem hostWrite_unpowered {f : HostFn} {off t d : Nat} {act : State → State} {s : State} (hb : s.barsDecode f = true)
    (h : regGate s (s.masterOf f) true off = .unpowered t d) :
    hostWrite f off act s = logFault 3 (faultFlags true false false true false) (s.masterOf f) t d off s := by
  simp [hostWrite, hb, h, gateFaults]

end Sys2Proof.Machine
end

