-- ==== Sys2Proof/Laws/State.lean ====
section
/-! SUPPORT. What the updates of the state leave alone, field by field, and what a register reads as after a write. -/
namespace Sys2Proof.Machine

variable (s : State)

/-! ## State.setReg -/

@[simp] theorem State.setReg_code (off : Nat) (v : Word) : (State.setReg off v s).code = s.code := rfl
@[simp] theorem State.setReg_epoch (off : Nat) (v : Word) : (State.setReg off v s).epoch = s.epoch := rfl
@[simp] theorem State.setReg_usCount (off : Nat) (v : Word) : (State.setReg off v s).usCount = s.usCount := rfl
@[simp] theorem State.setReg_mono (off : Nat) (v : Word) : (State.setReg off v s).mono = s.mono := rfl
@[simp] theorem State.setReg_pwr (off : Nat) (v : Word) : (State.setReg off v s).pwr = s.pwr := rfl
@[simp] theorem State.setReg_zen (off : Nat) (v : Word) : (State.setReg off v s).zen = s.zen := rfl
@[simp] theorem State.setReg_flt (off : Nat) (v : Word) : (State.setReg off v s).flt = s.flt := rfl
@[simp] theorem State.setReg_awt (off : Nat) (v : Word) : (State.setReg off v s).awt = s.awt := rfl
@[simp] theorem State.setReg_pcie (off : Nat) (v : Word) : (State.setReg off v s).pcie = s.pcie := rfl
@[simp] theorem State.setReg_side (off : Nat) (v : Word) : (State.setReg off v s).side = s.side := rfl
@[simp] theorem State.setReg_fab (off : Nat) (v : Word) : (State.setReg off v s).fab = s.fab := rfl
@[simp] theorem State.setReg_ovens (off : Nat) (v : Word) : (State.setReg off v s).ovens = s.ovens := rfl
@[simp] theorem State.setReg_mem (off : Nat) (v : Word) : (State.setReg off v s).mem = s.mem := rfl
@[simp] theorem State.setReg_ctx (off : Nat) (v : Word) : (State.setReg off v s).ctx = s.ctx := rfl
@[simp] theorem State.setReg_str (off : Nat) (v : Word) : (State.setReg off v s).str = s.str := rfl
@[simp] theorem State.setReg_mer (off : Nat) (v : Word) : (State.setReg off v s).mer = s.mer := rfl
@[simp] theorem State.setReg_vid (off : Nat) (v : Word) : (State.setReg off v s).vid = s.vid := rfl
@[simp] theorem State.setReg_orb (off : Nat) (v : Word) : (State.setReg off v s).orb = s.orb := rfl
@[simp] theorem State.setReg_pace (off : Nat) (v : Word) : (State.setReg off v s).pace = s.pace := rfl
@[simp] theorem State.setReg_nw (off : Nat) (v : Word) : (State.setReg off v s).nw = s.nw := rfl
@[simp] theorem State.setReg_rcp (off : Nat) (v : Word) : (State.setReg off v s).rcp = s.rcp := rfl
@[simp] theorem State.setReg_pending (off : Nat) (v : Word) : (State.setReg off v s).pending = s.pending := rfl
@[simp] theorem State.setReg_port (off : Nat) (v : Word) : (State.setReg off v s).port = s.port := rfl
@[simp] theorem State.setReg_freeCtr (off : Nat) (v : Word) : (State.setReg off v s).freeCtr = s.freeCtr := rfl

/-! ## State.resetRegs -/

@[simp] theorem State.resetRegs_code (lo hi : Nat) : (State.resetRegs lo hi s).code = s.code := rfl
@[simp] theorem State.resetRegs_epoch (lo hi : Nat) : (State.resetRegs lo hi s).epoch = s.epoch := rfl
@[simp] theorem State.resetRegs_usCount (lo hi : Nat) : (State.resetRegs lo hi s).usCount = s.usCount := rfl
@[simp] theorem State.resetRegs_mono (lo hi : Nat) : (State.resetRegs lo hi s).mono = s.mono := rfl
@[simp] theorem State.resetRegs_pwr (lo hi : Nat) : (State.resetRegs lo hi s).pwr = s.pwr := rfl
@[simp] theorem State.resetRegs_zen (lo hi : Nat) : (State.resetRegs lo hi s).zen = s.zen := rfl
@[simp] theorem State.resetRegs_flt (lo hi : Nat) : (State.resetRegs lo hi s).flt = s.flt := rfl
@[simp] theorem State.resetRegs_awt (lo hi : Nat) : (State.resetRegs lo hi s).awt = s.awt := rfl
@[simp] theorem State.resetRegs_pcie (lo hi : Nat) : (State.resetRegs lo hi s).pcie = s.pcie := rfl
@[simp] theorem State.resetRegs_side (lo hi : Nat) : (State.resetRegs lo hi s).side = s.side := rfl
@[simp] theorem State.resetRegs_fab (lo hi : Nat) : (State.resetRegs lo hi s).fab = s.fab := rfl
@[simp] theorem State.resetRegs_ovens (lo hi : Nat) : (State.resetRegs lo hi s).ovens = s.ovens := rfl
@[simp] theorem State.resetRegs_mem (lo hi : Nat) : (State.resetRegs lo hi s).mem = s.mem := rfl
@[simp] theorem State.resetRegs_ctx (lo hi : Nat) : (State.resetRegs lo hi s).ctx = s.ctx := rfl
@[simp] theorem State.resetRegs_str (lo hi : Nat) : (State.resetRegs lo hi s).str = s.str := rfl
@[simp] theorem State.resetRegs_mer (lo hi : Nat) : (State.resetRegs lo hi s).mer = s.mer := rfl
@[simp] theorem State.resetRegs_vid (lo hi : Nat) : (State.resetRegs lo hi s).vid = s.vid := rfl
@[simp] theorem State.resetRegs_orb (lo hi : Nat) : (State.resetRegs lo hi s).orb = s.orb := rfl
@[simp] theorem State.resetRegs_pace (lo hi : Nat) : (State.resetRegs lo hi s).pace = s.pace := rfl
@[simp] theorem State.resetRegs_nw (lo hi : Nat) : (State.resetRegs lo hi s).nw = s.nw := rfl
@[simp] theorem State.resetRegs_rcp (lo hi : Nat) : (State.resetRegs lo hi s).rcp = s.rcp := rfl
@[simp] theorem State.resetRegs_pending (lo hi : Nat) : (State.resetRegs lo hi s).pending = s.pending := rfl
@[simp] theorem State.resetRegs_port (lo hi : Nat) : (State.resetRegs lo hi s).port = s.port := rfl
@[simp] theorem State.resetRegs_freeCtr (lo hi : Nat) : (State.resetRegs lo hi s).freeCtr = s.freeCtr := rfl

/-! ## State.fset -/

@[simp] theorem State.fset_code (f : Fld) (v : Nat) : (State.fset f v s).code = s.code := rfl
@[simp] theorem State.fset_epoch (f : Fld) (v : Nat) : (State.fset f v s).epoch = s.epoch := rfl
@[simp] theorem State.fset_usCount (f : Fld) (v : Nat) : (State.fset f v s).usCount = s.usCount := rfl
@[simp] theorem State.fset_mono (f : Fld) (v : Nat) : (State.fset f v s).mono = s.mono := rfl
@[simp] theorem State.fset_pwr (f : Fld) (v : Nat) : (State.fset f v s).pwr = s.pwr := rfl
@[simp] theorem State.fset_zen (f : Fld) (v : Nat) : (State.fset f v s).zen = s.zen := rfl
@[simp] theorem State.fset_flt (f : Fld) (v : Nat) : (State.fset f v s).flt = s.flt := rfl
@[simp] theorem State.fset_awt (f : Fld) (v : Nat) : (State.fset f v s).awt = s.awt := rfl
@[simp] theorem State.fset_pcie (f : Fld) (v : Nat) : (State.fset f v s).pcie = s.pcie := rfl
@[simp] theorem State.fset_side (f : Fld) (v : Nat) : (State.fset f v s).side = s.side := rfl
@[simp] theorem State.fset_fab (f : Fld) (v : Nat) : (State.fset f v s).fab = s.fab := rfl
@[simp] theorem State.fset_ovens (f : Fld) (v : Nat) : (State.fset f v s).ovens = s.ovens := rfl
@[simp] theorem State.fset_mem (f : Fld) (v : Nat) : (State.fset f v s).mem = s.mem := rfl
@[simp] theorem State.fset_ctx (f : Fld) (v : Nat) : (State.fset f v s).ctx = s.ctx := rfl
@[simp] theorem State.fset_str (f : Fld) (v : Nat) : (State.fset f v s).str = s.str := rfl
@[simp] theorem State.fset_mer (f : Fld) (v : Nat) : (State.fset f v s).mer = s.mer := rfl
@[simp] theorem State.fset_vid (f : Fld) (v : Nat) : (State.fset f v s).vid = s.vid := rfl
@[simp] theorem State.fset_orb (f : Fld) (v : Nat) : (State.fset f v s).orb = s.orb := rfl
@[simp] theorem State.fset_pace (f : Fld) (v : Nat) : (State.fset f v s).pace = s.pace := rfl
@[simp] theorem State.fset_nw (f : Fld) (v : Nat) : (State.fset f v s).nw = s.nw := rfl
@[simp] theorem State.fset_rcp (f : Fld) (v : Nat) : (State.fset f v s).rcp = s.rcp := rfl
@[simp] theorem State.fset_pending (f : Fld) (v : Nat) : (State.fset f v s).pending = s.pending := rfl
@[simp] theorem State.fset_port (f : Fld) (v : Nat) : (State.fset f v s).port = s.port := rfl
@[simp] theorem State.fset_freeCtr (f : Fld) (v : Nat) : (State.fset f v s).freeCtr = s.freeCtr := rfl

/-! ## State.fadd -/

@[simp] theorem State.fadd_code (f : Fld) (n : Nat) : (State.fadd f n s).code = s.code := rfl
@[simp] theorem State.fadd_epoch (f : Fld) (n : Nat) : (State.fadd f n s).epoch = s.epoch := rfl
@[simp] theorem State.fadd_usCount (f : Fld) (n : Nat) : (State.fadd f n s).usCount = s.usCount := rfl
@[simp] theorem State.fadd_mono (f : Fld) (n : Nat) : (State.fadd f n s).mono = s.mono := rfl
@[simp] theorem State.fadd_pwr (f : Fld) (n : Nat) : (State.fadd f n s).pwr = s.pwr := rfl
@[simp] theorem State.fadd_zen (f : Fld) (n : Nat) : (State.fadd f n s).zen = s.zen := rfl
@[simp] theorem State.fadd_flt (f : Fld) (n : Nat) : (State.fadd f n s).flt = s.flt := rfl
@[simp] theorem State.fadd_awt (f : Fld) (n : Nat) : (State.fadd f n s).awt = s.awt := rfl
@[simp] theorem State.fadd_pcie (f : Fld) (n : Nat) : (State.fadd f n s).pcie = s.pcie := rfl
@[simp] theorem State.fadd_side (f : Fld) (n : Nat) : (State.fadd f n s).side = s.side := rfl
@[simp] theorem State.fadd_fab (f : Fld) (n : Nat) : (State.fadd f n s).fab = s.fab := rfl
@[simp] theorem State.fadd_ovens (f : Fld) (n : Nat) : (State.fadd f n s).ovens = s.ovens := rfl
@[simp] theorem State.fadd_mem (f : Fld) (n : Nat) : (State.fadd f n s).mem = s.mem := rfl
@[simp] theorem State.fadd_ctx (f : Fld) (n : Nat) : (State.fadd f n s).ctx = s.ctx := rfl
@[simp] theorem State.fadd_str (f : Fld) (n : Nat) : (State.fadd f n s).str = s.str := rfl
@[simp] theorem State.fadd_mer (f : Fld) (n : Nat) : (State.fadd f n s).mer = s.mer := rfl
@[simp] theorem State.fadd_vid (f : Fld) (n : Nat) : (State.fadd f n s).vid = s.vid := rfl
@[simp] theorem State.fadd_orb (f : Fld) (n : Nat) : (State.fadd f n s).orb = s.orb := rfl
@[simp] theorem State.fadd_pace (f : Fld) (n : Nat) : (State.fadd f n s).pace = s.pace := rfl
@[simp] theorem State.fadd_nw (f : Fld) (n : Nat) : (State.fadd f n s).nw = s.nw := rfl
@[simp] theorem State.fadd_rcp (f : Fld) (n : Nat) : (State.fadd f n s).rcp = s.rcp := rfl
@[simp] theorem State.fadd_pending (f : Fld) (n : Nat) : (State.fadd f n s).pending = s.pending := rfl
@[simp] theorem State.fadd_port (f : Fld) (n : Nat) : (State.fadd f n s).port = s.port := rfl
@[simp] theorem State.fadd_freeCtr (f : Fld) (n : Nat) : (State.fadd f n s).freeCtr = s.freeCtr := rfl

/-! ## State.fsat -/

@[simp] theorem State.fsat_code (f : Fld) : (State.fsat f s).code = s.code := rfl
@[simp] theorem State.fsat_epoch (f : Fld) : (State.fsat f s).epoch = s.epoch := rfl
@[simp] theorem State.fsat_usCount (f : Fld) : (State.fsat f s).usCount = s.usCount := rfl
@[simp] theorem State.fsat_mono (f : Fld) : (State.fsat f s).mono = s.mono := rfl
@[simp] theorem State.fsat_pwr (f : Fld) : (State.fsat f s).pwr = s.pwr := rfl
@[simp] theorem State.fsat_zen (f : Fld) : (State.fsat f s).zen = s.zen := rfl
@[simp] theorem State.fsat_flt (f : Fld) : (State.fsat f s).flt = s.flt := rfl
@[simp] theorem State.fsat_awt (f : Fld) : (State.fsat f s).awt = s.awt := rfl
@[simp] theorem State.fsat_pcie (f : Fld) : (State.fsat f s).pcie = s.pcie := rfl
@[simp] theorem State.fsat_side (f : Fld) : (State.fsat f s).side = s.side := rfl
@[simp] theorem State.fsat_fab (f : Fld) : (State.fsat f s).fab = s.fab := rfl
@[simp] theorem State.fsat_ovens (f : Fld) : (State.fsat f s).ovens = s.ovens := rfl
@[simp] theorem State.fsat_mem (f : Fld) : (State.fsat f s).mem = s.mem := rfl
@[simp] theorem State.fsat_ctx (f : Fld) : (State.fsat f s).ctx = s.ctx := rfl
@[simp] theorem State.fsat_str (f : Fld) : (State.fsat f s).str = s.str := rfl
@[simp] theorem State.fsat_mer (f : Fld) : (State.fsat f s).mer = s.mer := rfl
@[simp] theorem State.fsat_vid (f : Fld) : (State.fsat f s).vid = s.vid := rfl
@[simp] theorem State.fsat_orb (f : Fld) : (State.fsat f s).orb = s.orb := rfl
@[simp] theorem State.fsat_pace (f : Fld) : (State.fsat f s).pace = s.pace := rfl
@[simp] theorem State.fsat_nw (f : Fld) : (State.fsat f s).nw = s.nw := rfl
@[simp] theorem State.fsat_rcp (f : Fld) : (State.fsat f s).rcp = s.rcp := rfl
@[simp] theorem State.fsat_pending (f : Fld) : (State.fsat f s).pending = s.pending := rfl
@[simp] theorem State.fsat_port (f : Fld) : (State.fsat f s).port = s.port := rfl
@[simp] theorem State.fsat_freeCtr (f : Fld) : (State.fsat f s).freeCtr = s.freeCtr := rfl

/-! ## State.setPair -/

@[simp] theorem State.setPair_code (lo hi v : Nat) : (State.setPair lo hi v s).code = s.code := rfl
@[simp] theorem State.setPair_epoch (lo hi v : Nat) : (State.setPair lo hi v s).epoch = s.epoch := rfl
@[simp] theorem State.setPair_usCount (lo hi v : Nat) : (State.setPair lo hi v s).usCount = s.usCount := rfl
@[simp] theorem State.setPair_mono (lo hi v : Nat) : (State.setPair lo hi v s).mono = s.mono := rfl
@[simp] theorem State.setPair_pwr (lo hi v : Nat) : (State.setPair lo hi v s).pwr = s.pwr := rfl
@[simp] theorem State.setPair_zen (lo hi v : Nat) : (State.setPair lo hi v s).zen = s.zen := rfl
@[simp] theorem State.setPair_flt (lo hi v : Nat) : (State.setPair lo hi v s).flt = s.flt := rfl
@[simp] theorem State.setPair_awt (lo hi v : Nat) : (State.setPair lo hi v s).awt = s.awt := rfl
@[simp] theorem State.setPair_pcie (lo hi v : Nat) : (State.setPair lo hi v s).pcie = s.pcie := rfl
@[simp] theorem State.setPair_side (lo hi v : Nat) : (State.setPair lo hi v s).side = s.side := rfl
@[simp] theorem State.setPair_fab (lo hi v : Nat) : (State.setPair lo hi v s).fab = s.fab := rfl
@[simp] theorem State.setPair_ovens (lo hi v : Nat) : (State.setPair lo hi v s).ovens = s.ovens := rfl
@[simp] theorem State.setPair_mem (lo hi v : Nat) : (State.setPair lo hi v s).mem = s.mem := rfl
@[simp] theorem State.setPair_ctx (lo hi v : Nat) : (State.setPair lo hi v s).ctx = s.ctx := rfl
@[simp] theorem State.setPair_str (lo hi v : Nat) : (State.setPair lo hi v s).str = s.str := rfl
@[simp] theorem State.setPair_mer (lo hi v : Nat) : (State.setPair lo hi v s).mer = s.mer := rfl
@[simp] theorem State.setPair_vid (lo hi v : Nat) : (State.setPair lo hi v s).vid = s.vid := rfl
@[simp] theorem State.setPair_orb (lo hi v : Nat) : (State.setPair lo hi v s).orb = s.orb := rfl
@[simp] theorem State.setPair_pace (lo hi v : Nat) : (State.setPair lo hi v s).pace = s.pace := rfl
@[simp] theorem State.setPair_nw (lo hi v : Nat) : (State.setPair lo hi v s).nw = s.nw := rfl
@[simp] theorem State.setPair_rcp (lo hi v : Nat) : (State.setPair lo hi v s).rcp = s.rcp := rfl
@[simp] theorem State.setPair_pending (lo hi v : Nat) : (State.setPair lo hi v s).pending = s.pending := rfl
@[simp] theorem State.setPair_port (lo hi v : Nat) : (State.setPair lo hi v s).port = s.port := rfl
@[simp] theorem State.setPair_freeCtr (lo hi v : Nat) : (State.setPair lo hi v s).freeCtr = s.freeCtr := rfl

/-! ## State.out -/

@[simp] theorem State.out_code (e : PortEvent) : (State.out e s).code = s.code := rfl
@[simp] theorem State.out_epoch (e : PortEvent) : (State.out e s).epoch = s.epoch := rfl
@[simp] theorem State.out_usCount (e : PortEvent) : (State.out e s).usCount = s.usCount := rfl
@[simp] theorem State.out_mono (e : PortEvent) : (State.out e s).mono = s.mono := rfl
@[simp] theorem State.out_regs (e : PortEvent) : (State.out e s).regs = s.regs := rfl
@[simp] theorem State.out_pwr (e : PortEvent) : (State.out e s).pwr = s.pwr := rfl
@[simp] theorem State.out_zen (e : PortEvent) : (State.out e s).zen = s.zen := rfl
@[simp] theorem State.out_flt (e : PortEvent) : (State.out e s).flt = s.flt := rfl
@[simp] theorem State.out_awt (e : PortEvent) : (State.out e s).awt = s.awt := rfl
@[simp] theorem State.out_pcie (e : PortEvent) : (State.out e s).pcie = s.pcie := rfl
@[simp] theorem State.out_side (e : PortEvent) : (State.out e s).side = s.side := rfl
@[simp] theorem State.out_fab (e : PortEvent) : (State.out e s).fab = s.fab := rfl
@[simp] theorem State.out_ovens (e : PortEvent) : (State.out e s).ovens = s.ovens := rfl
@[simp] theorem State.out_mem (e : PortEvent) : (State.out e s).mem = s.mem := rfl
@[simp] theorem State.out_ctx (e : PortEvent) : (State.out e s).ctx = s.ctx := rfl
@[simp] theorem State.out_str (e : PortEvent) : (State.out e s).str = s.str := rfl
@[simp] theorem State.out_mer (e : PortEvent) : (State.out e s).mer = s.mer := rfl
@[simp] theorem State.out_vid (e : PortEvent) : (State.out e s).vid = s.vid := rfl
@[simp] theorem State.out_orb (e : PortEvent) : (State.out e s).orb = s.orb := rfl
@[simp] theorem State.out_pace (e : PortEvent) : (State.out e s).pace = s.pace := rfl
@[simp] theorem State.out_nw (e : PortEvent) : (State.out e s).nw = s.nw := rfl
@[simp] theorem State.out_rcp (e : PortEvent) : (State.out e s).rcp = s.rcp := rfl
@[simp] theorem State.out_pending (e : PortEvent) : (State.out e s).pending = s.pending := rfl
@[simp] theorem State.out_freeCtr (e : PortEvent) : (State.out e s).freeCtr = s.freeCtr := rfl

/-! ## State.setCfgWord -/

@[simp] theorem State.setCfgWord_code (f : HostFn) (off : Nat) (v : Word) : (State.setCfgWord f off v s).code = s.code := rfl
@[simp] theorem State.setCfgWord_epoch (f : HostFn) (off : Nat) (v : Word) : (State.setCfgWord f off v s).epoch = s.epoch := rfl
@[simp] theorem State.setCfgWord_usCount (f : HostFn) (off : Nat) (v : Word) : (State.setCfgWord f off v s).usCount = s.usCount := rfl
@[simp] theorem State.setCfgWord_mono (f : HostFn) (off : Nat) (v : Word) : (State.setCfgWord f off v s).mono = s.mono := rfl
@[simp] theorem State.setCfgWord_regs (f : HostFn) (off : Nat) (v : Word) : (State.setCfgWord f off v s).regs = s.regs := rfl
@[simp] theorem State.setCfgWord_pwr (f : HostFn) (off : Nat) (v : Word) : (State.setCfgWord f off v s).pwr = s.pwr := rfl
@[simp] theorem State.setCfgWord_zen (f : HostFn) (off : Nat) (v : Word) : (State.setCfgWord f off v s).zen = s.zen := rfl
@[simp] theorem State.setCfgWord_flt (f : HostFn) (off : Nat) (v : Word) : (State.setCfgWord f off v s).flt = s.flt := rfl
@[simp] theorem State.setCfgWord_awt (f : HostFn) (off : Nat) (v : Word) : (State.setCfgWord f off v s).awt = s.awt := rfl
@[simp] theorem State.setCfgWord_side (f : HostFn) (off : Nat) (v : Word) : (State.setCfgWord f off v s).side = s.side := rfl
@[simp] theorem State.setCfgWord_fab (f : HostFn) (off : Nat) (v : Word) : (State.setCfgWord f off v s).fab = s.fab := rfl
@[simp] theorem State.setCfgWord_ovens (f : HostFn) (off : Nat) (v : Word) : (State.setCfgWord f off v s).ovens = s.ovens := rfl
@[simp] theorem State.setCfgWord_mem (f : HostFn) (off : Nat) (v : Word) : (State.setCfgWord f off v s).mem = s.mem := rfl
@[simp] theorem State.setCfgWord_ctx (f : HostFn) (off : Nat) (v : Word) : (State.setCfgWord f off v s).ctx = s.ctx := rfl
@[simp] theorem State.setCfgWord_str (f : HostFn) (off : Nat) (v : Word) : (State.setCfgWord f off v s).str = s.str := rfl
@[simp] theorem State.setCfgWord_mer (f : HostFn) (off : Nat) (v : Word) : (State.setCfgWord f off v s).mer = s.mer := rfl
@[simp] theorem State.setCfgWord_vid (f : HostFn) (off : Nat) (v : Word) : (State.setCfgWord f off v s).vid = s.vid := rfl
@[simp] theorem State.setCfgWord_orb (f : HostFn) (off : Nat) (v : Word) : (State.setCfgWord f off v s).orb = s.orb := rfl
@[simp] theorem State.setCfgWord_pace (f : HostFn) (off : Nat) (v : Word) : (State.setCfgWord f off v s).pace = s.pace := rfl
@[simp] theorem State.setCfgWord_nw (f : HostFn) (off : Nat) (v : Word) : (State.setCfgWord f off v s).nw = s.nw := rfl
@[simp] theorem State.setCfgWord_rcp (f : HostFn) (off : Nat) (v : Word) : (State.setCfgWord f off v s).rcp = s.rcp := rfl
@[simp] theorem State.setCfgWord_pending (f : HostFn) (off : Nat) (v : Word) : (State.setCfgWord f off v s).pending = s.pending := rfl
@[simp] theorem State.setCfgWord_port (f : HostFn) (off : Nat) (v : Word) : (State.setCfgWord f off v s).port = s.port := rfl
@[simp] theorem State.setCfgWord_freeCtr (f : HostFn) (off : Nat) (v : Word) : (State.setCfgWord f off v s).freeCtr = s.freeCtr := rfl

/-! ## State.setMsix -/

@[simp] theorem State.setMsix_code (f : HostFn) (v : Nat) (e : MsixEntry) : (State.setMsix f v e s).code = s.code := rfl
@[simp] theorem State.setMsix_epoch (f : HostFn) (v : Nat) (e : MsixEntry) : (State.setMsix f v e s).epoch = s.epoch := rfl
@[simp] theorem State.setMsix_usCount (f : HostFn) (v : Nat) (e : MsixEntry) : (State.setMsix f v e s).usCount = s.usCount := rfl
@[simp] theorem State.setMsix_mono (f : HostFn) (v : Nat) (e : MsixEntry) : (State.setMsix f v e s).mono = s.mono := rfl
@[simp] theorem State.setMsix_regs (f : HostFn) (v : Nat) (e : MsixEntry) : (State.setMsix f v e s).regs = s.regs := rfl
@[simp] theorem State.setMsix_pwr (f : HostFn) (v : Nat) (e : MsixEntry) : (State.setMsix f v e s).pwr = s.pwr := rfl
@[simp] theorem State.setMsix_zen (f : HostFn) (v : Nat) (e : MsixEntry) : (State.setMsix f v e s).zen = s.zen := rfl
@[simp] theorem State.setMsix_flt (f : HostFn) (v : Nat) (e : MsixEntry) : (State.setMsix f v e s).flt = s.flt := rfl
@[simp] theorem State.setMsix_awt (f : HostFn) (v : Nat) (e : MsixEntry) : (State.setMsix f v e s).awt = s.awt := rfl
@[simp] theorem State.setMsix_side (f : HostFn) (v : Nat) (e : MsixEntry) : (State.setMsix f v e s).side = s.side := rfl
@[simp] theorem State.setMsix_fab (f : HostFn) (v : Nat) (e : MsixEntry) : (State.setMsix f v e s).fab = s.fab := rfl
@[simp] theorem State.setMsix_ovens (f : HostFn) (v : Nat) (e : MsixEntry) : (State.setMsix f v e s).ovens = s.ovens := rfl
@[simp] theorem State.setMsix_mem (f : HostFn) (v : Nat) (e : MsixEntry) : (State.setMsix f v e s).mem = s.mem := rfl
@[simp] theorem State.setMsix_ctx (f : HostFn) (v : Nat) (e : MsixEntry) : (State.setMsix f v e s).ctx = s.ctx := rfl
@[simp] theorem State.setMsix_str (f : HostFn) (v : Nat) (e : MsixEntry) : (State.setMsix f v e s).str = s.str := rfl
@[simp] theorem State.setMsix_mer (f : HostFn) (v : Nat) (e : MsixEntry) : (State.setMsix f v e s).mer = s.mer := rfl
@[simp] theorem State.setMsix_vid (f : HostFn) (v : Nat) (e : MsixEntry) : (State.setMsix f v e s).vid = s.vid := rfl
@[simp] theorem State.setMsix_orb (f : HostFn) (v : Nat) (e : MsixEntry) : (State.setMsix f v e s).orb = s.orb := rfl
@[simp] theorem State.setMsix_pace (f : HostFn) (v : Nat) (e : MsixEntry) : (State.setMsix f v e s).pace = s.pace := rfl
@[simp] theorem State.setMsix_nw (f : HostFn) (v : Nat) (e : MsixEntry) : (State.setMsix f v e s).nw = s.nw := rfl
@[simp] theorem State.setMsix_rcp (f : HostFn) (v : Nat) (e : MsixEntry) : (State.setMsix f v e s).rcp = s.rcp := rfl
@[simp] theorem State.setMsix_pending (f : HostFn) (v : Nat) (e : MsixEntry) : (State.setMsix f v e s).pending = s.pending := rfl
@[simp] theorem State.setMsix_port (f : HostFn) (v : Nat) (e : MsixEntry) : (State.setMsix f v e s).port = s.port := rfl
@[simp] theorem State.setMsix_freeCtr (f : HostFn) (v : Nat) (e : MsixEntry) : (State.setMsix f v e s).freeCtr = s.freeCtr := rfl

@[simp] theorem State.out_port (e : PortEvent) : (s.out e).port = e :: s.port := rfl

/-! ## Registers -/

variable {s}

/-- A register reads as what was written to it. -/
theorem State.reg_setReg_self (w : spWf regReset s.regs = true) (off : Nat) (v : Word) :
    (s.setReg off v).reg off = v := spGet_spSet_self _ _ _ ((spWf_iff _ _).mp w).1

/-- A write of a register leaves every other register alone. -/
theorem State.reg_setReg_ne (w : spWf regReset s.regs = true) {off o : Nat} (h : o ≠ off) (v : Word) :
    (s.setReg off v).reg o = s.reg o := spGet_spSet_ne _ _ h _ ((spWf_iff _ _).mp w).1

/-- Outputs are no registers. -/
@[simp] theorem State.reg_out (e : PortEvent) (o : Nat) : (s.out e).reg o = s.reg o := rfl
@[simp] theorem State.fget_out (e : PortEvent) (f : Fld) : (s.out e).fget f = s.fget f := rfl

/-- Registers stay in canonical form. -/
theorem State.regs_wf_setReg (w : spWf regReset s.regs = true) (off : Nat) (v : Word) :
    spWf regReset (s.setReg off v).regs = true := spWf_spSet _ _ _ w

/-- A field reads as the low bits of what was written to it. -/
theorem State.fget_fset_self (w : spWf regReset s.regs = true) {f : Fld} (h : f.lo ≤ f.hi) (hh : f.hi < 32) (v : Nat) :
    (s.fset f v).fget f = v % 2 ^ (f.hi + 1 - f.lo) := by
  rw [State.fget, State.fset, State.reg_setReg_self w, bitsOf_withBits_self h hh]

/-- A write of a field leaves every field of another register alone. -/
theorem State.fget_fset_other (w : spWf regReset s.regs = true) {f g : Fld} (h : g.off ≠ f.off) (v : Nat) :
    (s.fset f v).fget g = s.fget g := by
  rw [State.fget, State.fset, State.reg_setReg_ne w h, State.fget]

/-- A write of a field leaves the other fields of its register alone. -/
theorem State.fget_fset_ne (w : spWf regReset s.regs = true) {f g : Fld} (ho : g.off = f.off) (h : f.lo ≤ f.hi)
    (hh : f.hi < 32) (hg : g.hi < 32) (hd : f.hi < g.lo ∨ g.hi < f.lo) (v : Nat) : (s.fset f v).fget g = s.fget g := by
  rw [State.fget, State.fset, ho, State.reg_setReg_self w, bitsOf_withBits_ne h hh hg hd, State.fget, ho]

/-- A counter that counts modulo its width. -/
theorem State.fget_fadd_self (w : spWf regReset s.regs = true) {f : Fld} (h : f.lo ≤ f.hi) (hh : f.hi < 32) (n : Nat) :
    (s.fadd f n).fget f = (s.fget f + n) % 2 ^ (f.hi + 1 - f.lo) := State.fget_fset_self w h hh _

end Sys2Proof.Machine
end

