-- ==== Sys2Proof/WellFormed.lean ====
section
/-! DEFINITION. Which commands are well formed: the ranges of the operands that their types leave open. A command outside
them is one that the world cannot send. -/
namespace Sys2Proof

/-- An access to BAR0 or to BAR2: in its 32 MiB or 4 MiB, of 1 to 8 bytes (R45, R46, R353, R445). -/
def barAccess (bar2 : Bool) (off size : Nat) : Bool :=
  decide (off + size ≤ if bar2 then 0x400000 else 0x2000000) && decide (1 ≤ size ∧ size ≤ 8)

/-- The bytes of a source: at most what RCP_SRC_LEN can say (R90, R111). -/
def sourceSize (data : List Byte) : Bool := decide (data.length < 0x4000000)

/-- An answer from outside: at most a service unit, or a page (R297, R300). -/
def ExtReply.wf (e : ExtReply) : Bool := decide (e.data.length ≤ 4096)

/-- The bytes that a message of a kind carries (R320). -/
def MerOp.carries (op : MerOp) (n : Nat) : Bool :=
  match op with
  | .wrf => n == 64
  | .wrm | .rdc => decide (n ≤ 64)
  | .slot => n == 32
  | .rd | .wra | .ctl => n == 0

/-- A message of a kind: its fields are as wide as the header's (R320). -/
def MerMsg.wf (m : MerMsg) (op : MerOp) : Bool :=
  m.op == op && decide (m.cls < 3) && decide (m.srcHome < 8) && decide (m.master < 4096) && decide (m.tag < 65536) &&
    decide (m.addr < 2 ^ 40) && decide (m.deadline < 2 ^ 32) && decide (m.status < 3) && decide (m.enables < 2 ^ 64) &&
    decide (m.user < 2 ^ 14) && op.carries m.data.length

/-- A flit has 640 bytes; a skip flit carries nothing (R314, R319). -/
def RxFlit.wf (x : RxFlit) : Bool := if x.skip then x.bytes.isEmpty else x.bytes.length == 640

/-- An offer of a Set, or an answer to one (R340). -/
def SetOffer.wf : SetOffer → Bool
  | .offer leaver base size => decide (leaver < 8) && decide (base < 2 ^ 40) && decide (size ≤ 2 ^ 37)
  | .accept home addr => decide (home < 8) && decide (addr < 2 ^ 40)
  | .decline home => decide (home < 8)
  | .relocated home _ => decide (home < 8)
  | .done home => decide (home < 8)

/-- The well-formed commands. -/
def Instr.wf : Instr → Bool
  | .registerWrite _ bar2 off size _ => barAccess bar2 off size
  | .vddNwRise => true
  | .vddNwLoss => true
  | .porNAssert => true
  | .porNDeassert _ _ => true
  | .perstNAssert => true
  | .perstNDeassert => true
  | .bootRomStart => true
  | .configSpaceBuilt => true
  | .autoSpiLoad none => true
  | .autoSpiLoad (some f) => decide (25 ≤ f.mhz ∧ f.mhz ≤ 255 ∧ 1 ≤ f.mib ∧ f.mib ≤ 4096)
  | .load _ _ => true
  | .patch _ _ _ => true
  | .deferred _ _ => true
  | .loadVerified data => sourceSize data
  | .commit data fuses => sourceSize data && fuses.all fun x => decide (x < 2 ^ 256)
  | .sourceFault data _ off => sourceSize data && decide (off < 0x4000000)
  | .deferredDone data => sourceSize data
  | .patchQuiesce => true
  | .drainTimeout => true
  | .patchApply data => sourceSize data
  | .pwrReqWrite _ _ _ => true
  | .domainTransitionStart _ => true
  | .domainTransitionDone => true
  | .vddHearthLoss => true
  | .crustSupplyFault _ => true
  | .thermtrip => true
  | .modulePresAssert => true
  | .modulePresRelease => true
  | .moduleEjectNFall => true
  | .moduleEject => true
  | .moduleEjectNRise => true
  | .bakeryReset _ _ _ => true
  | .bakeryResetDone => true
  | .zenTrig _ _ _ => true
  | .zenSignal _ _ => true
  | .procedureStart => true
  | .stateTablePass _ => true
  | .timerExpiry _ _ => true
  | .writeDone _ => true
  | .streamEnable _ _ => true
  | .streamStop _ _ => true
  | .hostTrigger _ _ _ => true
  | .streamSignal _ _ _ => true
  | .ticketAck _ _ e => e.wf
  | .frameStart _ => true
  | .otgStart _ _ => true
  | .otgStop _ _ => true
  | .otgAtWrite _ _ _ => true
  | .ctxEnable _ _ => true
  | .ctxDisable _ _ => true
  | .sqTailDoorbell _ _ _ => true
  | .cqHeadUpdate _ _ _ => true
  | .cqArm _ _ _ => true
  | .descriptorFetched _ _ e => e.wf
  | .waitingJobProceeds => true
  | .passStart _ => true
  | .loadw _ => true
  | .mac _ => true
  | .glaze _ => true
  | .fetch _ => true
  | .flush _ => true
  | .loop _ => true
  | .ovenEnd _ => true
  | .starterAffine _ => true
  | .starterMix _ => true
  | .starterRebaseIf _ => true
  | .passEnd _ => true
  | .mailboxWrite _ _ e => e.wf
  | .completionRecordWrite _ e => e.wf
  | .msixMessage _ => true
  | .msixUnmask _ _ => true
  | .mbxAck _ _ _ => true
  | .bakeryStall _ => true
  | .bulkPromotion _ => true
  | .serviceOpportunity _ _ e => e.wf
  | .meterGain => true
  | .copyUnit _ _ e => e.wf
  | .copyComplete _ => true
  | .mr4Poll _ _ => true
  | .powerDownEntry _ => true
  | .channelTrained _ => true
  | .memTrained => true
  | .hostReadCompletion _ e => e.wf
  | .completionTimeout _ => true
  | .linkTrained _ => true
  | .linkIdent _ _ _ _ _ _ => true
  | .refusedRetry _ => true
  | .gen2Fallback _ _ => true
  | .linkLost _ => true
  | .ackProgressTimeout _ => true
  | .replayExhausted _ => true
  | .linkDisable _ _ => true
  | .flitReceived _ x => x.wf
  | .msgRd _ m => m.wf .rd
  | .msgWrf _ m => m.wf .wrf
  | .msgWrm _ m => m.wf .wrm
  | .msgRdc _ m => m.wf .rdc
  | .msgWra _ m => m.wf .wra
  | .msgSlot _ m => m.wf .slot
  | .msgRouteAnnounce _ _ _ => true
  | .msgWithdrawal _ _ => true
  | .msgSetNotice _ _ _ => true
  | .msgSetOffer _ _ x => x.wf
  | .msgRelocation _ _ base size newBase => decide (base < 2 ^ 40) && decide (size ≤ 2 ^ 37) && newBase.all fun a => decide (a < 2 ^ 40)
  | .msgSetFinal _ _ _ => true
  | .epochSlew _ => true
  | .rise _ _ _ => true
  | .riseComplete _ depths => depths.all fun d => decide (d.1 < 1024) && decide (1 ≤ d.2)
  | .setGo _ _ => true
  | .setWindowCopied => true
  | .setComplete => true
  | .paceTick sent crust => decide (sent.length ≤ 48) && crust.length == 4 && (sent.all fun x => decide (x.1 < 4096) && decide (x.2 < 1024)) &&
      crust.all fun x => decide (x < 1024)
  | .avsAttemptDone _ _ => true
  | .riseCutWindow => true
  | .paceEvtAck _ _ => true
  | .orbAuto _ _ => true
  | .orbManual _ _ _ => true
  | .orbStop _ _ => true
  | .orbClear _ _ => true
  | .orbPendingCommand _ => true
  | .observeTransition _ _ _ => true
  | .observeEnd _ => true
  | .brakeEnd _ => true
  | .positionDone _ trips => trips.length == 6 || trips.length == 12
  | .alignEnd _ => true
  | .rampCommutation _ => true
  | .rampFail _ => true
  | .zeroCrossing _ _ _ => true
  | .commutation _ => true
  | .syncLoss _ => true
  | .ocTrip _ isns => decide (isns ≤ 10000000)
  | .overcurrent _ => true
  | .short _ isns => decide (isns ≤ 10000000)
  | .faultRetry _ => true
  | .speedLoopUpdate _ => true
  | .measurementLapse _ => true
  | .faultEnd _ => true
  | .featureFrame => true
  | .alarmBlock => true
  | .channelDead _ => true
  | .channelAlive _ => true
  | .tsyncCapture => true
  | .wakeDelivery => true
  | .windowTimeout => true
  | .nwClose _ _ => true
  | .scrubDone => true
  | .nwPost _ => true
  | .nwWakeAck _ _ => true
  | .nwSignal _ _ => true
  | .nwModeListen _ => true
  | .nwModeFull _ => true
  | .nwReset _ => true
  | .nwEnrol _ _ _ _ => true
  | .nwEnrolDelete _ _ _ _ => true
  | .enrolTimeout => true
  | .crossingIsolation => true
  | .pdmClockChange => true
  | .settleEnd => true
  | .frameStartPacket _ _ _ _ => true
  | .longPacket _ _ _ data _ _ => decide (data.length < 65536)
  | .frameEndPacket _ _ _ => true
  | .otherPacket _ _ _ => true
  | .mipiFrameDone _ _ => true
  | .hpdChange _ _ => true
  | .edpTrainingStart _ => true
  | .edpLinkLoss _ => true
  | .hpdIrq _ _ => true
  | .trainingDone _ _ => true
  | .trainingRetry _ => true
  | .portRetrain _ _ => true
  | .portHold _ _ => true
  | .portRelease _ _ => true
  | .auxNativeRead _ _ _ _ => true
  | .auxNativeWrite _ _ _ _ => true
  | .auxI2cRead _ _ _ _ => true
  | .auxI2cWrite _ _ _ _ => true
  | .auxComplete _ data => decide (data.length ≤ 16)
  | .auxDeferRetry => true
  | .dsiPush _ => true
  | .dsiInitEntry => true
  | .scanoutLine _ reads => reads.all fun r => r.e.wf && r.late.all fun x => decide (x < 65536)
  | .hotReset _ => true
  | .dlDown _ => true
  | .flr _ => true
  | .vfEnableWrite _ _ => true
  | .configWrite _ off _ _ => decide (off < 4096) && off % 4 == 0
  | .d3hot _ => true
  | .bar4Read _ off len _ e => decide (1 ≤ len) && decide (len ≤ 4096) && decide (off + len ≤ 2 ^ 40) && e.wf
  | .bar4Write _ off data en _ _ e => decide (1 ≤ data.length) && decide (data.length ≤ 512) && decide (off + data.length ≤ 2 ^ 40) && decide (en < 2 ^ data.length) &&
      e.wf
  | .unsupportedRequest _ => true
  | .entdaa _ => true
  | .setdasa _ _ => true
  | .setnewda _ => true
  | .rstdaa => true
  | .enec => true
  | .disec => true
  | .getpid => true
  | .getbcr => true
  | .getdcr => true
  | .getstatus => true
  | .getmwl => true
  | .getmrl => true
  | .setmwl _ => true
  | .setmrl _ => true
  | .sbTrig _ _ => true
  | .sbTohost _ => true
  | .sbTosb _ _ => true
  | .ibiRetry _ => true
  | .spiGo _ _ _ => true
  | .spiPassthroughDone data => decide (data.length ≤ 256)
  | .gpioSet _ _ => true
  | .gpioClr _ _ => true
  | .gpioEdge _ => true
  | .sbdEvtAck _ _ => true
  | .tapBypass => true
  | .tapIdcode => true
  | .tapSamplePreload _ => true
  | .tapExtest _ => true
  | .tapClamp => true
  | .tapHighz => true
  | .faultLogWrite => true
  | .vddHearthReturn => true
  | .vretLoss => true
  | .vretReturn => true
  | .linkDetect _ => true
  | .meridianTrainDone _ peerGen _ => peerGen == 1 || peerGen == 2
  | .mipiPortStateChange _ _ => true
  | .dlUp _ _ _ => true
  | .aspmL1Entry _ => true
  | .aspmL1Exit _ => true
  | .poisonedTlpReceived _ => true
  | .ecrcError _ => true
  | .gpioInputChange _ _ => true
  | .sampleBoundary bits => bits.length == 8 && bits.all fun b => decide (b.length ≤ 192)
  | .registerRead _ bar2 off size => barAccess bar2 off size
  | .tapReset => true

end Sys2Proof
end

