-- ==== Sys2Proof/Tests/Slice0.lean ====
section
/-! SUPPORT. Tests: ill-formed commands that WellFormed refuses, effects that the spec states in numbers, and for every
obligation states that meet the hypotheses of its clauses. -/
namespace Sys2Proof.Tests
open Sys2Proof Sys2Proof.Machine
-- The kernel's checks run one after another, so that threads do not pile up.
set_option Elab.async false

/-! ## Small states -/

/-- Whether an outcome is a next state. -/
def isNext : Out → Bool
  | .next _ => true
  | _ => false

/-- The next state of an outcome; reset where there is none. -/
def nextOf : Out → State
  | .next t => t
  | _ => State.reset

/-- Access tables that permit the system masters everything: every target, one entry of the whole address space, Circle 0. -/
def openTables : AwtTables :=
  ⟨[(0x420, 0), (0x418, 0), (0x41A, 0), (0x41B, 0)], (List.range 84).map fun t => (t, [⟨0, 2 ^ 40 - 1, ~~~0, ~~~0⟩])⟩

/-- A Star at work: both resets high, the boot ROM started, every domain ON, tables loaded, port A up with memory decoding. -/
def up : State := { State.reset with
  awt := some openTables
  pwr := { PwrState.reset with
    pins := { PowerPins.reset with porN := true, perstN := true, modulePresN := false }
    romRunning := true
    cfgBuilt := true
    dom := (List.range 164).map fun d => (d, .on) }
  pcie := { PcieState.reset with linkA := ⟨true, 5, 4, true⟩, cfg := [(4, 0x6)] } }

/-- The PF of port A. -/
def pf : HostFn := ⟨.a, 0⟩

/-- `up` with fields of registers set. -/
def upWith (l : List (Fld × Nat)) : State := l.foldl (fun s e => s.fset e.1 e.2) up

/-- `up` with domains OFF. -/
def upBut (l : List Nat) : State := { up with pwr := { up.pwr with dom := l.foldl (fun d k => spSet .off k .off d) up.pwr.dom } }

/-- The base state meets the invariant, and Crust is defined in it. -/
theorem up_wf : up.wf = true ∧ Defined up := ⟨by decide +kernel, rfl⟩

/-- Every register that a named host command writes is granted in the base state. -/
theorem up_granted : ∀ off ∈ [Reg.RCP_CMD, Reg.PWR_REQ 0, Reg.PWR_REQ 163, Reg.PWR_BAKRST, Reg.ZEN_TRIG, Reg.ZEN_SIGNAL,
    Reg.STR_CTRL 0, Reg.STR_CTRL 15, Reg.STR_TRIG 15, Reg.STR_SIGNAL 15, Reg.OTG_CTRL 3, Reg.OTG_AT 3, Reg.CTX_CTRL 0,
    Reg.CTX_CTRL 1023, Reg.MBX_ACK 255, Reg.MER_LINK_CTRL 3, Reg.MER_RISE, Reg.MER_SET, Reg.PACE_EVT_ACK, Reg.ORB_CMD 3,
    Reg.NW_CLOSE, Reg.NW_POST, Reg.NW_WAKE_ACK, Reg.NW_SIGNAL, Reg.NW_CTRL, Reg.NW_ENROL, Reg.VOUT_PORT_CMD 3,
    Reg.VOUT_AUX_CMD, Reg.VOUT_DSI_PUSH, Reg.SBD_SB_TOSB, Reg.SBD_SPI_GO, Reg.SBD_SPI_ADDR, Reg.SBD_GPIO_SET,
    Reg.SBD_GPIO_CLR, Reg.SBD_EVT_ACK], HostGranted up pf off := by
  unfold HostGranted
  decide +kernel

/-! ## A Recipe that pass 1 accepts -/

/-- A Recipe of a GLOBAL section alone (home 0, no Bakery), with its CRCs, signed for open-key mode. -/
def recipe : List Byte :=
  leBytes 4 0x50435246 ++ leBytes 2 1 ++ leBytes 2 128 ++ leBytes 4 416 ++ leBytes 4 256 ++ [0x46, 1, 7, 0] ++ leBytes 2 0 ++
  leBytes 2 1 ++ leBytes 8 1 ++ leBytes 12 0 ++ leBytes 4 0x2532CEA9 ++ leBytes 80 0 ++
  leBytes 2 1 ++ leBytes 2 0 ++ leBytes 4 192 ++ leBytes 4 32 ++ leBytes 4 0x85322827 ++ leBytes 16 0x80 ++ leBytes 32 0 ++
  leBytes 2 1 ++ leBytes 2 1 ++ leBytes 4 1 ++ leBytes 4 16 ++ leBytes 52 0 ++
  leBytes 4 0x47495346 ++ leBytes 28 0 ++
  beBytes 32 0x73683c05bb1b836f3af90b29ea583a7ced59ff244cd9570993c8506879c01caa ++
  beBytes 32 0x61b1de0ca23484a3471743616948be0e679f2a07151bf522dd9980959a1cb8d7 ++
  beBytes 32 0xd56aeda363ceb25f22a66a0ba7add7fb1403118e5e4879d21ff683a694755fb1 ++
  beBytes 32 0xd56aeda363ceb25f22a66a0ba7add7fb1403118e5e4879d21ff683a694755fb1

/-- The check value that RFC 3720's CRC-32C gives for the digits 1 to 9 (R99). -/
theorem test_crc32c : crc32c [0x31, 0x32, 0x33, 0x34, 0x35, 0x36, 0x37, 0x38, 0x39] = 0xE3069283 := by decide +kernel

/-- FIPS 180-4's digest of the three letters abc (R100). -/
theorem test_sha256 : sha256 [0x61, 0x62, 0x63] =
    0xba7816bf8f01cfea414140de5dae2223b00361a396177a9cb410ff61f20015ad := by decide +kernel

/-- A load in pass 1 whose source passes. -/
theorem witness_source_passes :
    (let r := newRun 1 65535
     let s := { upWith [(Fld.RCP_SRC_LEN_LEN, 416)] with rcp := { up.rcp with run := some r } }
     s.wf = true ∧ pass1 s (loadCmd s r) recipe = none) := by decide +kernel

/-- The same with another BUILD: HDR_CRC no longer holds (R90). -/
theorem test_pass_one_hdr_crc :
    (pass1 up (loadCmd up (newRun 0 0)) (recipe.set 24 2)).map (·.cause) = some cHdrCrc := by decide +kernel
/-! ## Ill-formed commands -/

/-- A message of each kind with its fields at their largest. -/
def wideMsg (op : MerOp) (n : Nat) : MerMsg :=
  { op, cls := 2, poison := true, srcHome := 7, master := 4095, tag := 65535, addr := 2 ^ 40 - 1, deadline := 2 ^ 32 - 1, status := 2,
    enables := 2 ^ 64 - 1, data := List.replicate n 0, frameEnd := true, user := 2 ^ 14 - 1, ctlKind := 0, ctl := [] }

/-- An answer of one byte more than a page. -/
def longReply : ExtReply := ⟨List.replicate 4097 0, .ok⟩

/-- Each check of a message refuses a field that is one too large, and its data's length. -/
theorem wf_message : (wideMsg .wrf 64).wf .wrf = true ∧ (wideMsg .wrm 64).wf .wrm = true ∧ (wideMsg .slot 32).wf .slot = true ∧
    (wideMsg .rd 0).wf .wrf = false ∧ { wideMsg .rd 0 with cls := 3 }.wf .rd = false ∧ { wideMsg .rd 0 with srcHome := 8 }.wf .rd = false ∧
    { wideMsg .rd 0 with master := 4096 }.wf .rd = false ∧ { wideMsg .rd 0 with tag := 65536 }.wf .rd = false ∧
    { wideMsg .rd 0 with addr := 2 ^ 40 }.wf .rd = false ∧ { wideMsg .rd 0 with deadline := 2 ^ 32 }.wf .rd = false ∧
    { wideMsg .rd 0 with status := 3 }.wf .rd = false ∧ { wideMsg .rd 0 with enables := 2 ^ 64 }.wf .rd = false ∧
    { wideMsg .rd 0 with user := 2 ^ 14 }.wf .rd = false ∧ (wideMsg .rd 1).wf .rd = false ∧ (wideMsg .wrf 63).wf .wrf = false ∧
    (wideMsg .wrm 65).wf .wrm = false ∧ (wideMsg .rdc 65).wf .rdc = false ∧ (wideMsg .slot 31).wf .slot = false := by decide +kernel

/-- Accesses of BAR0, BAR2 and BAR4, and configuration writes, past their ends, of no bytes, too many, or off a word. -/
theorem wf_accesses : (Instr.registerWrite pf false 0x1FFFFF8 8 0).wf = true ∧ (Instr.registerWrite pf false 0x1FFFFFC 8 0).wf = false ∧
    (Instr.registerWrite pf true 0x3FFFFC 8 0).wf = false ∧ (Instr.registerRead pf false 0 0).wf = false ∧
    (Instr.registerRead pf false 0 9).wf = false ∧ (Instr.configWrite pf 0x1000 0 0).wf = false ∧ (Instr.configWrite pf 2 0 0).wf = false ∧
    (Instr.bar4Read pf 0 0 [] ⟨[], .ok⟩).wf = false ∧ (Instr.bar4Read pf 0 4097 [] ⟨[], .ok⟩).wf = false ∧
    (Instr.bar4Read pf (2 ^ 40) 1 [] ⟨[], .ok⟩).wf = false ∧ (Instr.bar4Read pf 0 1 [] longReply).wf = false ∧
    (Instr.bar4Write pf 0 [] 0 false [] ⟨[], .ok⟩).wf = false ∧ (Instr.bar4Write pf 0 [0] 2 false [] ⟨[], .ok⟩).wf = false ∧
    (Instr.bar4Write pf 0 (List.replicate 513 0) 0 false [] ⟨[], .ok⟩).wf = false ∧
    (Instr.bar4Write pf (2 ^ 40) [0] 1 false [] ⟨[], .ok⟩).wf = false ∧
    (Instr.bar4Write pf 0 [0] 1 false [] longReply).wf = false := by decide +kernel

/-- Answers from outside longer than a page. -/
theorem wf_replies : (Instr.ticketAck 0 [] longReply).wf = false ∧ (Instr.descriptorFetched 0 [] longReply).wf = false ∧
    (Instr.mailboxWrite 0 [] longReply).wf = false ∧ (Instr.completionRecordWrite 0 longReply).wf = false ∧
    (Instr.serviceOpportunity 0 [] longReply).wf = false ∧ (Instr.copyUnit 0 [] longReply).wf = false ∧
    (Instr.hostReadCompletion 0 longReply).wf = false ∧ (Instr.scanoutLine 0 [⟨none, [], longReply⟩]).wf = false ∧ (Instr.scanoutLine 0 [⟨some 65536, [], ⟨[], .ok⟩⟩]).wf = false := by
  decide +kernel

/-- The loader's operands: a flash of 0 or 4,097 MiB or of a rate that SFDP cannot give, an offset past what a source can hold, a fuse word of 257 bits. -/
theorem wf_loader : (Instr.autoSpiLoad (some ⟨0, false, 25, 0, false⟩)).wf = false ∧
    (Instr.autoSpiLoad (some ⟨0, false, 25, 4097, false⟩)).wf = false ∧ (Instr.autoSpiLoad (some ⟨2, true, 24, 1, true⟩)).wf = false ∧
    (Instr.autoSpiLoad (some ⟨2, true, 256, 1, true⟩)).wf = false ∧
    (Instr.sourceFault [] 0 0x4000000).wf = false ∧ (Instr.commit [] [2 ^ 256]).wf = false ∧ (Instr.commit recipe []).wf = true := by
  decide +kernel

/-- A source's bytes are fewer than RCP_SRC_LEN can say; a packet's than 64 Ki. No such list is written out here. -/
theorem wf_source : ∀ data : List Byte, 0x4000000 ≤ data.length → (Instr.loadVerified data).wf = false ∧
    (Instr.commit data []).wf = false ∧ (Instr.deferredDone data).wf = false ∧ (Instr.patchApply data).wf = false ∧
    (Instr.sourceFault data 0 0).wf = false := by
  intro data h
  simp [Instr.wf, sourceSize, Nat.not_lt.mpr h]

theorem wf_packet : ∀ data : List Byte, 65536 ≤ data.length →
    (Instr.longPacket 0 0 0 data true false).wf = false := by
  intro data h
  simp [Instr.wf, Nat.not_lt.mpr h]

/-- Flits, offers and answers, relocations, depths, and a peer's generation out of range. -/
theorem wf_links : (Instr.flitReceived 0 ⟨false, true, 0, List.replicate 639 0⟩).wf = false ∧
    (Instr.flitReceived 0 ⟨false, true, 0, List.replicate 641 0⟩).wf = false ∧ (Instr.flitReceived 0 ⟨true, true, 0, [0]⟩).wf = false ∧
    (Instr.flitReceived 0 ⟨false, true, 0, List.replicate 640 0⟩).wf = true ∧
    (SetOffer.offer 8 0 0).wf = false ∧ (SetOffer.offer 0 (2 ^ 40) 0).wf = false ∧ (SetOffer.offer 0 0 (2 ^ 37 + 1)).wf = false ∧
    (SetOffer.accept 8 0).wf = false ∧ (SetOffer.accept 0 (2 ^ 40)).wf = false ∧ (SetOffer.decline 8).wf = false ∧
    (SetOffer.relocated 8 false).wf = false ∧ (SetOffer.done 8).wf = false ∧
    (Instr.msgRelocation 0 0 (2 ^ 40) 0 none).wf = false ∧ (Instr.msgRelocation 0 0 0 (2 ^ 37 + 1) none).wf = false ∧
    (Instr.msgRelocation 0 0 0 0 (some (2 ^ 40))).wf = false ∧ (Instr.riseComplete 0 [(1024, 1)]).wf = false ∧
    (Instr.riseComplete 0 [(0, 0)]).wf = false ∧ (Instr.meridianTrainDone 0 0 []).wf = false ∧
    (Instr.meridianTrainDone 0 3 []).wf = false := by decide +kernel

/-- Samples, pulses, currents and the bytes of packets out of range. -/
theorem wf_samples : (Instr.paceTick (List.replicate 49 (0, 0)) [0, 0, 0, 0]).wf = false ∧ (Instr.paceTick [] [0, 0, 0]).wf = false ∧
    (Instr.paceTick [(4096, 0)] [0, 0, 0, 0]).wf = false ∧ (Instr.paceTick [(0, 1024)] [0, 0, 0, 0]).wf = false ∧
    (Instr.paceTick [] [1024, 0, 0, 0]).wf = false ∧ (Instr.positionDone 0 (List.replicate 7 none)).wf = false ∧
    (Instr.ocTrip 0 10000001).wf = false ∧ (Instr.short 0 10000001).wf = false ∧
    (Instr.sampleBoundary []).wf = false ∧ (Instr.sampleBoundary (List.replicate 8 (List.replicate 193 false))).wf = false ∧
    (Instr.auxComplete .ack (List.replicate 17 0)).wf = false ∧ (Instr.spiPassthroughDone (List.replicate 257 0)).wf = false := by
  decide +kernel

/-! ## Witnesses: the machine, resets, power, the loader -/

theorem witness_step_runs_front : State.reset.pending = [] ∧ isNext (step State.reset) = true ∧
    isNext (step { up with pending := [.thermtrip] }) = true := by decide +kernel

theorem witness_step_keeps_invariant : State.reset.wf = true ∧ (∃ t, step State.reset = .next t) ∧ up.wf = true ∧
    ∃ t, step { up with pending := [.tapReset] } = .next t :=
  ⟨by decide +kernel, ⟨_, rfl⟩, by decide +kernel, ⟨_, rfl⟩⟩

theorem witness_fuses_only_burn : (∃ t, step State.reset = .next t) ∧ (∀ d f, Instr.tapReset ≠ .commit d f) ∧
    ∃ t, exec .tapReset up = .next t :=
  ⟨⟨_, rfl⟩, by simp, ⟨_, rfl⟩⟩

theorem witness_commands_keep_code_and_queue : ∃ t, exec .tapReset up = .next t := ⟨_, rfl⟩

theorem witness_resets : State.reset.wf = true ∧ State.reset.pwr.pins.porN = false ∧ State.reset.pwr.pins.perstN = false ∧
    up.wf = true ∧ up.pwr.pins.porN = true ∧ up.pwr.pins.perstN = true ∧ up.pwr.undef = false ∧
    (let s := { up with pwr := { up.pwr with pins := { up.pwr.pins with perstN := false } } }
     s.wf = true ∧ s.pwr.pins.porN = true ∧ s.pwr.pins.perstN = false ∧ s.pwr.undef = false) ∧
    regDomain Reg.RCP_CMD < 159 ∧ 159 ≤ regDomain Reg.NW_CTRL ∧ regDomain Reg.PWR_STATUS = 111 := by decide +kernel

theorem witness_supplies_and_module_pins : State.reset.pwr.pins.porN = false ∧ up.pwr.pins.porN = true := by decide +kernel

/-- What THERMTRIP has already shut down, and a Star without MER_CTL. -/
theorem witness_hearth_loss_thermtrip_pres_release : up.pwr.pins.porN = true ∧ Defined up ∧
    spWf (fun _ => DomState.off) up.pwr.dom = true ∧ up.pwr.tripped = false ∧
    { up with pwr := { up.pwr with tripped := true } }.pwr.tripped = true ∧ (upBut [112]).on 112 = false ∧
    spWf (fun _ => DomState.off) (upBut [112]).pwr.dom = true ∧ up.on 112 = true :=
  ⟨rfl, rfl, by decide +kernel, rfl, rfl, by decide +kernel, by decide +kernel, by decide +kernel⟩

/-- The four losses of a released MODULE_PRES_N answer next states in turn. -/
theorem witness_pres_release_chain :
    (let u := { up with pwr := { up.pwr with pins := { up.pwr.pins with modulePresN := true } } }
     let t0 := exec (.linkLost 0) u
     let t1 := exec (.linkLost 1) (nextOf t0)
     let t2 := exec (.linkLost 2) (nextOf t1)
     isNext t0 && isNext t1 && isNext t2 && isNext (exec (.linkLost 3) (nextOf t2))) = true := by decide +kernel

/-- The boot ROM due with both resets high, and not due. -/
theorem witness_boot_rom_and_configuration_space :
    (let s := { up with pwr := { up.pwr with romDue := true, romRunning := false } }
     s.wf = true ∧ s.pwr.undef = false ∧ s.pwr.romDue = true ∧ s.pwr.pins.porN = true ∧ s.pwr.pins.perstN = true) ∧
    up.pwr.romDue = false ∧ up.wf = true := by decide +kernel

/-- Requests of CRUST_AON, of a domain that moves, and of one that needs no move; U24 fuses Ovens off. -/
theorem witness_power_requests_and_transitions : HostGranted up pf (Reg.PWR_REQ 111) ∧ HostGranted up pf (Reg.PWR_REQ 163) ∧
    HostGranted up pf (Reg.PWR_REQ 0) ∧ needless (headed up 0) (reqState up.code 0 0) = false ∧
    needless (headed up 0) (reqState up.code 0 1) = true ∧ domFused .u24 47 = true ∧ domFused .u48 0 = false ∧
    retCapable 112 = false := by
  unfold HostGranted
  decide +kernel

/-- A transition that may start, one that may not, and transitions under way. -/
theorem witness_transitions_under_way :
    (let s := { upBut [0] with pwr := { (upBut [0]).pwr with pend := [(0, .on)], vok := true, sup := ⟨true, true, true, true⟩ } }
     s.pwr.pend.find? (mayMove s) = some (0, .on) ∧ mayMove s (0, .on) = true ∧ s.pwr.moving = []) ∧
    up.pwr.pend.find? (mayMove up) ≠ some (0, .on) ∧
    (let s := { up with pwr := { up.pwr with moving := [(0, .off), (1, .off)] } }
     s.pwr.moving ≠ [] ∧ (s.pwr.moving.map (·.1)).Nodup ∧ spWf (fun _ => DomState.off) s.pwr.dom = true ∧
     s.pwr.moving.lookup 0 = some .off ∧ s.pwr.moving.lookup 2 = none) := by decide +kernel

/-- MODULE_EJECT_N low for exactly 10 ms, and 1 ns less; a RUNNING Bakery and none; a reset drained, draining, and none. -/
theorem witness_module_eject_and_bakery_reset :
    (let s := { up with mono := 10000000, pwr := { up.pwr with ejectAt := some 0 } }
     s.wf = true ∧ s.pwr.ejectAt = some 0 ∧ s.on 111 = true ∧ 0 + 10000000 ≤ s.mono) ∧
    (let s := { up with mono := 9999999, pwr := { up.pwr with ejectAt := some 0 } }
     s.pwr.ejectAt = some 0 ∧ s.mono < 0 + 10000000) ∧ up.pwr.ejectAt = none ∧
    HostGranted up pf Reg.PWR_BAKRST ∧ up.fget (Fld.RCP_BAKERY_STATE 0) ≠ 1 ∧
    (let s := upWith [(Fld.RCP_BAKERY_STATE 0, 1)]
     s.wf = true ∧ HostGranted s pf Reg.PWR_BAKRST ∧ s.fget (Fld.RCP_BAKERY_STATE 0) = 1 ∧ s.pwr.bakReset = none) ∧
    (let s := { up with pwr := { up.pwr with bakReset := some ⟨15, 65535, 0⟩ } }
     s.wf = true ∧ s.pwr.bakReset = some ⟨15, 65535, 0⟩ ∧ draining s 15 = false) := by
  unfold HostGranted
  decide +kernel

/-- LOAD, PATCH and DEFERRED from EMPTY, from LOADED and from VERIFY, with a deferred section and without; the automatic load
due and not due. -/
theorem witness_loader_commands_start :
    (let s := { up with pwr := { up.pwr with autoLoadDue := true } }
     s.wf = true ∧ s.pwr.autoLoadDue = true ∧ s.pwr.romRunning = true ∧ s.fget Fld.RCP_STATUS_STATE = 0) ∧
    up.pwr.autoLoadDue = false ∧ HostGranted up pf Reg.RCP_CMD ∧ up.fget Fld.RCP_STATUS_STATE = 0 ∧
    (let s := upWith [(Fld.RCP_STATUS_STATE, 3)]
     s.wf = true ∧ HostGranted s pf Reg.RCP_CMD ∧ s.fget Fld.RCP_STATUS_STATE = 3 ∧ s.rcp.dir.any (deferredDue s) = false) ∧
    (let s := { upWith [(Fld.RCP_STATUS_STATE, 3)] with rcp := { up.rcp with dir := [⟨0x19, 0, 0, 0, 0, 0xFF⟩] } }
     s.wf = true ∧ HostGranted s pf Reg.RCP_CMD ∧ s.fget Fld.RCP_STATUS_STATE = 3 ∧ s.rcp.dir.any (deferredDue s) = true) ∧
    (let s := upWith [(Fld.RCP_STATUS_STATE, 1)]
     s.wf = true ∧ HostGranted s pf Reg.RCP_CMD ∧ s.fget Fld.RCP_STATUS_STATE ≠ 0 ∧ s.fget Fld.RCP_STATUS_STATE ≠ 3) := by
  unfold HostGranted
  decide +kernel

/-- A load by the host in pass 1 with an empty source, which fails; a Patch in pass 1; no load. -/
theorem witness_pass_one_and_source_fault :
    (let s := { up with rcp := { up.rcp with run := some (newRun 1 65535) } }
     let r := newRun 1 65535
     s.wf = true ∧ s.rcp.run = some r ∧ r.phase = 0 ∧ r.kind = 1 ∧ r.seq < 65536 ∧ r.bakery < 16 ∧ r.before < 4 ∧
     (pass1 s (loadCmd s r) []).isSome = true) ∧
    (let r := { newRun 2 0 with bakery := 15, before := 3 }
     r.phase = 0 ∧ r.kind = 2 ∧ r.bakery < 16 ∧ r.before < 4) ∧
    up.rcp.run = none := by decide +kernel

/-- Pass 2 of a load of an empty directory, whose sections all hold; and of one whose only section has changed. -/
theorem witness_pass_two_commits_or_undoes :
    (let r := { newRun 1 65535 with phase := 1 }
     let s := { up with rcp := { up.rcp with run := some r } }
     let xs := sections [] (sourceBytes s r [])
     s.wf = true ∧ r.kind ≤ 1 ∧ secOf 0x1A xs = none ∧ (applyAll false xs xs s).2 = none) ∧
    (let d := [⟨0x01, 0, 0, 4, 1, 0xFF⟩]
     let r := { newRun 0 0 with phase := 1, dir := d }
     let s := { up with rcp := { up.rcp with run := some r } }
     let xs := sections d (sourceBytes s r [])
     s.wf = true ∧ secOf 0x1A xs = none ∧ (applyAll false xs xs s).2.isSome = true) ∧
    (newRun 1 0).phase ≠ 1 ∧ (newRun 1 0).phase ≠ 3 ∧ up.rcp.run = none := by decide +kernel

/-- Pass 3, a Patch verified, draining and drained, a drain that has lasted DRAIN_MS exactly and one that has not; sections
that hold and one that has changed. -/
theorem witness_pass_three_and_patch :
    (let s := { up with rcp := { up.rcp with run := some (newRun 3 7) } }
     s.wf = true ∧ (newRun 3 7).phase = 0 ∧ (newRun 3 7).kind = 3 ∧
     (applyDeferred ((sections [] (sourceBytes s (newRun 3 7) [])).filter fun x => deferredDue s x.d) s).2 = none) ∧
    (let d := [⟨0x19, 0, 0, 4, 1, 0xFF⟩]
     let r := { newRun 3 7 with dir := d }
     let s := { up with rcp := { up.rcp with run := some r } }
     (applyDeferred ((sections d (sourceBytes s r [])).filter fun x => deferredDue s x.d) s).2.isSome = true) ∧
    (let s := { up with rcp := { up.rcp with run := some { newRun 2 7 with phase := 1 } } }
     s.wf = true ∧ isNext (exec .patchQuiesce s) = true) ∧
    (let s := { up with rcp := { up.rcp with run := some { newRun 2 7 with phase := 2 } } }
     s.wf = true ∧ draining s 0 = false ∧ (applyAll true (sections [] []) (sections [] []) s).2 = none ∧
     s.mono < 0 + s.fget Fld.RCP_PATCHCFG_DRAIN_MS * 1000000 ∧ (s.ctx.jobs.map (·.id)).Nodup ∧
     0 + s.fget Fld.RCP_PATCHCFG_DRAIN_MS * 1000000 ≤
       { s with mono := s.fget Fld.RCP_PATCHCFG_DRAIN_MS * 1000000 }.mono) ∧
    (let d := [⟨0x0B, 0, 0, 4, 1, 0xFF⟩]
     let s := { up with rcp := { up.rcp with run := some { newRun 2 7 with phase := 2, dir := d } } }
     (applyAll true (sections d []) (sections d []) s).2.isSome = true) ∧
    (let s := { up with
       rcp := { up.rcp with run := some { newRun 2 7 with phase := 2 } }
       ctx := { up.ctx with nextId := 1, jobs := [{ Job.blank 0 0 with bakery := some 0, admitted := true, phase := .running }] } }
     s.wf = true ∧ draining s 0 = true ∧ (s.ctx.jobs.map (·.id)).Nodup) ∧
    (let s := { up with mono := 10 ^ 12, pwr := { up.pwr with bakReset := some ⟨15, 0, 0⟩ } }
     s.wf = true ∧ 0 + s.fget Fld.RCP_PATCHCFG_DRAIN_MS * 1000000 ≤ s.mono) ∧
    up.rcp.run = none ∧ up.pwr.bakReset = none := by decide +kernel

/-! ## Witnesses: host accesses, Zenith -/

/-- `up` with no access table for any target. -/
def shut : State := { up with awt := some ⟨[(0x420, 0)], []⟩ }

/-- `up` on the ordering code U24. -/
def up24 : State := { up with code := .u24 }

/-- A command of a function whose BARs do not decode; a denied one; one of a domain that is OFF; one of a fused-off domain's
request; a command to an undefined Crust. -/
theorem witness_commands_without_effect :
    hostWord (.orbStop pf 3) = some (pf, Reg.ORB_CMD 3, 3) ∧
    { up with pcie := PcieState.reset }.barsDecode pf = false ∧ up.barsDecode pf = true ∧
    regGate shut (shut.masterOf pf) true (Reg.ORB_CMD 3) = .denied 79 ∧
    regGate (upBut [157]) ((upBut [157]).masterOf pf) true (Reg.ORB_CMD 3) = .unpowered 79 157 ∧
    hostWord (.portHold pf 3) = some (pf, Reg.VOUT_PORT_CMD 3, 2) ∧
    regGate up24 (up24.masterOf pf) true (Reg.VOUT_PORT_CMD 3) = .void ∧
    { up with pwr := { up.pwr with undef := true } }.pwr.undef = true ∧ outlives (.orbStop pf 3) = false := by decide +kernel

theorem witness_named_writes_are_register_writes :
    hostWord (.nwEnrolDelete pf 7 15 65535) = some (pf, Reg.NW_ENROL, enrolWord 7 15 2 65535) := by decide +kernel

/-- Register accesses: a function that does not decode, offsets at and past the ends of both BARs, a size that BAR0 does not
take, at a register and at one that is fused off, a granted read, a granted write of SBD_SPI_ADDR, the first and the last doorbell page. -/
theorem witness_register_accesses :
    Defined up ∧ { up with pcie := PcieState.reset }.barsDecode pf = false ∧ up.barsDecode pf = true ∧
    (sizeOk (Reg.VOUT_PORT_CMD 3) 2 = false ∧ regFused up24.code (Reg.VOUT_PORT_CMD 3) = true) ∧ regFused up.code Reg.RCP_CMD = false ∧ sizeOk Reg.RCP_CMD 2 = false ∧ blockOf Reg.RCP_CMD = some (65536, 65) ∧
    (Reg.RCP_STATUS % 4 = 0 ∧ inPreroll Reg.RCP_STATUS = false ∧ inMsix Reg.RCP_STATUS = false ∧
      regGate up (up.masterOf pf) false Reg.RCP_STATUS = .granted ∧ (regAt Reg.RCP_STATUS).isSome = true) ∧
    HostGranted up pf Reg.SBD_SPI_ADDR := by
  unfold HostGranted Defined
  decide +kernel

/-- The state table of one row: HALT. -/
def haltTable : TTable := ⟨0, 1, 2, [⟨0, 0, 10, true, false, 0, 0, 0, 0⟩]⟩

/-- The state table of one row that waits for event 0, and of one that fires for ever. -/
def idleTable : TTable := ⟨0, 1, 2, [⟨1, 0, 0, true, false, 0, 0, 0, 0⟩]⟩
def spinTable : TTable := ⟨0, 1, 2, [⟨0, 0, 0, true, false, 0, 0, 0, 0⟩]⟩

/-- `up` with Procedure 3 loaded, under a policy. -/
def zenUp (policy : List (Nat × (Nat × Nat))) (insts : List (Option ZenInst)) (reqs : List ZenReq) : State :=
  { up with zen := { ZenState.reset with procs := [(3, haltTable)], policy, insts, reqs }
            side := { up.side with trigMask := 8 } }

/-- Instance 0 runs Procedure 3, the others are free. -/
def one3 : List (Option ZenInst) := some ⟨3, 0x40, 0, haltTable.begin, .none⟩ :: List.replicate 7 none

/-- A Procedure that is not loaded; one that is idle; one that runs, under each policy; a TRIG that the mask excludes; a signal
that no role takes. -/
theorem witness_start_requests :
    HostGranted (zenUp [] one3 []) pf Reg.ZEN_TRIG ∧ HostGranted (zenUp [] one3 []) pf Reg.ZEN_SIGNAL ∧
    (zenUp [] one3 []).zen.procs.lookup 63 = none ∧ (zenUp [] one3 []).zen.procs.lookup 3 = some haltTable ∧
    (zenUp [] (List.replicate 8 none) []).zen.runs 3 = false ∧ (zenUp [] (List.replicate 8 none) []).zen.freeInst = some 0 ∧
    (zenUp [] one3 []).zen.runs 3 = true ∧ (zenUp [] one3 []).zen.policy.lookup 3 = none ∧
    (zenUp [(3, 0, 1)] one3 []).zen.policy.lookup 3 = some (0, 1) ∧ (zenUp [(3, 1, 0)] one3 []).zen.policy.lookup 3 = some (1, 0) ∧
    (zenUp [(3, 2, 0)] one3 []).zen.policy.lookup 3 = some (2, 0) ∧ (zenUp [] one3 []).on 111 = true ∧
    (zenUp [] one3 []).side.trigMask.testBit 3 = true ∧ (zenUp [] one3 []).side.trigMask.testBit 4 = false ∧
    (zenUp [] one3 []).zen.roles.length ≤ 6 := by
  unfold HostGranted
  decide +kernel

/-- Instances: free, with a pass due that halts at once, that waits and that fires 64 rows, with none due; a write that waits
for itself; a request whose Procedure is idle, and none. -/
theorem witness_instances_of_state_tables :
    (zenUp [] one3 []).wf = true ∧ (zenUp [] one3 []).zen.insts.getD 7 none = none ∧ (zenUp [] one3 []).on 111 = true ∧
    (upBut [111]).on 111 = false ∧
    (let s := zenUp [] one3 []
     let z : ZenInst := ⟨3, 0x40, 0, haltTable.begin, .none⟩
     s.zen.insts.getD 0 none = some z ∧ z.proc < 64 ∧ z.inst.ready (zenInputs s z) = true ∧ z.write ≠ .issued ∧
     ((passRows haltTable (zenInputs s z) s.usCount 0 z.inst).bind fun p => nextRow haltTable (zenInputs s z) s.usCount p).map (·.act) =
       some 10) ∧
    (let s := zenUp [] one3 []
     let z : ZenInst := ⟨3, 0x40, 0, { haltTable.begin with wake := false, seen := zenInputs s ⟨3, 0x40, 0, haltTable.begin, .none⟩ },
       .issued⟩
     z.inst.ready (zenInputs s z) = false ∧ (zenUp [] (some z :: List.replicate 7 none) []).zen.insts.getD 0 none = some z) ∧
    (let s := zenUp [] (List.replicate 8 none) [⟨3, 0x40, 5⟩]
     s.zen.freeInst = some 0 ∧ takeReq s.zen s.zen.reqs = some (⟨3, 0x40, 5⟩, []) ∧ s.zen.procs.lookup 3 = some haltTable) ∧
    takeReq (zenUp [] one3 [⟨3, 0x40, 5⟩]).zen (zenUp [] one3 [⟨3, 0x40, 5⟩]).zen.reqs = none := by decide +kernel

/-- Passes without an output: one whose first condition fails, and one of 64 rows. -/
theorem witness_quiet_passes :
    (∀ tab ∈ [idleTable, spinTable],
      let z : ZenInst := ⟨3, 0, 0, tab.begin, .none⟩
      let s := { up with zen := { ZenState.reset with procs := [(3, tab)], insts := some z :: List.replicate 7 none } }
      s.wf = true ∧ s.zen.insts.getD 0 none = some z ∧ z.inst.ready (zenInputs s z) = true) ∧
    (passRows idleTable [] 0 0 idleTable.begin).map (nextRow idleTable [] 0) = some none ∧
    (passRows spinTable [] 0 64 spinTable.begin).isSome = true := by decide +kernel

/-! ## Witnesses: sideband, memory channels, the fault log, rules as stated -/

theorem witness_sideband_command_codes : Defined up ∧ up.on 111 = true ∧ (upWith [(Fld.SBD_SB_STATUS_I3C, 1)]).on 111 = true :=
  ⟨rfl, by decide +kernel, by decide +kernel⟩

/-- IBI_EN set and clear; a pass-through command running, with a read and without, none, and the flash being loaded; edges
stable for 1 µs exactly, for less, and none. -/
theorem witness_sideband_spi_and_gpio :
    up.wf = true ∧ up.on 111 = true ∧ HostGranted up pf Reg.SBD_SB_TOSB ∧ HostGranted up pf Reg.SBD_SPI_GO ∧
    HostGranted up pf Reg.SBD_GPIO_SET ∧ HostGranted up pf Reg.SBD_GPIO_CLR ∧ HostGranted up pf Reg.SBD_EVT_ACK ∧
    up.fget Fld.SBD_SB_STATUS_IBI_EN ≠ 1 ∧ (upWith [(Fld.SBD_SB_STATUS_IBI_EN, 1)]).fget Fld.SBD_SB_STATUS_IBI_EN = 1 ∧
    up.side.ibiFrom = false ∧ up.side.spiBusy = none ∧ flashLoading up = false ∧
    (let s := { up with side := { up.side with spiBusy := some (65535, true, 256) } }
     s.wf = true ∧ s.side.spiBusy = some (65535, true, 256)) ∧
    (let s := { up with side := { up.side with spiBusy := some (1, false, 0) } } ; s.side.spiBusy = some (1, false, 0)) ∧
    (let s := { up with rcp := { up.rcp with run := some (newRun 0 0) } } ; flashLoading s = true) ∧
    up.side.edgeAt.lookup 15 = none ∧
    (let s := { up with mono := 1000, side := { up.side with edgeAt := [(15, 0)] } }
     s.wf = true ∧ s.side.edgeAt.lookup 15 = some 0 ∧ 0 + 1000 ≤ s.mono) ∧
    (let s := { up with mono := 999, side := { up.side with edgeAt := [(15, 0)] } } ; s.mono < 0 + 1000) := by
  unfold HostGranted
  decide +kernel

theorem witness_boundary_scan : Defined up ∧ up.on 111 = true := ⟨rfl, by decide +kernel⟩

/-- A channel in training with inline ECC and with link ECC, one that is not, and channels being initialised; one that
has been idle for PD_IDLE exactly, and 1 ns less. -/
theorem witness_dram_channels :
    (let s := { up with mem := { up.mem with training := [15] } }
     s.wf = true ∧ s.on 148 = true ∧ s.mem.training.contains 15 = true ∧ s.inlineEcc = false) ∧
    (let s := { upWith [(Fld.MEM_CFG_INLINE_ECC, 1)] with mem := { up.mem with training := [0], initing := [15], told := true } }
     s.wf = true ∧ s.inlineEcc = true ∧ s.mem.training.contains 0 = true ∧ s.mem.initing.contains 15 = true ∧ s.mem.told = true) ∧
    (let s := upWith [(Fld.MEM_CFG_PD_IDLE, 1)]
     s.wf = true ∧ s.mem.pdown.contains 15 = false ∧ s.fab.reqs = [] ∧ s.fget Fld.MEM_CFG_PD_IDLE ≠ 0 ∧
     spGet 0 s.mem.lastUse 15 + 100 * s.fget Fld.MEM_CFG_PD_IDLE ≤ { s with mono := 100 }.mono ∧
     { s with mono := 99 }.mono < spGet 0 s.mem.lastUse 15 + 100 * s.fget Fld.MEM_CFG_PD_IDLE) ∧
    up.mem.training.contains 0 = false ∧ (upBut [133]).on 133 = false := by decide +kernel

/-- A fault of the first record. -/
def fault0 : FaultEntry := ⟨1, 9, 0x420, 79, 0, 0x40, 0⟩

/-- `up` with a fault queued, and the same with one like it written before. -/
def queued : State := { up with flt := ⟨[fault0]⟩ }
def logged : State := { nextOf (exec .faultLogWrite queued) with flt := ⟨[{ fault0 with t := 99999 }]⟩ }

/-- An empty queue, and a fault that does not merge. -/
theorem witness_fault_log_writes_records : up.flt.queue = [] ∧ queued.wf = true ∧ queued.flt.queue = [fault0] ∧
    logMerges queued fault0 = false := by decide +kernel

/-- A fault like the latest record, 99,999 ns after it, and one that comes 1 ns too late. -/
theorem witness_fault_merges_into_latest_record : logged.wf = true ∧ logged.flt.queue = [{ fault0 with t := 99999 }] ∧
    logged.fget Fld.FLT_SEQ_SEQ = 1 ∧ logMerges logged { fault0 with t := 99999 } = true ∧
    logMerges logged { fault0 with t := 100000 } = false ∧ fault0.kind < 256 ∧ fault0.flags < 256 ∧ fault0.master < 65536 ∧
    fault0.target < 65536 := by decide +kernel

/-- Two words that differ in a reserved bit of RCP_CMD alone. -/
theorem witness_reserved_bits_read_zero_and_ignore_writes : Reg.RCP_CMD % 4 = 0 ∧ Reg.RCP_CMD < 0x1300000 ∧ inPreroll Reg.RCP_CMD = false ∧
    (regAt Reg.RCP_CMD).map (fun d => d.flds.any fun x => decide (x.lo ≤ 3 ∧ 3 ≤ x.hi)) = some false ∧
    (regAt Reg.RCP_CMD).map (fun d => d.flds.any fun x => decide (x.lo ≤ 1 ∧ 1 ≤ x.hi)) = some true ∧
    regGate up (up.masterOf pf) false Reg.RCP_CMD = .granted := by decide +kernel

/-- The last word below the MSI-X tables. -/
theorem witness_no_register_reads_zero : Defined up ∧ up.barsDecode pf = true ∧ 0x1EFFFFC % 4 = 0 ∧ 0x1EFFFFC < 0x2000000 ∧
    inPreroll 0x1EFFFFC = false ∧ inMsix 0x1EFFFFC = false ∧ regAt 0x1EFFFFC = none := by
  unfold Defined
  decide +kernel

/-- A register that the tables of its block do not permit to the PF, for a write and for a read. -/
theorem witness_denied_register_access : shut.wf = true ∧ shut.barsDecode pf = true ∧ blockOf Reg.RCP_CMD = some (65536, 65) ∧
    (regAt Reg.RCP_CMD).isSome = true ∧ regFused shut.code Reg.RCP_CMD = false ∧
    shut.permits 65 (shut.masterOf pf) true (Reg.RCP_CMD - 65536) 4 = false ∧
    shut.permits 65 (shut.masterOf pf) false (Reg.RCP_CMD - 65536) 4 = false := by decide +kernel

/-- A write while STATE is neither EMPTY nor LOADED, a LOAD while it is LOADED, a PATCH and a DEFERRED while it is EMPTY. -/
theorem witness_loader_drops_commands :
    (let s := upWith [(Fld.RCP_STATUS_STATE, 5)]
     HostGranted s pf Reg.RCP_CMD ∧ s.wf = true ∧ s.fget Fld.RCP_STATUS_STATE = 5) ∧
    (let s := upWith [(Fld.RCP_STATUS_STATE, 3)]
     HostGranted s pf Reg.RCP_CMD ∧ s.wf = true ∧ s.fget Fld.RCP_STATUS_STATE = 3) ∧
    bitsOf 1 0 ((1 : BitVec 64).setWidth 32) = 1 ∧ 2 ≤ bitsOf 1 0 ((2 : BitVec 64).setWidth 32) ∧
    2 ≤ bitsOf 1 0 ((3 : BitVec 64).setWidth 32) ∧ HostGranted up pf Reg.RCP_CMD ∧ up.fget Fld.RCP_STATUS_STATE = 0 := by
  unfold HostGranted
  decide +kernel

/-- A pass that halts at its first row, and an event that no role starts a Procedure for. -/
theorem witness_instances_start_and_halt :
    (let s := zenUp [] one3 []
     let z : ZenInst := ⟨3, 0x40, 0, haltTable.begin, .none⟩
     s.on 111 = true ∧ s.zen.insts.getD 0 none = some z ∧ s.zen.procs.lookup 3 = some haltTable ∧
     z.inst.ready (zenInputs s z) = true ∧
     ((passRows haltTable (zenInputs s z) s.usCount 0 z.inst).bind fun p => nextRow haltTable (zenInputs s z) s.usCount p).map (·.act) =
       some 10 ∧
     64 ≤ s.zen.roles.getD (roleOf 0) 64) := by decide +kernel

/-! ## Witnesses: Stream Channels, generators, contexts, jobs -/

/-- A channel's configuration with a trigger source and a policy. -/
def cfg (trigSrc policy depth : Nat) : SCfg :=
  { context := 0, gen := 0, profile := 0, trigSrc, trigPort := 0, trigVc := 0, policy, depth, dl := 0, miss := 0, group := none,
    underrun := 0, mbx := 0, mbxEn := false, ticketRing := 1, trigCtx := 0, watchMbx := 0, watchEn := false, fill := 0,
    resultAddr := 0, ticketBase := 0, bufBase := 0, bufStride := 0, bufCount := 1, bufPitch := 0, views := [] }

/-- A channel in a state. -/
def schan (c : SCfg) (st : Nat) (busy : Bool) (queue : List Trigger) : SChan :=
  { cfg := c, table := haltTable, st, before := 1, inst := if st = 2 then some haltTable.begin else none, busy, queue, came := [],
    busyAt := none, trig := ⟨0, 0⟩, rxCount := 0, outcome := 0, detail := 0, signal := 0, issued := 0, rebase := 0, jobs := [], shown := none,
    fill := false, fed := false }

/-- `up` with Stream Channel 15. -/
def chanUp (c : SChan) : State := { up with str := { up.str with chans := [(15, c)] } }

/-- STOPPED, QUIESCED, idle and busy channels, under each policy, with room in the queue and full; a trigger that came
in this cycle; another trigger source. -/
theorem witness_stream_channel_commands :
    (∀ c ∈ [schan (cfg 2 0 1) 1 false [], schan (cfg 2 0 1) 3 false [], schan (cfg 2 0 1) 2 false [], schan (cfg 2 0 1) 2 true [],
        schan (cfg 2 0 1) 2 true [⟨0, 0⟩], schan (cfg 2 1 1) 2 true [⟨0, 0⟩], schan (cfg 2 2 1) 2 true [], schan (cfg 1 0 1) 2 false [],
        { schan (cfg 2 0 1) 2 true [] with came := [⟨0, 0⟩] }],
      (chanUp c).wf = true ∧ (chanUp c).chan? 15 = some c) ∧
    HostGranted up pf (Reg.STR_CTRL 15) ∧ HostGranted up pf (Reg.STR_TRIG 15) ∧ HostGranted up pf (Reg.STR_SIGNAL 15) := by
  unfold HostGranted
  decide +kernel

/-- A channel's instance with a pass due that halts at its first row, and one whose domain is OFF. -/
theorem witness_stream_table_pass :
    (let c := schan (cfg 2 0 1) 2 false []
     let s := chanUp c
     c.inst = some haltTable.begin ∧ chanOn s 15 = true ∧ haltTable.begin.ready (strInputs s 15 c) = true ∧
     ((passRows c.table (strInputs s 15 c) s.usCount 0 haltTable.begin).bind fun p =>
       nextRow c.table (strInputs s 15 c) s.usCount p).map (·.act) = some 10) ∧ chanOn (upBut [132]) 15 = false := by
  decide +kernel

/-- A generator of one mode. -/
def gen1 : Gen := { Gen.none with defined := true, modes := [(0, ⟨10000, 4, 2⟩)] }

/-- `up` with generator 3. -/
def genUp (g : Gen) : State := { up with str := { up.str with gens := [(3, g)] } }

/-- A job of a Stream Channel whose ticket is due. -/
def ticketJob : Job := { Job.blank 0 0 with id := 4, stream := some 15, phase := .ticket, bakery := some 0, ovens := [0], admitted := true }

/-- Generators: undefined, defined, started; a frame start that is due, the cycle of its time being over, and one that is
not yet; a ticket that is due. -/
theorem witness_generators_and_tickets :
    HostGranted up pf (Reg.OTG_CTRL 3) ∧ HostGranted up pf (Reg.OTG_AT 3) ∧ (up.gen 3).defined = false ∧
    ((genUp gen1).wf = true ∧ ((genUp gen1).gen 3).defined = true ∧ ((genUp gen1).gen 3).startAt = none ∧ (genUp gen1).on 128 = true) ∧
    (let s := { genUp { gen1 with startAt := some 1000, next := 1000 } with epoch := 1001 }
     s.wf = true ∧ frameDue s 3 = true ∧ frameDue { s with epoch := 1000 } 3 = false ∧ ∀ e ∈ s.str.chans, e.1 < 16) ∧
    (let s := { chanUp (schan (cfg 2 0 1) 2 false []) with ctx := { up.ctx with jobs := [ticketJob], nextId := 5 } }
     s.wf = true ∧ (s.ctx.jobs.find? fun j => j.stream == some 15 && j.phase == .ticket) = some ticketJob ∧
     (s.chan? 15).isSome = true ∧ ticketJob.ovens ≠ []) ∧
    (∀ j ∈ up.ctx.jobs, j.stream ≠ some 15) := by
  unfold HostGranted
  decide +kernel

/-- Context 1023 in a state, its rings of 16 entries, owned by the PF of the primary port. -/
def ctxUp (l : List (Fld × Nat)) : State :=
  let s := upWith ([(Fld.CTX_CFG_SQ_LOG2 1023, 4), (Fld.CTX_CFG_CQ_LOG2 1023, 4), (Fld.CTX_OWNER_NOFUNC 1023, 0)] ++ l)
  { s with pcie := { s.pcie with primary := some .a } }

/-- A DISABLED, an ENABLED, a DRAINING and a FAULTED context; doorbells of its owner at the ends of the ring, and of another
function; records unread, and none. -/
theorem witness_contexts_and_doorbells :
    (∀ st ∈ [0, 1, 2, 3], let s := ctxUp [(Fld.CTX_STATUS_STATE 1023, st)]
      s.wf = true ∧ HostGranted s pf (Reg.CTX_CTRL 1023) ∧ ctxState s 1023 = st ∧ ctxOwner s 1023 = some pf ∧ s.on 112 = true) ∧
    (let s := ctxUp [(Fld.CTX_STATUS_STATE 1023, 1), (Fld.CTX_CQ_PTR_TAIL 1023, 15)]
     s.wf = true ∧ cqSize s 1023 = 16 ∧ s.fget (Fld.CTX_CQ_PTR_TAIL 1023) = 15 ∧ sqSize s 1023 = 16) ∧
    ctxOwner (ctxUp []) 1023 ≠ some ⟨.a, 31⟩ ∧
    (let s := ctxUp [(Fld.CTX_OWNER_NOFUNC 1023, 1)]
     s.barsDecode pf = true ∧ ctxOwner s 1023 ≠ some pf) := by
  unfold HostGranted
  decide +kernel

/-- The owner of a context that is not ENABLED, and a function that does not own it, both at the last page. -/
theorem witness_doorbells_are_the_owners :
    (let s := ctxUp [(Fld.CTX_STATUS_STATE 1023, 2)]
     s.barsDecode pf = true ∧ ctxOwner s 1023 = some pf ∧ s.on 112 = true ∧ ctxState s 1023 ≠ 1) ∧
    (let s := ctxUp [(Fld.CTX_OWNER_NOFUNC 1023, 1)] ; s.barsDecode pf = true ∧ ctxOwner s 1023 ≠ some pf) := by decide +kernel

/-- A descriptor submitted by context 1023 in a fetch order, with a job before it. -/
def submitted : State :=
  { ctxUp [(Fld.CTX_STATUS_STATE 1023, 1)] with ctx := { up.ctx with fetchQ := [⟨1023, 15, 0, false⟩] } }

/-- A job of a Bakery without Ovens, waiting. -/
def waitingJob : Job := { Job.blank 1023 0 with id := 7, bakery := some 0 }

/-- The descriptor that is fetched next, one that is not; a job that can be admitted, one that admission ends (no Bakery), and
none. -/
theorem witness_descriptors_and_admission :
    submitted.wf = true ∧ nextFetch submitted = some ⟨1023, 15, 0, false⟩ ∧ submitted.fget (Fld.CTX_CFG_SQ_LOG2 1023) ≤ 12 ∧
    nextFetch up = none ∧ ableJob up [] up.ctx.jobs = none ∧
    (let s := { ctxUp [] with ctx := { up.ctx with jobs := [waitingJob], nextId := 8 } }
     s.wf = true ∧ ableJob s [] s.ctx.jobs = some (waitingJob, .go)) ∧
    (let j := { waitingJob with bakery := none }
     let s := { ctxUp [] with ctx := { up.ctx with jobs := [j], nextId := 8 } }
     s.wf = true ∧ ableJob s [] s.ctx.jobs = some (j, .force 3 0xFFFFFFFF)) := by decide +kernel

/-- The read of the descriptor succeeds with device addresses permitted, and is refused where the tables permit nothing. -/
theorem witness_descriptor_reads :
    ringOutcome (readBytes (Who.ring submitted 1023) (sqBase submitted 1023 + 64 * 15) 64 [] ⟨[], .ok⟩ submitted).1 ≠ none ∧
    (let s := { submitted with awt := some { openTables with circles := [(1023, 0)] } }
     ringOutcome (readBytes (Who.ring s 1023) (sqBase s 1023 + 64 * 15) 64 [] ⟨[], .ok⟩ s).1 = none) := by decide +kernel

/-- `ctxUp` with a job of context 1023 in a phase, and masters of contexts in Circle 0. -/
def jobUp (p : JobPhase) (l : List (Fld × Nat)) : State :=
  { ctxUp l with
    awt := some { openTables with circles := (1023, 0) :: openTables.circles }
    ctx := { up.ctx with jobs := [{ waitingJob with phase := p, admitted := true, mbx := 255, mbxEn := true }], nextId := 8, msgDue := [1023] } }

/-- A mailbox write and a record that are due, with the accesses permitted and not; a full ring; a due message with ARMED set
and clear; nothing due. -/
theorem witness_mailboxes_records_and_messages :
    (let s := jobUp .mbxDue []
     s.wf = true ∧ dueJob s 1023 = s.ctx.jobs.head? ∧ s.permits 70 1023 true (64 * 255) 64 = true ∧ s.on 112 = true ∧
     mbxLate s 255 1023 = false ∧ (readBytes (Who.forJob waitingJob) 0 64 [] ⟨[], .ok⟩ s).1.refused = none) ∧
    (let s := { jobUp .mbxDue [] with awt := some openTables }
     s.wf = true ∧ s.permits 70 1023 true (64 * 255) 64 = false) ∧
    (let s := jobUp .recordDue [(Fld.CTX_STATUS_ARMED 1023, 1)]
     s.wf = true ∧ dueJob s 1023 = s.ctx.jobs.head? ∧ cqFull s 1023 = false ∧ s.ctx.admitAt ≠ some s.mono ∧ s.fget (Fld.CTX_CFG_CQ_LOG2 1023) ≤ 12 ∧
     (let r := (writeBytes (Who.forJob waitingJob) (cqBase s 1023) (List.replicate 32 0) false [] ⟨[], .ok⟩ s).1
      r.refused = none ∧ r.lost = none) ∧
     1023 ∈ s.ctx.msgDue ∧ s.fget (Fld.CTX_STATUS_ARMED 1023) = 1) ∧
    (let s := { jobUp .recordDue [] with awt := some openTables }
     s.wf = true ∧
     (writeBytes (Who.forJob waitingJob) (cqBase s 1023) (List.replicate 32 0) false [] ⟨[], .ok⟩ s).1.refused.isSome = true) ∧
    (let s := { jobUp .mbxDue [] with ctx := { (jobUp .mbxDue []).ctx with mbxAt := [(255, (0, 1024))], admitAt := some 0 } }
     mbxLate s 255 1023 = true ∧ s.ctx.admitAt = some s.mono) ∧ ctxVector (ctxUp [(Fld.CTX_OWNER_NOFUNC 1023, 1)]) 1023 = none ∧
    cqFull (jobUp .recordDue [(Fld.CTX_CQ_PTR_TAIL 1023, 15)]) 1023 = true ∧
    dueJob up 1023 = none ∧ 1023 ∉ up.ctx.msgDue ∧ HostGranted up pf (Reg.MBX_ACK 255) := by
  unfold HostGranted
  decide +kernel

/-! ## Witnesses: Ovens, shared targets, copies, PCI Express -/

/-- An instruction with every field zero but its operation and COUNT 1; Pantry operands, aux none. -/
def ins (op : OvenOp) : OInstr :=
  { op, split := false, clear := false, tile := 0, frameEnd := false, ringed := false, auxhold := false, count := 1, src := 0,
    dst := 0, dec := 0, enc := 0, saddr := 0, sstep := 0, daddr := 0, dstep := 0, istride := 0, ascale := 0, aux2 := 0xC0,
    aux3 := 0xC0, auxdec := 0, aux2addr := 0, aux3addr := 0, stages := [], maddr := 0, len := 64, target := 0, user := 0,
    rstride := 0, smode := 0, num := 0 }

/-- Oven 47 in the pass of job 7, at the start of a program. -/
def oven (instrs : List OInstr) : Oven :=
  { Oven.empty with loaded := true, instrs, job := some 7, jobs := [7], starters := [⟨0, false, 0, 1, 0, false, 0, 0, 0, 0, 0⟩] }

/-- The same with its first instruction dispatched. -/
def busy (i : OInstr) : Oven := { oven [i] with disp := [dispatched (oven [i]) 0 i] }

/-- `up` with Oven 47, and job 7 running in it; contexts in Circle 0. -/
def ovenUp (o : Oven) : State :=
  { up with
    awt := some { openTables with circles := (1023, 0) :: openTables.circles }
    ovens := [(47, o)]
    ctx := { up.ctx with nextId := 8, jobs := [{ waitingJob with phase := .running, admitted := true, ovens := [47] }] } }

/-- An idle Oven with a job that runs and that waits, without one, without tables, and OFF; LOOP and END at the point of
dispatch; a pass that has ended. -/
theorem witness_oven_passes :
    (let o := { oven [ins .end_] with job := none }
     let s := ovenUp o
     s.wf = true ∧ s.oven 47 = o ∧ (s.job? 7).map (·.phase) = some .running ∧ s.on 47 = true ∧ o.loaded = true ∧
     (onJob 7 (fun j => { j with phase := .waiting }) s).wf = true ∧
     ((onJob 7 (fun j => { j with phase := .waiting }) s).job? 7).map (·.phase) = some .waiting ∧
     (ovenUp { o with loaded := false }).wf = true ∧
     (let s := { s with pwr := { s.pwr with dom := spSet .off 47 .off s.pwr.dom } } ; s.wf = true ∧ s.on 47 = false)) ∧
    (up.oven 47).jobs = [] ∧ (oven [ins .end_]).job.isSome = true ∧
    (let o := oven [{ ins .loop with count := 2 }]
     (ovenUp o).wf = true ∧ (o.instrs[o.pc]?).map (·.op) = some .loop ∧ o.job.isSome = true ∧ o.ended = false) ∧
    (let o := oven [ins .end_] ; (o.instrs[o.pc]?).map (·.op) = some .end_ ∧ o.ended = false) ∧
    (let o := { oven [ins .end_] with ended := true }
     let s := ovenUp o
     s.wf = true ∧ o.job = some 7 ∧ o.ended = true ∧ o.disp = [] ∧ o.loaded = true ∧
     (s.job? 7).map (·.copy) = some none ∧ (s.job? 7).map (·.phase) = some .running ∧
     (s.job? 7).map (fun j => j.ovens.filter fun k => k != 47) = some []) ∧
    (busy (ins .mac)).disp ≠ [] := by
  decide +kernel

/-- LOADW, whole and split; MAC into a cleared row; a one-vector GLAZE; none of them. -/
theorem witness_oven_engines :
    (∀ i ∈ [ins .loadw, { ins .loadw with split := true }, { ins .mac with clear := true }, ins .glaze],
      (ovenUp (busy i)).wf = true ∧ (ovenUp (busy i)).oven 47 = busy i ∧ (busy i).job.isSome = true ∧
        (headOf (busy i) fun d => d.ins.op == i.op) = some (0, dispatched (oven [i]) 0 i)) ∧
    (∀ op ∈ [OvenOp.loadw, .mac, .glaze], (headOf (oven []) fun d => d.ins.op == op) = none) ∧
    (let d := dispatched (oven [ins .mac]) 0 (ins .mac)
     d.w = 0 ∧ d.ins.count = 1 ∧ d.ins.split = false ∧ d.emit = [] ∧ d.outw = 0 ∧ d.hold1 = none ∧ d.hold2 = none) ∧
    (let i := ins .glaze
     locKind i.src = 0 ∧ dstKind i.dst = 0 ∧ locKind i.aux2 = 3 ∧ locKind i.aux3 = 3 ∧ poolStage i.stages = none ∧ i.dec / 128 ≠ 1) ∧
    macKind (ins .mac).src = 0 := by decide +kernel

/-- AFFINE, MIX and REBASE_IF on a Resident Starter; FETCH and FLUSH of 64 bytes of DRAM that the tables permit; a mover
whose next instruction is the other one, and one with none. -/
theorem witness_starters_and_mover :
    (∀ m, m < 3 → let i := { ins .starter with smode := m, src := if m = 2 then 0xC0 else 0 }
      (ovenUp (busy i)).wf = true ∧
        starterHead (busy i) m = some (0, dispatched (oven [i]) 0 i, ⟨0, false, 0, 1, 0, false, 0, 0, 0, 0, 0⟩) ∧
        locKind i.src ≠ 1 ∧ locKind i.aux2 ≠ 1 ∧ (m = 2 → locKind i.src = 3) ∧ (busy i).job.isSome = true ∧ i.count = 1) ∧
    (∀ m, m < 3 → starterHead (oven []) m = none) ∧
    (headOf (oven []) fun d => engineOf d.ins.op == .mover && !d.started) = none ∧
    (∀ op ∈ [OvenOp.fetch, .flush], let i := ins op
      let s := ovenUp (busy i)
      s.wf = true ∧ (headOf (busy i) fun d => engineOf d.ins.op == .mover && !d.started) = some (0, dispatched (oven [i]) 0 i) ∧
        pieceLen 0 64 = 64 ∧ 0 < i.len * i.count ∧ (dispatched (oven [i]) 0 i).waiting = 0 ∧
        (passJob s 47).map (fun j => viewAddr j (moverAddr (busy i) j.pass (dispatched (oven [i]) 0 i))) = some 0 ∧
        (passJob s 47).map (fun j => routeOf s (Who.forJob j) (op == .flush) 0 64) = some (.target 0) ∧
        ∀ e ∈ (busy i).disp.eraseIdx 0, e.uid ≠ (dispatched (oven [i]) 0 i).uid) := by decide +kernel

/-- A request at DRAM channel 0. -/
def req (cls : Nat) : MemReq := ⟨0, cls, 0, 5000, 0, 64, false, .fetch 47 0 0 64 0⟩

/-- `up` with requests, and a full Frame meter for Bakery 0 at channel 0. -/
def reqUp (l : List MemReq) : State := { up with fab := { up.fab with reqs := l, meters := [(0, 245760)] } }

/-- A copy of 64 bytes on Slicer 7, of which `unit` have passed. -/
def copyJob (unit : Nat) : Job :=
  { waitingJob with bakery := none, phase := .running, admitted := true, unit, copy := some ⟨0, 4096, 64, 1, 1, 0, 0, 0, 0, none, 7⟩ }

/-- `up` with a copy; its context and the Slicer in Circle 0. -/
def copyUp (j : Job) : State :=
  { up with
    awt := some { openTables with circles := (1023, 0) :: openTables.circles }
    ctx := { up.ctx with nextId := 8, jobs := [j] } }

/-- A Frame request that the meter covers, a Prompt and a Bulk one, and no request; meters that have and have not gained up
to the present microsecond; a Bulk request, and a Bulk copy, as old as BULK_AGE; a Bakery that stalls and one that does
not. -/
theorem witness_service_at_shared_targets :
    (let at_ (c : Nat) := choose (reqUp [req c]) 0 (candsOf (reqUp [req c]) 0)
     (∀ c, c < 3 → (reqUp [req c]).wf = true ∧ (at_ c).key? = some 0) ∧
     (match at_ 0 with | .frame _ => true | _ => false) = true ∧ (match at_ 1 with | .prompt _ _ => true | _ => false) = true ∧
     (match at_ 2 with | .bulk _ => true | _ => false) = true) ∧
    up.usCount ≤ up.fab.meterAt ∧ up.fab.meterAt < { up with usCount := 5 }.usCount ∧
    ((reqUp [req 1]).fab.reqs.findIdx? fun r => r.target == 0 && r.cls == 2 && !r.promoted &&
      decide (r.t + 100000 * up.fget Fld.FAB_BULKAGE_BULK_AGE ≤ up.epoch)) = none ∧
    (let s := { copyUp { copyJob 0 with cls := 2 } with epoch := 100000 * up.fget Fld.FAB_BULKAGE_BULK_AGE }
     s.wf = true ∧ ((openCopies s 7).find? fun j => j.cls == 2 && !j.promoted &&
       decide (j.since + 100000 * s.fget Fld.FAB_BULKAGE_BULK_AGE ≤ s.epoch)) = s.ctx.jobs.head?) ∧ openCopies up 7 = [] ∧
    (choose up 0 (candsOf up 0)).key? = none ∧ spWf (fun _ => 0) (reqUp [req 0]).fab.meters = true ∧
    (let s := { reqUp [req 2] with epoch := 100000 * up.fget Fld.FAB_BULKAGE_BULK_AGE }
     s.wf = true ∧ (req 2).t + 100000 * s.fget Fld.FAB_BULKAGE_BULK_AGE ≤ s.epoch ∧ (req 2).cls = 2 ∧ (req 2).promoted = false) ∧
    (let s := { ovenUp (oven []) with
       epoch := 1000 * up.fget Fld.FAB_STALLCFG_STALL_US
       ctx := { up.ctx with nextId := 8, jobs := [{ waitingJob with cls := 0, phase := .running, admitted := true }] } }
     s.wf = true ∧ bakeryActive s 0 = true ∧ (s.fget Fld.FAB_STALL_STALLED).testBit 0 = false ∧
     (s.bakery 0).lastMove + 1000 * s.fget Fld.FAB_STALLCFG_STALL_US ≤ s.epoch) ∧ bakeryActive up 0 = false := by decide +kernel

/-- A copy whose rows overlap and step differently: it is staged (R306). -/
def stagedCopy : CopyDesc := ⟨0, 64, 128, 2, 1, 256, 0, 320, 0, none, 7⟩

/-- The state with that copy, of which `n` bytes are in the buffer. -/
def stagedUp (n : Nat) : State :=
  let s := copyUp { copyJob 0 with copy := some stagedCopy }
  { s with mem := { s.mem with stage := [(7, ⟨7, List.replicate n 0, List.replicate n false⟩)] } }

/-- A copy with a unit to serve, one staged whose source is and is not in the buffer, one with every byte passed, with its
writes acknowledged and not, none; a read of host memory within its timeout, at it, and of no tag. -/
theorem witness_copies_and_host_reads :
    (let s := copyUp (copyJob 0)
     s.wf = true ∧ s.on 109 = true ∧ copyMode ⟨0, 4096, 64, 1, 1, 0, 0, 0, 0, none, 7⟩ ≠ .staged ∧
     ((choose s 27 (copyCands s 7)).key?.bind s.job?) = s.ctx.jobs.head? ∧ (slicerJobs s 7).length = 1) ∧
    (∀ n ∈ [0, 256], let s := stagedUp n
     s.wf = true ∧ copyMode stagedCopy = .staged ∧ copyBytes stagedCopy = 256 ∧
     (slicerStage s 7).map (·.data.length) = some n ∧
     ((choose s 27 (copyCands s 7)).key?.bind s.job?) = s.ctx.jobs.head?) ∧
    (let s := copyUp (copyJob 64)
     s.wf = true ∧ copyBytes ⟨0, 4096, 64, 1, 1, 0, 0, 0, 0, none, 7⟩ = 64 ∧ slicerJobs s 7 = s.ctx.jobs ∧
     postedBy s 0x417 = false ∧
     (let s := { s with mem := { s.mem with held := [⟨0, [0], false, .posted 0x417⟩] } }
      s.wf = true ∧ postedBy s 0x417 = true)) ∧
    (choose up 27 (copyCands up 7)).key? = none ∧ slicerJobs up 7 = [] ∧ up.mem.hostReads = [] ∧
    (let h : HostRead := ⟨0, .a, 0, 0, 0, 64, .fetch 47 0 0 64 0, 0, true⟩
     let s := { up with mem := { up.mem with hostReads := [h], nextTag := 1 } }
     s.wf = true ∧ (s.mem.hostReads.find? fun h => h.tag == 0 && h.sent) = some h ∧ 0 < s.mem.nextTag ∧ s.epoch < h.t + hostTimeout s h.port ∧
     h.t + hostTimeout s h.port ≤ { s with epoch := 40000000 }.epoch) := by decide +kernel

/-- Port A up and down, with its domains ON and OFF and after THERMTRIP_N; a VF that does not exist; a configuration space
that is built and one that is not. -/
theorem witness_pcie_links_and_functions :
    up.wf = true ∧ (up.link .a).up = true ∧ (up.link .b).up = false ∧ up.pwr.tripped = false ∧ up.on 115 = true ∧ up.on 116 = true ∧
    up.on 113 = true ∧ up.on 114 = true ∧ (upBut [115]).on 115 = false ∧ up.portUp .a = true ∧ up.portUp .b = false ∧
    (let s := { up with pwr := { up.pwr with tripped := true } } ; s.wf = true ∧ s.pwr.tripped = true) ∧
    (let s := { up with pwr := { up.pwr with cfgBuilt := false } } ; s.wf = true ∧ cfgPending s .a = true) ∧
    cfgPending up .a = false ∧ up.fnExists ⟨.a, 31⟩ = false ∧ spWf (fun k => cfgReset (k / 4096) (k % 4096)) up.pcie.cfg = true := by decide +kernel

/-- BAR4's last byte, and the first beyond it; a block of DRAM behind it; a vector that is reached, with MSI-X off and on,
and one that is not. -/
theorem witness_pcie_errors_aperture_and_vectors :
    up.wf = true ∧ up.portUp .a = true ∧ up.barsDecode pf = true ∧ up.barsDecode ⟨.b, 0⟩ = false ∧ up.portUp .b = false ∧
    (bar4Size up pf - 1) + 1 ≤ bar4Size up pf ∧ bar4Size up pf < bar4Size up pf + 1 ∧
    (destOf up (apBase up pf) = .dram 0 ∧ up.permits 0 (up.masterOf pf) true 0 64 = true ∧ up.on (133 + channelOf 0) = true ∧
     up.holds 0 = false ∧ errOf [] = .none ∧ apBase up pf % 64 + 64 ≤ 64 ∧ (∀ k, k < 64 → (2 ^ 64 - 1).testBit k = true) ∧
     ∀ k, k < 64 → (0 : Nat).testBit k = false) ∧
    bitsOf 8 8 (up.cfgWord pf 0x118) = 0 ∧
    (let s := up.setCfgWord pf 0x118 0x100 ; s.wf = true ∧ bitsOf 8 8 (s.cfgWord pf 0x118) = 1) ∧ msixReach up pf 0 = true ∧ msixReach up ⟨.b, 0⟩ 0 = false ∧ up.msixOn pf = false ∧
    (let s := up.setCfgWord pf 0x50 (withBits 31 31 1 (up.cfgWord pf 0x50))
     s.wf = true ∧ msixReach s pf 1087 = true ∧ s.msixOn pf = true ∧ (s.msixEntry pf 1087).pend = false ∧ s.pcie.msix = []) := by
  decide +kernel

/-! ## Witnesses: Meridian -/

/-- `up` with link 3 in a state, its peer home 1, home 1 routed over it by `live`; and what the link holds. -/
def linkUp (st live : Nat) (k : MLink) : State :=
  { upWith [(Fld.MER_LINK_STATUS_STATE 3, st), (Fld.MER_LINK_STATUS_PEER_HOME 3, 1), (Fld.MER_ROUTE_DECLARED 1, 8),
      (Fld.MER_ROUTE_LIVE 1, live)] with
    mer := { up.mer with links := [(3, k)] } }

/-- A link with full pools. -/
def full : MLink := { MLink.reset with decl := true, req := 2048, rsp := 4096, ctl := 64 }

/-- Lanes straight, reversed, and in another order. -/
def straight : List (Fin 8 × Bool) := [0, 1, 2, 3, 4, 5, 6, 7].map fun i => (i, false)
def crossed : List (Fin 8 × Bool) := (1, false) :: (0, true) :: straight.drop 2

/-- Every state of a link, powered, OFF and with MODULE_PRES_N high; lanes of each order; Meridian-2 training just begun,
30 ms long, and not, with both ends' generations; an identity that is accepted and one that is refused; a refusal 100 ms old
and younger. -/
theorem witness_meridian_links_train :
    (∀ st ∈ [1, 2, 3, 4, 6, 7], (linkUp st 0 full).wf = true ∧ linkOn (linkUp st 0 full) 3 = true ∧ linkState (linkUp st 0 full) 3 = st ∧
      spWf (fun _ => MLink.reset) (linkUp st 0 full).mer.links = true) ∧
    linkOn (upBut [152]) 3 = false ∧ up.pwr.pins.moduleEjectN = true ∧ (full.gen2At = none ∧ full.identOk = false) ∧
    (let s := { linkUp 7 0 full with pwr := { up.pwr with pins := { up.pwr.pins with moduleEjectN := false } } }
     s.wf = true ∧ linkState s 3 = 7 ∧ s.pwr.pins.moduleEjectN = false) ∧
    laneOrder straight = some false ∧ laneOrder straight.reverse = some true ∧ laneOrder crossed = none ∧ laneOrder [] = none ∧
    (let s := (linkUp 2 0 full).fset (Fld.MER_LINK_STATUS_MAX_GEN 3) 2
     s.wf = true ∧ min (s.fget (Fld.MER_LINK_STATUS_MAX_GEN 3)) 2 = 2 ∧ min (s.fget (Fld.MER_LINK_STATUS_MAX_GEN 3)) 1 ≠ 2 ∧
     s.fget (Fld.MER_LINK_STATUS_FALLBACK 3) = 0) ∧
    (let s := { linkUp 2 0 { full with gen2At := some 0 } with epoch := 30000001 } ; s.wf = true ∧ 0 + 30000000 < s.epoch) ∧
    (let s := linkUp 2 0 { full with gen2At := some 0 }
     s.wf = true ∧ (s.mlink 3).gen2At = some 0 ∧ s.epoch < 0 + 30000000 ∧ 0 + 30000000 ≤ { s with epoch := 30000000 }.epoch) ∧
    (let s := linkUp 3 0 full
     (0 : Word).toNat = s.mer.constId ∧ 1 ≠ s.home ∧ (s.mlink 3).peerHome = 255 ∧ (s.mlink 3).peerLink = 255 ∧
     (∀ x, x < 4 → x ≠ 3 → (s.mlink x).installed = false) ∧ (1 : Word).toNat ≠ s.mer.constId) ∧
    ((linkUp 3 0 { full with identOk := true }).mlink 3).identOk = true ∧
    (let s := { linkUp 6 0 full with epoch := 100000000 } ; (s.mlink 3).refusedAt + 100000000 ≤ s.epoch) := by decide +kernel

/-- A quiet link in service, one with an outstanding flit for 50 µs exactly, one beyond R317's bounds and one within, one whose
Star has left by a Set, links that train, that wait or are DISABLED. -/
theorem witness_meridian_link_lost :
    (let s := linkUp 5 0 full
     s.wf = true ∧ inService s 3 = true ∧ (s.mlink 3).leftBySet = false ∧ s.mer.finals = [] ∧
     (∀ h, h < 8 → (liveMask s h).testBit 3 = false) ∧ s.mem.remote = [] ∧ s.fab.racks = [] ∧ s.fab.reqs = [] ∧
     outstanding (s.mlink 3) = 0 ∧ HostGranted s pf (Reg.MER_LINK_CTRL 3)) ∧
    (let s := { linkUp 4 0 { full with tx := 0 } with epoch := 50000 }
     s.wf = true ∧ inService s 3 = true ∧ outstanding (s.mlink 3) = 1 ∧ (s.mlink 3).ackAt + 50000 ≤ s.epoch) ∧
    (let s := linkUp 5 0 { full with leftBySet := true } ; s.wf = true ∧ (s.mlink 3).leftBySet = true) ∧
    (let s := onLink 3 (rollWin up.mono) (linkUp 5 0 { full with retries := 9 })
     s.wf = true ∧ exhausted (s.mlink 3) = true ∧ exhausted ((onLink 3 (rollWin up.mono) (linkUp 5 0 { full with retries := 8 })).mlink 3) = false) ∧
    (∀ st ∈ [0, 1, 2, 3], (linkUp st 0 full).wf = true ∧ inService (linkUp st 0 full) 3 = false ∧ linkState (linkUp st 0 full) 3 = st ∧
      HostGranted (linkUp st 0 full) pf (Reg.MER_LINK_CTRL 3)) := by
  unfold HostGranted
  decide +kernel

/-- A flit as it is received: IDLE, FSEQ, ACK, NAK, and one credit of Rack 0. -/
def flit (idle : Bool) (fseq ack : Nat) (nak : Bool) : RxFlit := ⟨false, true, 0, flitBytes ⟨idle, fseq, ack, nak, 1, 1, 1, [(0, 1)]⟩ []⟩

/-- A Rack between this Star and home 1 over link 3: its consumer here, or its producer. -/
def farRack (cons : Bool) : Rack :=
  { bakery := 15, prod := if cons then none else some (0, 0, 0), cons := if cons then some (0, 0, 0) else none, remoteHome := 1
    link := 3, remoteRack := 0, depth := 1, preload := 0, cls := 0, linkRes := 0, effDepth := 1, connected := true
    everConnected := true, discarding := false, credits := 0, slots := [], pre := 0, landed := [] }

/-- What a receiver reads in a flit of this model: that it is good, and its fields (R319). -/
theorem test_view_good : (flit false 0 0 false).view.good = true ∧ (flit true 0 0xFFF false).view.good = true ∧
    (flit false 0xFFF 1 true).view.good = true :=
  ⟨Laws.flitBytes_good _ _, Laws.flitBytes_good _ _, Laws.flitBytes_good _ _⟩

theorem test_view_fields : let x := (flit false 0xFFF 1 true).view
    x.idle = false ∧ x.fseq = 0xFFF ∧ x.ack = 1 ∧ x.nak = true ∧ x.valid = true ∧ x.crReq = 1 ∧ x.crRsp = 1 ∧ x.crCtl = 1 ∧
    x.racks = [(0, 1)] ∧ (flit true 0 0xFFF false).view.idle = true ∧ (flit true 0 0xFFF false).view.ack = 0xFFF ∧
    (flit false 0 0 false).view.fseq = 0 ∧ (flit false 0 0 false).view.idle = false ∧ (flit false 0 0 false).view.nak = false ∧
    (RxFlit.mk false true 0 (ackFlit false 0)).view.racks = [] := by decide +kernel

/-- The next flit in order, across the wrap of FSEQ; a skip flit; bad ones; one received before and one after a failed flit;
an idle one; an ACK of what is outstanding, of nothing new, and of too much; a NAK with a flit to send again; credits of a
producing Rack. -/
theorem witness_flits_received :
    (let s := linkUp 5 8 { full with tx := 0 }
     s.wf = true ∧ inService s 3 = true ∧ spWf (fun _ => MLink.reset) s.mer.links = true ∧ outstanding (s.mlink 3) = 1 ∧
     (s.mlink 3).rx = 0xFFF ∧ (s.mlink 3).acked = 0xFFF ∧ (s.mlink 3).ctlQ = []) ∧
    { flit false 0 0 false with fec := false }.view.good = false ∧
    (0xFFF + 4096 - 0xFFF) % 4096 < 256 ∧ 256 ≤ (0xFFF + 4096 - 1) % 4096 ∧
    (0 + 4096 - full.acked) % 4096 = 1 ∧ (0xFFF + 4096 - full.acked) % 4096 = 0 ∧ outstanding { full with tx := 0 } < (1 + 4096 - full.acked) % 4096 ∧
    (let s := linkUp 5 8 { full with tx := 0, replay := [(0, ackFlit false 0)] } ; s.wf = true ∧ (s.mlink 3).replay ≠ []) ∧
    (let s := linkUp 5 8 full
     let s := { s with fab := { s.fab with racks := [(0, farRack false)] } }
     s.wf = true ∧ s.rack? 0 = some (farRack false) ∧ (farRack false).prod.isSome = true ∧ (farRack false).cons = none) ∧
    inService (linkUp 2 0 full) 3 = false ∧ { flit false 0 0 false with skip := true }.skip = true := by decide +kernel

/-- A message with its fields zero but its home. -/
def msg (home srcHome : Nat) : MerMsg :=
  { op := .rd, cls := 0, poison := false, srcHome, master := 5, tag := 9, addr := home * 2 ^ 37, deadline := 0, status := 0,
    enables := 0, data := [], frameEnd := false, user := 0, ctlKind := 0, ctl := [] }

/-- A message for another home on its route and with none, one of a master that no guest entry lists, one of a listed master,
a block for a pool's range; completions of a known tag, of an unknown one, and for another home; a slot for a connected Rack
with room, with its row ON and OFF, and for none; a message of this Star that its link can send. -/
theorem witness_meridian_messages :
    (let s := linkUp 5 8 full
     s.wf = true ∧ inService s 3 = true ∧ (msg 1 1).addr / 2 ^ 37 % 8 ≠ s.home ∧ routeLink s 1 (msg 1 1).addr = some 3 ∧
     (msg 2 1).addr / 2 ^ 37 % 8 ≠ s.home ∧ routeLink s 2 (msg 2 1).addr = none ∧ fillsPool s (msg 0 1) = false ∧
     (let t := { s with mer := { s.mer with pools := [⟨0, 8192, [(0, 4096)]⟩] } }
      t.wf = true ∧ fillsPool t { msg 0 1 with op := .wrf, master := setMaster } = true) ∧
     (msg 0 1).addr / 2 ^ 37 % 8 = s.home ∧ guestOf s (msg 0 1) = none ∧ s.mer.finals = [] ∧
     s.mem.remote = [] ∧ (msg 0 1).srcHome % 8 ≠ s.home ∧ (msg 0 0).srcHome % 8 = s.home ∧ s.rack? 0 = none) ∧
    (let s := linkUp 5 8 full
     let t := { s with
       awt := some { openTables with circles := (0x500, 0) :: openTables.circles }
       mer := { s.mer with guests := [⟨1, 5, 0x500, 1, none⟩] } }
     t.wf = true ∧ guestOf t (msg 0 1) = some ⟨1, 5, 0x500, 1, none⟩ ∧
     fillsPool t (msg 0 1) = false ∧
     routeOf t (Who.guest t (msg 0 1) 0x500) false 0 64 = .target 0 ∧ routeOf t (Who.guest t (msg 0 1) 0x500) true 0 64 = .target 0) ∧
    (let s := linkUp 5 8 full
     let t := { s with fab := { s.fab with reqs := [⟨19, 1, 16, 0, 0, 16, false, .message 3 (msg 1 0) none⟩] } }
     t.wf = true ∧ (choose t 19 (candsOf t 19)).key? = some 0) ∧
    (let s := linkUp 5 8 full
     let q : RemoteReq := ⟨9, 1, 3, .fetch 47 0 0 64 0⟩
     let t := { s with mem := { s.mem with remote := [q] } }
     t.wf = true ∧ (t.mem.remote.find? fun r => r.tag == (msg 0 0).tag) = some q) ∧
    (let r := farRack true
     let s := linkUp 5 8 full
     let t := { s with fab := { s.fab with racks := [(0, r)] } }
     t.wf = true ∧ t.rack? 0 = some r ∧ r.slots.length + r.landed.length < r.effDepth + r.pre ∧ rackPowered t r = true ∧
     spWf (fun _ => Bakery.none) t.fab.baks = true ∧
     (let t := { t with pwr := { t.pwr with dom := spSet .off 96 .off t.pwr.dom } } ; t.wf = true ∧ rackPowered t r = false)) := by
  decide +kernel

/-- Links in service whose Rise has not begun, that are installed, that route nothing; a TRAINED link for MER_RISE, with the
announcement's credits, without them, and behind another message; one that is not TRAINED. -/
theorem witness_routes_announced_and_withdrawn :
    (let s := linkUp 4 0 full
     s.wf = true ∧ inService s 3 = true ∧ (s.mlink 3).installed = false ∧ (s.mlink 3).rising = false ∧ s.mer.finals = [] ∧
     (∀ h, h < 8 → (liveMask s h).testBit 3 = false) ∧ HostGranted s pf Reg.MER_RISE ∧ linkState s 3 = 4 ∧
     (s.mlink 3).said = none ∧ (s.mlink 3).ctlQ = [] ∧
     canSend s 3 { blankMsg s .ctl with ctlKind := ctlAnnounce, ctl := [homeMask (announced s), s.epoch] } = true) ∧
    (let s := linkUp 4 0 { full with ctl := 0, ctlQ := [blankMsg up .ctl] }
     s.wf = true ∧ (s.mlink 3).ctlQ ≠ [] ∧ canSend s 3 (blankMsg s .ctl) = false ∧ HostGranted s pf Reg.MER_RISE) ∧
    ((linkUp 5 8 { full with installed := true }).mlink 3).installed = true ∧ (liveMask (linkUp 5 8 full) 1).testBit 3 = true ∧
    linkState (linkUp 5 8 full) 3 ≠ 4 := by
  unfold HostGranted
  decide +kernel

/-- An announcement during Rise with no other Star on either side, with one here, and with one there; Rise that far, with a
Set completed and not, a Rack of the link and one of another; a Star that is the time root, one that is not, slewed within
the millisecond and before; a slew across a microsecond boundary. -/
theorem witness_rise_and_one_epoch :
    (let s := linkUp 4 0 { full with rising := true }
     s.wf = true ∧ inService s 3 = true ∧ (s.mlink 3).rising = true ∧ (s.mlink 3).installed = false ∧
     spWf (fun _ => MLink.reset) s.mer.links = true ∧ (∀ h, h < 8 → liveMask s h = 0) ∧ peerHomeOf s 3 = 1 ∧
     (2 : Nat).testBit 1 = true ∧ (6 : Nat).testBit 2 = true) ∧
    (let s := linkUp 4 8 { full with rising := true, installed := true }
     s.wf = true ∧ linkState s 3 = 4 ∧ (s.mlink 3).rising = true ∧ (s.mlink 3).installed = true ∧
     liveMask s 1 ≠ 0 ∧ s.fget Fld.MER_STATUS_SET_STATE ≠ 2 ∧ s.fget Fld.MER_STATUS_TIME_ROOT = s.home) ∧
    (upWith [(Fld.MER_STATUS_SET_STATE, 2)]).fget Fld.MER_STATUS_SET_STATE = 2 ∧
    rackRemote (farRack true) = true ∧ (farRack true).link = 3 ∧ { farRack true with link := 2 }.link ≠ 3 ∧
    (let s := { upWith [(Fld.MER_STATUS_TIME_ROOT, 1), (Fld.MER_ROUTE_LIVE 1, 8)] with epoch := 900 }
     s.wf = true ∧ s.fget Fld.MER_STATUS_TIME_ROOT ≠ s.home ∧ liveMask s 1 ≠ 0 ∧ s.mer.slewAt = none ∧
     s.epoch / 1000 < (s.epoch + 200) / 1000 ∧ ({ s with epoch := 1100 }.epoch - 200) / 1000 < 1100 / 1000 ∧
     (let t := { s with mono := 999999, mer := { s.mer with slewAt := some 0 } }
      t.wf = true ∧ ¬ (0 + 1000000 ≤ t.mono))) := by decide +kernel

/-- A Set of windows in a stage, with the Stars still to ask or to acknowledge. -/
def setting (stage : SetStage) (wins asking acks : List Nat) : SetState :=
  ⟨65535, wins, asking, if stage = .copy ∨ stage = .relocate then some (1, 2 ^ 37) else none, 0, acks, false, 0, 0, stage⟩

/-- A Homed window of this Star. -/
def win : Window := ⟨0, some 0, 0, 0, 0, 0, 4096, 0, false, false⟩

/-- `linkUp` with a Set of this Star. -/
def setUp (t : Option SetState) : State :=
  let s := linkUp 5 8 { full with installed := true }
  { s with mem := { s.mem with wins := [(0, win), (1, { win with base := 4096 })] }, mer := { s.mer with set := t, pools := [⟨0, 8192, [(0, 4096)]⟩] } }

/-- MER_SET with no Set before, with one done, with other Stars and without windows; a window accepted, copied and not, and
none; a final Set, acknowledged and not, and none. -/
theorem witness_set_of_this_star :
    (setUp none).wf = true ∧ HostGranted (setUp none) pf Reg.MER_SET ∧ (setUp none).fget Fld.MER_STATUS_SET_STATE = 0 ∧
    others (setUp none) ≠ [] ∧ setWindows (setUp none) = [0, 1] ∧ setWindows up = [] ∧ HostGranted up pf Reg.MER_SET ∧
    (upWith [(Fld.MER_STATUS_SET_STATE, 2)]).fget Fld.MER_STATUS_SET_STATE ≠ 0 ∧
    (∀ n ∈ [0, 4096], (setUp (some { setting .copy [0] [1] [] with copied := n })).wf = true) ∧
    (setting .copy [0] [1] []).accepted = some (1, 2 ^ 37) ∧ spGet noWindow (setUp none).mem.wins 0 = win ∧ win.size = 4096 ∧
    (setUp none).mer.set = none ∧ (setUp (some (setting .final [] [] []))).wf = true ∧ (setUp (some (setting .final [] [] [1]))).wf = true := by
  unfold HostGranted
  decide +kernel

/-- An offer that fits in a pool's free half, one that fits in none; acceptances and declines of the Star asked, with another
left to ask and with none, and of one not asked; acknowledgements of the last Star, of another, and of none awaited; a
relocation with room, and the 65th; SET_FINAL with a request outstanding to the leaving Star, and without. -/
theorem witness_messages_of_a_set :
    (let s := setUp (some (setting .offer [0, 1] [1, 2] []))
     s.wf = true ∧ inService s 3 = true ∧ s.home = 0 ∧ relocsFull s 0 = false ∧ others s = [1] ∧ spGet noWindow s.mem.wins 0 = win ∧
     poolFor 4096 0 s.mer.pools = some (0, 4096) ∧ poolFor 8192 0 s.mer.pools = none ∧
     (setting .offer [0, 1] [1, 2] []).asking.head? = some 1 ∧ s.mer.finals = [] ∧ waitingOn s 1 = false) ∧
    (setUp (some (setting .offer [0] [1] []))).wf = true ∧ (setting .offer [0] [1] []).asking = [1] ∧
    (setting .offer [0] [1] []).asking.head? ≠ some 2 ∧
    (setUp (some (setting .relocate [0, 1] [] [1]))).wf = true ∧ (setUp (some (setting .relocate [0, 1] [] [1, 2]))).wf = true ∧
    [1].contains 1 = true ∧ [1].contains 2 = false ∧ [1, 2].filter (fun y => y != 1) ≠ [] ∧
    (let s := setUp none
     let t := { s with mem := { s.mem with relocs := List.replicate 64 (4096, 4096, some 0) } }
     t.wf = true ∧ relocsFull t 0 = true) ∧
    (let s := setUp none
     waitingOn { s with mem := { s.mem with remote := [⟨9, 1, 3, .fetch 47 0 0 64 0⟩] } } 1 = true) ∧
    inService (linkUp 2 0 full) 3 = false := by decide +kernel

/-! ## Witnesses: Pace, Orbit, Nightwatch, video -/

/-- `up` with Pace in a state. -/
def paceUp (p : PaceState) : State := { up with pace := p }

/-- A new boundary, with transactions left and without; a tick that has started, and none; attempts of each transaction, the
third included; a window that ends, at its last tick and past it, with a first Tj_max below, equal to and above the last, and
with FULL_FANS set. -/
theorem witness_pace_ticks_and_transactions :
    (let s := { up with epoch := 100000 }
     s.wf = true ∧ s.on 158 = true ∧ s.epoch / 1000 % 100 = 0 ∧ s.epoch / 100000 ≠ s.pace.tickAt ∧ s.pace.txq = [] ∧
     (paceBoundary s).pace.due = true ∧ (paceBoundary s).wf = true ∧
     (paceBoundary { s with pace := { s.pace with txq := [.readI] } }).pace.due = false) ∧
    (upBut [158]).on 158 = false ∧ up.pace.due = false ∧ up.pace.txq = [] ∧
    (∀ x ∈ [AvsTx.writeV 700, .readV, .readI, .readT, .readS],
      (paceUp { up.pace with txq := [x], tried := 3, failing := 2, counts := true, vNow := some 700 }).wf = true) ∧
    (let p := { up.pace with txq := [.readI], vNow := some 700 } ; p.tried < 3 ∧ p.hold = false) ∧
    (let (v, _) := paceCommand up.pace 600 ; 600 ≤ v) ∧ (let (v, _) := paceCommand up.pace 900 ; v ≤ 900) ∧
    (let s := paceUp { up.pace with bounds := 1000, winFirst := some 10, winLast := 12 }
     s.wf = true ∧ s.pace.winStart + 1000 ≤ s.pace.bounds ∧ s.pace.due = false ∧ s.pace.winFull ≠ 0 ∧ 10 + 2 ≤ s.pace.winLast) ∧
    (let s := paceUp { up.pace with bounds := 1000, winFirst := some 10, winLast := 11 }
     ¬ (s.pace.winFull ≠ 0 ∧ 10 + 2 ≤ s.pace.winLast) ∧ s.fget Fld.PACE_COOL_FULL_FANS = 0) ∧
    (let s := paceUp { up.pace with bounds := 1000, due := true }
     s.wf = true ∧ s.pace.bounds = s.pace.winStart + 1000 ∧ s.pace.due = true ∧ up.pace.bounds < up.pace.winStart + 1000) ∧
    (let s := { paceUp { up.pace with acks := [5] } with regs := (up.setReg Reg.PACE_EVT_SEQ 5).regs }
     s.wf = true ∧ s.reg Reg.PACE_EVT_SEQ ∈ s.pace.acks) ∧
    (upWith [(Fld.PACE_COOL_FULL_FANS, 1)]).fget Fld.PACE_COOL_FULL_FANS ≠ 0 ∧ HostGranted up pf Reg.PACE_EVT_ACK := by
  unfold HostGranted
  decide +kernel

/-- A channel's configuration under a POLICY, one waiting command at most. -/
def orbCfg (policy : Nat) : OrbCfg :=
  { poles := 4, khz := 20, dead := 0, blank := 0, twin := 0, hyst := 0, advance := 0, demag := 0, span := 0, ocCode := 0,
    posCode := 0, ocMs := 5, dir := false, policy, depth := 1, retryMax := 1, retryS := 1, kp := 0, ki := 0, slew := 0,
    hystC := 0, curve := [], shape := [], start := .default, dLo := 0, dHi := 1000 }

/-- `up` with channel 3 of Orbit, at a time of the machine's clocks in ns. -/
def orbUp (c : OrbChan) (t : Nat) : State := { up with mono := t, orb := { up.orb with chans := [(3, c)] } }

/-- A channel in IDLE under a POLICY. -/
def orb (policy : Nat) : OrbChan := OrbChan.fresh (orbCfg policy)

/-- Each command at a channel that is idle, running either way, busy with room and full under each POLICY, in fault; a waiting
command that can take effect and one that cannot; no channel. -/
theorem witness_orbit_commands :
    (∀ c ∈ [orb 0, { orb 0 with st := 7 }, { orb 0 with st := 7, rev := true }, { orb 0 with st := 2 },
        { orb 0 with st := 2, queue := [.stop] }, { orb 1 with st := 2, queue := [.stop] }, { orb 2 with st := 2 },
        { orb 0 with st := 9, inFault := true }, { orb 0 with st := 9, inFault := true, target := 10000 }, { orb 0 with queue := [.stop] }],
      (orbUp c 0).wf = true ∧ (orbUp c 0).orb.chans.lookup 3 = some c) ∧
    (orb 0).busy = false ∧ (orb 0).queue = [] ∧ { orb 0 with st := 2 }.busy = true ∧ { orb 0 with st := 7 }.running = true ∧
    (orb 0).st = 1 ∧ (1 : BitVec 16).toInt ≠ 0 ∧ (0xFFFF : BitVec 16).toInt < 0 ∧
    up.orb.chans.lookup 3 = none ∧ up.orb.tripped = false ∧ up.on 157 = true ∧ HostGranted up pf (Reg.ORB_CMD 3) := by
  unfold HostGranted
  decide +kernel

/-- Each phase of a start at the very end of its time and 1 ns before; OBSERVE with each number of valid transitions and of
passes through BRAKE; pulses above the threshold of POS_CODE, below it and that do not trip, unambiguous and ambiguous;
crossings in RAMP and RUN, and one while the switch is held off. -/
theorem witness_orbit_sequences :
    (∀ c ∈ [{ orb 0 with st := 2 }, { orb 0 with st := 2, valid := 3, target := -10000 }, { orb 0 with st := 2, valid := 3, brakes := 3 },
        { orb 0 with st := 3 }, { orb 0 with st := 4 }, { orb 0 with st := 5 }, { orb 0 with st := 6, stepNs := 1000 },
        { orb 0 with st := 6, tries := 2 }, { orb 0 with st := 7, commDue := some 0 }],
      (orbUp c 1000000000).wf = true ∧ (orbUp c 1000000000).orb.chans.lookup 3 = some c) ∧
    (let p := OrbStart.default
     p.observeMs * 1000000 = 100000000 ∧ p.brakeMs * 1000000 = 1000000000 ∧ p.alignMs * 1000000 = 200000000 ∧
     (p.rampMs + 500) * 1000000 = 2000000000 ∧ p.tries = 3) ∧
    (let ps := pulses { orb 0 with st := 4 } (List.replicate 6 (some (10, 1)))
     (ps.any (·.2)) = true ∧ ((ps.foldl (fun m q => max m q.1) 0 - (ps.getD (shortest ps) (0, false)).1) * 1000 <
       OrbStart.default.posDiff * ps.foldl (fun m q => max m q.1) 0)) ∧
    (let ps := pulses { orb 0 with st := 4 } (some (10, 1) :: List.replicate 5 (some (100, 1)))
     ¬ ((ps.foldl (fun m q => max m q.1) 0 - (ps.getD (shortest ps) (0, false)).1) * 1000 <
       OrbStart.default.posDiff * ps.foldl (fun m q => max m q.1) 0)) ∧
    (let c := { orb 0 with st := 4, cfg := { orbCfg 0 with posCode := 1 } }
     pulses c [some (10, 4762), some (10, 4761), none] = (10, true) :: List.replicate 5 (200000, false)) ∧
    (let c := { orb 0 with st := 7, ocFrom := some 0, ocLast := 5 } ; ocHeld 10 c = true ∧ ocHeld 1000000000 c = false ∧
     (orbUp c 10).wf = true) ∧
    pastIgnored 1000000000 { orb 0 with st := 6, stepNs := 1000 } = true ∧
    (let s := { orbUp { orb 0 with st := 7 } 0 with epoch := 10000000 } ; s.wf = true ∧ s.epoch / 10000000 ≠ (orb 0).loopAt) ∧
    (orb 0).loopAt = 0 ∧ (250000000 < 250000001 - (orb 0).lastX) := by decide +kernel

/-- Lost synchronisation the first and the third time; trips while driven and while coasting; trips in every period for OC_MS;
the comparator asserted for 10 µs; a retry that is due, one after RETRY_MAX; 5 s of RUN. -/
theorem witness_orbit_faults :
    (∀ c ∈ [{ orb 0 with st := 7, ivals := [1000] }, { orb 0 with st := 7, ivals := [1000], losses := [4999999999, 5000000000] },
        { orb 0 with st := 8, ocFrom := some 0, ocLast := 5000000000 }, { orb 0 with st := 9, fault := 2 },
        { orb 0 with st := 9, fault := 2, retries := 1 }, { orb 0 with st := 9, fault := 4 }, { orb 0 with st := 7, inFault := true }],
      let s := orbUp c 5000000000 ; s.wf = true ∧ s.orb.chans.lookup 3 = some c ∧ s.on 157 = true ∧ s.orb.tripped = false) ∧
    (orbCfg 0).ocCode * 300000 < 63 * 1 ∧ 63 * 1 < { orbCfg 0 with ocCode := 1 }.ocCode * 300000 ∧
    2 * [1000].sum ≤ (5000000000 - (orb 0).lastX) * 1 ∧ (orb 0).coasting = true ∧ (orb 0).offAt + 10000 ≤ 5000000000 ∧
    (orb 0).since + (orbCfg 0).retryS * 1000000000 ≤ 5000000000 ∧ (orb 0).since + 5000000000 ≤ 5000000000 := by decide +kernel

/-- A configuration of Nightwatch with channel 7 enabled. -/
def nwCfg0 : NwCfg :=
  { chEn := 0x80, preMask := 0, kwsMask := 0, alarmMask := 0, fullClk := false, rate48 := false, slots := 1, policy := 0, depth := 1,
    windowS := 1, settleMs := 1, bandCount := 8, deadMs := 1, aliveMs := 1, slotMap := [], userThresh := 0, enrolMin := 3,
    scoreLayer := 255, embLayer := 255, modelId := 0, toneFlo := 0, toneFhi := 0, toneSnr := 0, toneFloor := 0, toneOn := 1,
    toneOff := 1, impactDb := 0, impactFloor := 0, hbDb := 0, hbMs := 0, hbHz := 0, firL16 := [], firF16 := [], firF48 := [],
    bands := [], layers := [], weights := [], curves := [], keywords := [], tables := [], crc := 0 }

/-- `up` with Nightwatch in a state. -/
def nwUp (n : NwState) : State := { up with nw := n }

/-- Without VDD_NW; retention good and not; UNCONFIGURED, LISTEN and FULL, with the crossing open and closed; a clock that
changes; a sample boundary with and without a clock; channels that die and live again; frames and blocks that are due. -/
theorem witness_nightwatch_modes_and_samples :
    (let s := { up with pwr := { up.pwr with sup := { up.pwr.sup with vddNw := false } } } ; s.wf = true ∧ s.pwr.sup.vddNw = false) ∧
    up.pwr.sup.vddNw = true ∧ up.pwr.sup.vret = true ∧ up.nw.ret.good = false ∧
    spWf (fun _ => DomState.off) up.pwr.dom = true ∧ HostGranted up pf Reg.NW_CTRL ∧ up.nw.mode = 0 ∧
    (let s := nwUp { up.nw with cfg := some nwCfg0, mode := 2 }
     s.wf = true ∧ s.nw.mode ≠ 0 ∧ s.nw.mode = 2 ∧ nwOpen s = true ∧ s.nw.wantClk ≠ s.nw.clk) ∧
    nwOpen { nwUp { up.nw with mode := 2 } with pwr := (upBut [111]).pwr } = false ∧
    (let s := nwUp { up.nw with cfg := some nwCfg0, mode := 1, clk := 768000, settling := true, scount := 320,
                                chans := List.replicate 8 { NwChan.reset with quiet := 16 } }
     s.wf = true ∧ s.nw.clk ≠ 0 ∧ nwCfg0.chEn.testBit 7 = true ∧ s.nw.settleLeft = 0 ∧ s.nw.chans.length = 8 ∧
     nwCfg0.deadMs * 16 ≤ (s.nw.chans.getD 7 NwChan.reset).quiet ∧ s.on 160 = true ∧ s.nw.scount % 160 = 0 ∧
     s.nw.scount ≠ s.nw.frameAt ∧ s.on 161 = true ∧ s.nw.scount % 64 = 0 ∧ s.nw.scount ≠ s.nw.blockAt) ∧
    nwCfg0.aliveMs * 16 ≤ { NwChan.reset with dead := true, lively := 16 }.lively ∧ up.nw.scount % 1000 = 0 := by
  unfold HostGranted
  decide +kernel

/-- A state table of Nightwatch with a pass due that halts at its first row. -/
theorem witness_nightwatch_table_pass :
    (let s := nwUp { up.nw with cfg := some { nwCfg0 with tables := [(3, haltTable)] }, tables := [(3, haltTable.begin)] }
     s.wf = true ∧ s.pwr.sup.vddNw = true ∧ s.nw.tables.lookup 3 = some haltTable.begin ∧ haltTable.begin.ready (nwInputs s) = true ∧
     ((passRows haltTable (nwInputs s) s.nw.scount 0 haltTable.begin).bind fun p => nextRow haltTable (nwInputs s) s.nw.scount p).map
       (·.act) = some 10) := by decide +kernel

/-- A trigger that is due; a record to post; a window at its end, open and closed; a scrub, with an opening that waits and
without; an enrolment that has timed out, one that has not, and none, in FULL with retention valid and not. -/
theorem witness_nightwatch_wakes_and_enrolment :
    (let x : NwTrig := ⟨0, 0, 0, 0, 0, 0, 0, 0, 0, false⟩
     let s := nwUp { up.nw with due := some x, rec_ := some ⟨x, false, 0, false, false, 0, 0, 0, 0, 0, 0, 0⟩, window := true }
     s.wf = true ∧ s.nw.due = some x ∧ s.nw.rec_.isSome = true ∧ s.nw.window = true ∧ s.nw.winEnd ≤ s.nw.scount ∧ s.nw.scrub = false) ∧
    (nwUp { up.nw with window := true, winEnd := 1 }).nw.scount < 1 ∧ up.nw.due = none ∧ up.nw.rec_ = none ∧ up.nw.window = false ∧
    (nwUp { up.nw with scrub := true, openDue := true }).wf = true ∧
    (let s := nwUp { up.nw with enrol := some ⟨7, 15, 65535, 480000, []⟩, scount := 480000, mode := 2 }
     s.wf = true ∧ 480000 ≤ s.nw.scount ∧ { s with nw := { s.nw with scount := 479999 } }.nw.scount < 480000) ∧
    (let s := nwUp { up.nw with mode := 2, retValid := true } ; s.wf = true ∧ s.nw.enrol = none ∧ s.nw.mode = 2 ∧ s.nw.retValid = true) ∧
    (up.nw.enrol = none ∧ up.nw.retValid = false ∧ up.nw.mode ≠ 2) ∧
    (upWith [(Fld.NW_WAKE_STAT_READY, 1)]).fget Fld.NW_WAKE_STAT_READY ≠ 0 ∧ up.fget Fld.NW_WAKE_STAT_READY = 0 ∧
    HostGranted up pf Reg.NW_CLOSE ∧ HostGranted up pf Reg.NW_POST ∧ HostGranted up pf Reg.NW_WAKE_ACK ∧
    HostGranted up pf Reg.NW_SIGNAL ∧ HostGranted up pf Reg.NW_ENROL := by
  unfold HostGranted
  decide +kernel

/-- `up` with MIPI port 1, its virtual channel 15 for data type 0x2A, and a frame that is open. -/
def rxUp (opened closed : List (Nat × RxFrame)) : State :=
  { chanUp (schan { cfg 1 0 1 with trigPort := 1, trigVc := 15 } 2 false []) with
    vid := { up.vid with rx := [(1, ⟨0, 4, 1000⟩)], rxvc := [(31, ⟨0x2A, false, 4, 2⟩)], opened, closed } }

/-- A port without an entry; virtual channels with a Stream Channel and without; frames open and closed, and none; a line of
the data type and of another, within MAX_LINES and past it; a new state of the PHY and an old one. -/
theorem witness_mipi_receive :
    rxOn up 1 = false ∧ (rxUp [] []).wf = true ∧ rxOn (rxUp [] []) 1 = true ∧ vcChan (rxUp [] []) 1 0 = none ∧
    (vcChan (rxUp [] []) 1 15).isSome = true ∧ (rxUp [] []).vid.opened.lookup 31 = none ∧
    (rxUp [(31, ⟨0, 0, 7, 2, false, false, false⟩)] []).vid.opened.lookup 31 = some ⟨0, 0, 7, 2, false, false, false⟩ ∧
    (rxUp [] []).vid.rxvc.lookup 31 = some ⟨0x2A, false, 4, 2⟩ ∧ (0x2A : BitVec 6).toNat = 0x2A ∧
    (rxUp [] [(31, ⟨0, 0, 7, 2, true, false, false⟩)]).vid.closed.find? (fun e => e.1 == 31) = some (31, ⟨0, 0, 7, 2, true, false, false⟩) ∧
    (let s := { rxUp [] [] with awt := some { openTables with circles := (0x40F, 0) :: openTables.circles } }
     s.wf = true ∧ pieceLen 0 32 = 32 ∧ routeOf s (Who.stream s 15) true 0 32 = .target 0 ∧ buffered s 1 = 0 ∧
     frameWrites s 31 0 = false ∧
     (let t := writeLine 31 0 15 2 0 (List.replicate 32 0) s ; t.wf = true ∧ frameWrites t 31 0 = true)) ∧
    (rxUp [] []).on 118 = true ∧ (rxUp [] []).fget (Fld.VIN_PORT_STATUS_STATE 1) ≠ 2 := by decide +kernel

/-- `up` with eDP port 1 configured and its link in a state, HPD at a level for 100 ms. -/
def edpUp (link hpd : Nat) : State :=
  { upWith [(Fld.VOUT_PORT_STATUS_LINK 1, link), (Fld.VOUT_PORT_STATUS_HPD 1, hpd)] with
    usCount := 100000
    vid := { up.vid with edp := [(1, ⟨4, 2700, 0, 0, false, 8, 0, 0, 0⟩)], hpdAt := [(1, 0)] } }

/-- A link in each state with HPD stable either way; a port held, and one whose encoder is OFF; a training that has failed for
100 ms; an AUX transaction on the wire, with 7 DEFERs and fewer, one that waits 400 µs, none; a full DSI queue and one with
room; an entry of DSI_INIT that is due; a line to show, on one pair of LVDS, on two and on another port, and none. -/
theorem witness_video_out :
    (∀ l ∈ [0, 1, 2, 3, 4, 5], ∀ h ∈ [0, 1], (edpUp l h).wf = true ∧ txLink (edpUp l h) 1 = l ∧ hpdStable (edpUp l h) 1 h = true) ∧
    (let s := { edpUp 5 1 with vid := { (edpUp 5 1).vid with hold := [1], timing := [(4, ⟨1, 1, 1, 1, 1, 1, 10000, 0⟩)] } }
     s.wf = true ∧ s.vid.hold.contains 1 = true ∧ txOn s 1 = true ∧ txDefined s 1 = true) ∧
    (let s := { upBut [124] with vid := { up.vid with edp := [(1, ⟨4, 2700, 0, 0, true, 8, 1, 1, 128⟩)] } }
     s.wf = true ∧ s.on 124 = false ∧ (s.vid.edp.lookup 1).map (·.dsc) = some true) ∧
    txOn (edpUp 1 1) 1 = true ∧ txOn (upBut [120]) 1 = false ∧ up.on 112 = true ∧ (upBut [112]).on 112 = false ∧
    ((edpUp 4 1).vid.failAt.lookup 1).getD 0 + 100000 ≤ (edpUp 4 1).usCount ∧
    (∀ g, g < 4 → HostGranted up pf (Reg.VOUT_PORT_CMD g)) ∧ HostGranted up pf Reg.VOUT_AUX_CMD ∧ HostGranted up pf Reg.VOUT_DSI_PUSH ∧
    (let x : AuxTx := ⟨1, 0, 0x202, [], 16, 65535, 7, true, none⟩
     let s := { edpUp 3 1 with vid := { (edpUp 3 1).vid with aux := some x } }
     s.wf = true ∧ s.vid.aux = some x ∧ x.sent = true ∧ 7 ≤ x.defers ∧ { x with defers := 6 }.defers < 7) ∧
    (0 + 400 ≤ { edpUp 3 1 with usCount := 400 }.usCount ∧ up.vid.aux = none) ∧
    up.vid.dsiQueue.length < 16 ∧ 16 ≤ { up.vid with dsiQueue := List.replicate 16 (5, []) }.dsiQueue.length ∧
    (let s := { up with vid := { up.vid with dsi := some ⟨4, 1000, 0, 0, false, 8, 0, 0, 0⟩, initLeft := [⟨5, [0x11], 120⟩] } }
     s.wf = true ∧ txOn s 2 = true ∧ s.vid.initAt ≤ s.usCount) ∧ up.vid.initLeft = [] ∧
    (let s := genUp { gen1 with startAt := some 0, begun := true }
     s.wf = true ∧ (s.gen 3).modes.lookup (s.gen 3).mode = some ⟨10000, 4, 2⟩ ∧ genRuns s (s.gen 3) = true ∧ (s.gen 3).line < 2 ∧
     s.on 128 = true ∧ spWf (fun _ => Gen.none) s.str.gens = true ∧ txSends s 3 = false ∧
     (∀ dual ∈ [false, true], let t := { s with
        regs := (s.fset (Fld.VOUT_PORT_STATUS_LINK 3) 3).regs, vid := { s.vid with lvds := some ⟨dual, true, 0⟩ } }
      t.wf = true ∧ txSends t 3 = true)) ∧ (up.gen 3).begun = false := by
  unfold HostGranted
  decide +kernel

/-! ## Effects that the spec states in numbers -/

/-- The worked example of R280: local address 0x00_4000_1A40 lies in channel 11 at offset 0x0400_0140, bank 0, row 2,048. -/
theorem test_channel_of : channelOf 0x40001A40 = 11 ∧ channelOffset 0x40001A40 = 0x04000140 ∧ bankOf 0x04000140 = 0 ∧
    rowOf .u48 0x04000140 = 2048 := by decide +kernel

/-- A DEADLINE of 2³¹ µs ahead resolves forward, one of 2³¹ + 1 behind (R364). -/
theorem test_deadline : resolveUs State.reset (2 ^ 31) = 2 ^ 31 * 1000 ∧ resolveUs State.reset (2 ^ 31 + 1) = (1 - 2 ^ 31) * 1000 := by
  decide +kernel

/-- The 4,097th record takes the slot of the first (R534). -/
theorem test_log_slot : logSlot 1 = 0 ∧ logSlot 4096 = 4095 ∧ logSlot 4097 = 0 := by decide +kernel

/-- A record's words: SEQ; KIND, FLAGS and MASTER; TARGET; DETAIL; ADDR; T (R536). -/
theorem test_record : (recordWords 7 ⟨4, 9, 0x420, 65, 2, 0x12345678A, 0x100000002⟩).map (· % 2 ^ 32) =
    [7, 0x04200904, 65, 2, 0x2345678A, 1, 2, 1] := by decide +kernel

/-- A denied write of ORB_CMD is logged as KIND 1 with WRITE and BAR, MASTER the PF of port A, and changes no channel (R48). -/
theorem test_denied_write : (nextOf (exec (.orbStop pf 3) shut)).flt.queue.map (fun e => (e.kind, e.flags, e.target, e.addr)) =
    [(1, 9, 79, Reg.ORB_CMD 3)] := by decide +kernel

/-- POR_N's fall turns every domain OFF but Nightwatch's (R168). -/
theorem test_por : let t := nextOf (exec .porNAssert up)
    t.dom 111 = .off ∧ t.dom 0 = .off ∧ t.dom 158 = .off ∧ t.dom 159 = .on := by decide +kernel

/-- PERST_N's fall leaves CRUST_AON (R168). -/
theorem test_perst : (nextOf (exec .perstNAssert up)).dom 111 = .on ∧ (nextOf (exec .perstNAssert up)).dom 112 = .off := by
  decide +kernel

/-- COMMIT of the Recipe above: STATE is LOADED, CAUSE 0, KIND and SEQ those of the LOAD (R112, R126). -/
theorem test_commit :
    (let s := { up with rcp := { up.rcp with run := some { newRun 1 0x1234 with phase := 1, dir := dirOf recipe } } }
     let t := nextOf (exec (.commit recipe []) s)
     t.fget Fld.RCP_STATUS_STATE = 3 ∧ t.fget Fld.RCP_RESULT_CAUSE = 0 ∧ t.fget Fld.RCP_RESULT_KIND = 1 ∧
       t.fget Fld.RCP_RESULT_SEQ = 0x1234) := by decide +kernel

/-- A LOAD while a load runs is dropped, and counted (R123). -/
theorem test_load_dropped : (nextOf (exec (.load pf 1) (upWith [(Fld.RCP_STATUS_STATE, 1)]))).fget Fld.RCP_DROP_DROPPED = 1 := by
  decide +kernel

/-- A signal reaches the running instance as event 0; Procedure 3 started again under DROP is counted (R178, R179). -/
theorem test_zenith : ((nextOf (exec (.zenSignal pf 0) (zenUp [] one3 []))).zen.insts.getD 0 none).map (·.inst.events) = some 1 ∧
    (nextOf (exec (.zenTrig pf 3 0) (zenUp [(3, 2, 0)] one3 []))).fget (Fld.ZEN_COUNT_DROPPED 3) = 1 := by decide +kernel

/-- GETDCR in I3C mode answers one zero byte; in I²C mode it is not acknowledged (R455). -/
theorem test_getdcr : (nextOf (exec .getdcr (upWith [(Fld.SBD_SB_STATUS_I3C, 1)]))).port = [.sideband true [0x00]] ∧
    (nextOf (exec .getdcr up)).port = [.sideband false []] := by decide +kernel

/-- The identification register shifts out its least significant bit, a one, first (R465). -/
theorem test_idcode : (match (nextOf (exec .tapIdcode up)).port with | .tap bits :: _ => bits.take 5 | _ => []) =
    [true, true, true, true, false] := by decide +kernel

/-- The worked examples of "Ovens" and "Recipe tables": the decode word 0x0003_7064 is −6.25; its product with 45 × 2⁻⁷ is
−36,864,000 in a row with BS 0, and −35 in one with BS 20 (R130, R131, R226). -/
theorem test_product : opLane 0x00037064 = -25 * 2 ^ 22 ∧ product 0x00037064 0x0001402D 0 = (-36864000, 0) ∧
    product 0x00037064 0x0001402D 20 = (-35, 0) := by decide +kernel

/-- A sum is exact before it saturates: two products that cancel leave the old accumulator, at its greatest (R227). -/
theorem test_column : column 0 (2 ^ 47 - 1) [0x00037064, 0x00017064] [0x0001402D, 0x0001402D] = (2 ^ 47 - 1, 0) := by decide +kernel

/-- The encode table of the worked example of INT8/4: 2.53125 lies at t₁₆₈, which does not count, so the code is 40; 9.0
saturates to 127 (R132, R133). -/
theorem test_encode :
    (let t : EncTable := ⟨0, (List.replicate 128 0x003F0000 ++ List.replicate 40 0) ++ (0x0011A200 :: List.replicate 86 0x0011A200),
       (List.range 256).map fun i => BitVec.ofNat 8 (i + 128)⟩
     encodeDy t (81, -5) = 40 ∧ encodeDy t (9, 0) = 127) := by decide +kernel

/-- The worked example of SIGMOID: 1.25 gives 12,893,177 lane steps (R141). -/
theorem test_sigmoid :
    evalCurve ⟨false, 24, -8 * 2 ^ 24, List.replicate 9 0 ++ [12265128, 14777323] ++ List.replicate 6 0⟩ (5 * 2 ^ 22) = (12893177, 0) := by
  decide +kernel

/-- The worked examples of the Starter: the AFFINE step gives 6,650,558 with BS 3, and a Feeding step 13,301,116 with BS 2
(R259, R263, R265). -/
theorem test_affine :
    (let t := stepValue false (12893177, -24) (5242880, -21) (5, -2)
     stepAcc 3 t = (6650558, 0) ∧ feedBs 3 [t] = 2 ∧ stepAcc 2 t = (13301116, 0)) := by decide +kernel

/-- The worked example of a Striped window: 0xE0_0000_5123 is Star 1's 0x20_C000_2123 (R293). -/
theorem test_stripe : stripe ⟨1, none, 3, 0, 0, 0xE000000000, 0x10000000, 0xC0000000, false, false⟩ 0xE000005123 = 0x20C0002123 := by
  decide +kernel

/-- The worked examples of copies: a tile moved down and right runs descending; with a shear it is staged; with 512 rows it is
unordered (R304–R306). -/
theorem test_copy_mode : copyMode ⟨0x10000000, 0x10000F10, 1024, 64, 1, 3840, 0, 3840, 0, none, 0⟩ = .ordered true true false ∧
    copyMode ⟨0x10000000, 0x10000010, 1024, 64, 1, 3840, 0, 3856, 0, none, 0⟩ = .staged ∧
    copyMode ⟨0x10000000, 0x10000010, 1024, 512, 1, 3840, 0, 3856, 0, none, 0⟩ = .unordered := by decide +kernel

/-- The worked example of the register index. -/
theorem test_offsets : Reg.CTX_STATUS 33 = 0x100860 ∧ Reg.MBX_SEQ 40 = 0xA4144 ∧ Reg.MBX_ACK 40 = 0xA60A0 ∧
    Reg.OVN_PASS 11 = 0x10B0008 ∧ Reg.ORB_SPEED 1 = 0x500208 ∧ blockOf 0x100860 = some (0x100000, 72) ∧
    blockOf 0x10B0008 = some (0x1000000, 83) := by decide +kernel

/-- The worked example of Orbit's POSITION: vector 1 is the shortest, so r is 2, and the ramp starts at step 3 (R517, R518). -/
theorem test_position :
    (let t := nextOf (exec (.positionDone 3 ([62000, 58000, 71000, 80000, 77000, 66000].map fun t => some (t, 1))) (orbUp { orb 0 with st := 4 } 1656000))
     t.fget (Fld.ORB_POS_R 3) = 2 ∧ t.fget (Fld.ORB_POS_AMBIG 3) = 0 ∧
       (t.orb.chans.lookup 3).map (fun c => (c.st, c.step)) = some (6, 3)) := by decide +kernel

/-- FETCH of 64 bytes at DRAM address 0 joins channel 0 (R205, R247). -/
theorem test_fetch : ((nextOf (exec (.fetch 47) (ovenUp (busy (ins .fetch))))).fab.reqs.map (·.target)) = [0] := by decide +kernel

/-- A copy unit of 64 bytes counts as one unit of 4 KiB (R311). -/
theorem test_copy_unit : (nextOf (exec (.copyUnit 7 [] ⟨[], .ok⟩) (copyUp (copyJob 0)))).fget (Fld.CPY_UNITS_COUNT 7) = 1 := by decide +kernel

/-- Forward, step 5 is followed by 0; in reverse, 0 by 5; in step 0 the floating phase C falls forward (R505). -/
theorem test_steps : nextStep false 5 = 0 ∧ nextStep true 0 = 5 ∧ crossLevel false 0 = false ∧ crossLevel true 0 = true ∧
    crossLevel false 1 = true := by decide +kernel

/-- Four pole pairs and a mean step interval of 2.5 ms: 10 / (4 × 0.0025) is 1,000 rpm (R520). -/
theorem test_rpm : rpmOf 4 [2500000, 2500000] = 1000 := by decide +kernel

/-- MANUAL from IDLE enters OBSERVE (R514). -/
theorem test_manual : ((nextOf (exec (.orbManual pf 3 1200) (orbUp (orb 0) 0))).orb.chans.lookup 3).map (fun c => (c.st, c.target)) =
    some (2, 12000000) := by decide +kernel

/-- THERMTRIP turns every Hearth domain OFF, and both PCIe links are down (R172). -/
theorem test_thermtrip : (nextOf (exec .thermtrip up)).dom 0 = .off ∧ ((nextOf (exec .thermtrip up)).link .a).up = false := by
  decide +kernel

/-- ENABLE of context 1023 makes it ENABLED; a doorbell then submits the descriptors up to the tail (R352, R353). -/
theorem test_context : ctxState (nextOf (exec (.ctxEnable pf 1023) (ctxUp []))) 1023 = 1 ∧
    (nextOf (exec (.sqTailDoorbell pf 1023 2) (ctxUp [(Fld.CTX_STATUS_STATE 1023, 1)]))).ctx.fetchQ =
      [⟨1023, 0, 0, false⟩, ⟨1023, 1, 0, false⟩] := by
  decide +kernel

/-- A flit that FEC could not correct is answered with an IDLE flit: NAK of the latest FSEQ received, VALID (R319, R323). -/
theorem test_flit : (nextOf (exec (.flitReceived 3 { flit false 0 0 false with fec := false }) (linkUp 5 8 full))).port.map
      (fun e => match e with | .flit l b => (l, b.take 4) | _ => (0, [])) = [(3, [0x00, 0x80, 0xFF, 0xCF])] ∧
    (nextOf (exec (.flitReceived 3 { flit false 0 0 false with fec := false }) (linkUp 5 8 full))).fget (Fld.MER_LINK_BAD_COUNT 3) = 1 := by
  decide +kernel

/-- Link 0 of two in a live mask takes ADDR[15:12] even, the other odd (R325). -/
theorem test_route : routeLink (upWith [(Fld.MER_ROUTE_LIVE 1, 9)]) 1 0x2000 = some 0 ∧
    routeLink (upWith [(Fld.MER_ROUTE_LIVE 1, 9)]) 1 0x3000 = some 3 := by decide +kernel

/-- The wake record is acknowledged with its SEQ alone (R487). -/
theorem test_wake_ack : (nextOf (exec (.nwWakeAck pf 1) (upWith [(Fld.NW_WAKE_STAT_READY, 1)]))).fget Fld.NW_WAKE_STAT_READY = 1 ∧
    (nextOf (exec (.nwWakeAck pf 0) (upWith [(Fld.NW_WAKE_STAT_READY, 1)]))).fget Fld.NW_WAKE_STAT_READY = 0 := by decide +kernel

/-- A long packet of 4 bytes is one line of the frame that is open (R417). -/
theorem test_line : ((nextOf (exec (.longPacket 1 15 0x2A [1, 2, 3, 4] true false)
    (rxUp [(31, ⟨0, 0, 7, 0, false, false, false⟩)] []))).vid.opened.lookup 31).map (fun x => (x.line, x.trunc)) = some (1, false) := by
  decide +kernel

/-- HOLD stops an eDP link, and RELEASE sends it back to wait for HPD (R439). -/
theorem test_port_hold : txLink (nextOf (exec (.portHold pf 1) (edpUp 3 1))) 1 = 5 ∧
    txLink (nextOf (exec (.portRelease pf 1) (edpUp 5 1))) 1 = 1 := by decide +kernel

/-- The table gives no row any bits, so a word spells no command, and nothing is put in front. -/
theorem test_decode : decodeTableWord 32 0 = none ∧ (State.reset.withFetchWord 32 0).pending = [] := by decide +kernel

/-- In step 1 phase A is driven high and C low; with DIR 1, pins B and C have exchanged their roles (R505). In IDLE every gate is
off, and without ORBIT ON the outputs are high-impedance (R502). -/
theorem test_gates : orbGates (orbUp { orb 0 with st := 7, step := 1 } 0) 3 = some [true, false, false, false, false, true] ∧
    orbGates (orbUp { orb 0 with st := 7, step := 1, cfg := { orbCfg 0 with dir := true } } 0) 3 =
      some [true, false, false, true, false, false] ∧
    orbGates (orbUp (orb 0) 0) 3 = some [false, false, false, false, false, false] ∧ orbGates (upBut [157]) 3 = none := by
  decide +kernel

/-- EXTEST, CLAMP and HIGHZ take the chain's pins from their functions; BYPASS leaves them (R465). -/
theorem test_scan_pins : pinsTaken (nextOf (exec (.tapExtest []) up)) = true ∧ pinsTaken (nextOf (exec .tapClamp up)) = true ∧
    pinsTaken (nextOf (exec .tapHighz up)) = true ∧ pinsTaken (nextOf (exec .tapBypass up)) = false := by decide +kernel

/-- A header unit, field by field: an RD, poisoned, of Bulk, from Star 5, master 0x123, tag 0x456, the last address, deadline 1,
status 2 (R320). -/
theorem test_header : { wideMsg .rd 0 with srcHome := 5, master := 0x123, tag := 0x456, deadline := 1 }.header =
    1 + 2 * 2 ^ 4 + 2 ^ 6 + 5 * 2 ^ 7 + 0x123 * 2 ^ 10 + 0x456 * 2 ^ 22 + (2 ^ 40 - 1) * 2 ^ 34 + 1 * 2 ^ 74 + 2 * 2 ^ 106 := by
  decide +kernel

/-- WM10 sends R4 in slot 0 of pair 0 and R0 in slot 0 of pair 4; WM8 sends R2 there, and holds pair 4 at 0 (R433). -/
theorem test_lvds : lvdsPairs true false false true (2 ^ 24 + 2 ^ 20) =
      [[true, false, false, false, false, false, false], List.replicate 7 false, [false, false, false, false, false, false, true],
       List.replicate 7 false, [true, false, false, false, false, false, false]] ∧
    (lvdsPairs false false false true (2 ^ 22)).head? = some [true, false, false, false, false, false, false] ∧
    (lvdsPairs false false false true (2 ^ 30 - 1))[4]? = some (List.replicate 7 false) := by decide +kernel

end Sys2Proof.Tests
end

/-! # O27 fails: a reserved bit of GRP_STATE is taken for OTG_MODE

`writeStr` cuts everything from 0x210000 on into pages of 256 bytes, one for each generator, so it takes the registers of the
stream groups (0x211000 to 0x211308, R410) for those of generators 16 to 19: a write of GRP_STATE, which names bit 0 alone, acts
as a write of OTG_MODE, which names bits [1:0]. A state that lists a generator 16 with modes 0 and 2 shows the difference. It
meets `State.wf`; it is not a state that a loaded Recipe gives, for `instFlaw` refuses an OUTPUT_TIMING of an instance above 3, but
the obligation speaks of every state. -/
namespace Sys2Proof.Machine

/-! ## What a granted write does -/

/-- A granted 32-bit REGISTER_WRITE outside the pre-roll window and the MSI-X range is the action of its low word (R48, R578). -/
theorem exec_registerWrite_granted {f : HostFn} {off : Nat} {s : State} (h : HostGranted s f off) (aligned : off % 4 = 0)
    (inBar : off < 0x2000000) (pre : inPreroll off = false) (msix : inMsix off = false) (v : BitVec 64) :
    exec (.registerWrite f false off 4 v) s = .next (busAction off (v.setWidth 32) s) := by
  obtain ⟨crust, decodes, granted⟩ := h
  have size : sizeOk off 4 = true := by simp [sizeOk, aligned]
  have word : busWrite (s.masterOf f) (some f) off (v.setWidth 32) s = busAction off (v.setWidth 32) s := by
    simp [busWrite, pre, msix, granted]
  calc exec (.registerWrite f false off 4 v) s
      = .next (registerWrite f false off 4 v s) := ok_defined crust
    _ = .next (bar0Write f off 4 v s) := by simp [registerWrite, decodes, Nat.not_le.mpr inBar]
    _ = .next (busAction off (v.setWidth 32) s) := by simp [bar0Write, size, word]

/-- The action at GRP_STATE of a group is that of OTG_MODE of a generator that does not exist. -/
theorem busAction_GRP_STATE {q : Nat} (h : q < 4) (v : Word) (s : State) :
    busAction (Reg.GRP_STATE q) v s = actOtgMode (16 + q) (bitsOf 1 0 v) s := by
  have page : (Reg.GRP_STATE q - 0x210000) / 256 = 16 + q := by unfold Reg.GRP_STATE; omega
  have block : busAction (Reg.GRP_STATE q) v s = writeStr (Reg.GRP_STATE q) v s := by
    unfold busAction Reg.GRP_STATE
    repeat rw [if_neg (by omega)]
    rw [if_pos (by omega)]
  have high : ¬ Reg.GRP_STATE q < 0x210000 := by unfold Reg.GRP_STATE; omega
  have noCtrl : Reg.GRP_STATE q ≠ Reg.OTG_CTRL (16 + q) := by unfold Reg.GRP_STATE Reg.OTG_CTRL; omega
  have mode : Reg.GRP_STATE q = Reg.OTG_MODE (16 + q) := by unfold Reg.GRP_STATE Reg.OTG_MODE; omega
  rw [block, writeStr, if_neg high, page, if_neg noCtrl, if_pos mode]

/-- MODE reads as the clamped mode after a write of OTG_MODE (R397). -/
theorem fget_actOtgMode {s : State} (w : spWf regReset s.regs = true) (k m : Nat) :
    (actOtgMode k m s).fget (Fld.OTG_MODE_MODE k) = clampMode (s.gen k) (m % 4) % 4 :=
  State.fget_fset_self w (by simp [Fld.OTG_MODE_MODE]) (by simp [Fld.OTG_MODE_MODE]) _

/-! ## The counterexample -/

/-- The table of GRP_STATE names WAITING, bit 0, alone. -/
def groupStateDesc : RegDesc := ⟨0x211008, 4, 256, 1, 4, [⟨0, 0, .ro, 0, 1⟩]⟩

/-- Port A is up and its PF decodes; Crust, the fabric and port A are ON; the PF may access block STR (target 73); and there is a
generator 16 with the modes 0 and 2. -/
def strayGenerator : State := { State.reset with
  awt := some ⟨[(0x420, 0)], [(73, [⟨0, 0xFFFFF, 1, 1⟩])]⟩
  pwr := { PwrState.reset with
    cfgBuilt := true
    dom := [111, 112, 113, 114].map fun d => (d, .on) }
  pcie := { PcieState.reset with linkA := ⟨true, 5, 4, true⟩, cfg := [(4, 0x6)] }
  str := ⟨[], [(16, { Gen.none with modes := [(0, ⟨10000, 4, 2⟩), (2, ⟨10000, 4, 2⟩)] })], []⟩ }

/-- The counterexample meets the invariant and the access is granted, so it is no state in which the write is dropped. -/
theorem strayGenerator_granted :
    strayGenerator.wf = true ∧ HostGranted strayGenerator ⟨.a, 0⟩ (Reg.GRP_STATE 0) := by
  unfold HostGranted
  decide

/-- A write of GRP_STATE leaves MODE of generator 16 as the mode in bits [1:0] of the word, clamped. -/
theorem exec_write_GRP_STATE_strayGenerator (v : BitVec 64) :
    ∃ t, exec (.registerWrite ⟨.a, 0⟩ false (Reg.GRP_STATE 0) 4 v) strayGenerator = .next t ∧
      t.fget (Fld.OTG_MODE_MODE 16) = clampMode (strayGenerator.gen 16) (bitsOf 1 0 (v.setWidth 32) % 4) % 4 := by
  refine ⟨_, exec_registerWrite_granted strayGenerator_granted.2 rfl (by decide) rfl rfl v, ?_⟩
  rw [busAction_GRP_STATE (by decide), fget_actOtgMode rfl]

/-- Refutes O27, in its clause on writes: of the words 0 and 2, equal in bit 0, written to GRP_STATE[0], the first leaves MODE of
generator 16 at 0 and the second at 2. -/
theorem not_reserved_bits_read_zero_and_ignore_writes : ¬ Obligations.reserved_bits_read_zero_and_ignore_writes := by
  unfold Obligations.reserved_bits_read_zero_and_ignore_writes
  intro h
  obtain ⟨-, -, sameOutcome⟩ := h ⟨.a, 0⟩ (Reg.GRP_STATE 0) groupStateDesc strayGenerator rfl (by decide) rfl (by decide) _ rfl
  have agree : ∀ j, j < 32 → (∃ x ∈ groupStateDesc.flds, x.lo ≤ j ∧ j ≤ x.hi) →
      (0 : BitVec 64).getLsbD j = (2 : BitVec 64).getLsbD j := by
    rintro j - ⟨x, hx, -, hj⟩
    obtain rfl : x = ⟨0, 0, .ro, 0, 1⟩ := by simpa [groupStateDesc] using hx
    obtain rfl : j = 0 := Nat.le_zero.mp hj
    rfl
  obtain ⟨t, ht, mode0⟩ := exec_write_GRP_STATE_strayGenerator 0
  obtain ⟨u, hu, mode2⟩ := exec_write_GRP_STATE_strayGenerator 2
  obtain rfl : t = u := by
    have := sameOutcome 0 2 agree
    rw [ht, hu] at this
    exact Host.Outcome.next.inj this
  exact absurd (mode0.symm.trans mode2) (by decide)

end Sys2Proof.Machine

/-! # O28 and O29: a 32-bit access of BAR0 that is not granted

Both obligations are about the gate of an access, `regGate`: at an offset that holds no register it is `.void`, and where the
block's table does not permit the access it is `.denied`. -/
namespace Sys2Proof.Machine

/-! ## How an access is judged (R3, R47, R48) -/

/-- Fused off or not, an offset that holds no register is judged void (R3, R47). -/
theorem regGate_of_no_register {off : Nat} (noReg : regAt off = none) (s : State) (m : Nat) (write : Bool) :
    regGate s m write off = .void := by
  unfold regGate
  by_cases fused : regFused s.code off = true
  · rw [if_pos fused]
  · rw [if_neg fused, noReg]
    cases blockOf off <;> rfl

/-- A register of a present resource that the table of its block does not permit is denied (R48). -/
theorem regGate_of_not_permitted {s : State} {m off b t : Nat} {write : Bool} (fused : regFused s.code off = false)
    (block : blockOf off = some (b, t)) (reg : (regAt off).isSome = true) (deny : s.permits t m write (off - b) 4 = false) :
    regGate s m write off = .denied t := by
  obtain ⟨d, hd⟩ := Option.isSome_iff_exists.mp reg
  simp [regGate, fused, block, hd, deny]

/-- The blocks end below 0x1300000 (R45). -/
theorem off_lt_of_blockOf {off : Nat} {bt : Nat × Nat} (block : blockOf off = some bt) : off < 0x1300000 := by
  by_contra beyond
  simp [blockOf, Nat.not_lt.mp beyond] at block

/-- The MSI-X range lies beyond the blocks. -/
theorem inMsix_eq_false_of_lt {off : Nat} (h : off < 0x1300000) : inMsix off = false := by
  unfold inMsix
  exact decide_eq_false (by omega)

/-! ## 32-bit accesses outside the two windows -/

/-- A word that a function whose BARs decode writes outside the two windows is a host write. -/
theorem busWrite_eq_hostWrite {f : HostFn} {off : Nat} {s : State} (decodes : s.barsDecode f = true)
    (pre : inPreroll off = false) (msix : inMsix off = false) (v : Word) :
    busWrite (s.masterOf f) (some f) off v s = hostWrite f off (busAction off v) s := by
  cases gate : regGate s (s.masterOf f) true off <;> simp [busWrite, hostWrite, decodes, pre, msix, gate]

/-- An aligned 32-bit REGISTER_WRITE outside the two windows is a host write of its low word. -/
theorem exec_registerWrite_word {f : HostFn} {off : Nat} {s : State} (crust : Defined s) (decodes : s.barsDecode f = true)
    (aligned : off % 4 = 0) (inBar : off < 0x2000000) (pre : inPreroll off = false) (msix : inMsix off = false) (v : BitVec 64) :
    exec (.registerWrite f false off 4 v) s = .next (hostWrite f off (busAction off (v.setWidth 32)) s) := by
  have size : sizeOk off 4 = true := by simp [sizeOk, aligned]
  calc exec (.registerWrite f false off 4 v) s
      = .next (registerWrite f false off 4 v s) := ok_defined crust
    _ = .next (bar0Write f off 4 v s) := by simp [registerWrite, decodes, Nat.not_le.mpr inBar]
    _ = .next (busWrite (s.masterOf f) (some f) off (v.setWidth 32) s) := by simp [bar0Write, size]
    _ = .next (hostWrite f off (busAction off (v.setWidth 32)) s) := by rw [busWrite_eq_hostWrite decodes pre msix]

/-- An aligned 32-bit REGISTER_READ of BAR0 answers the word that `busRead` finds. -/
theorem exec_registerRead_word {f : HostFn} {off : Nat} {s t : State} {w : Word} (crust : Defined s)
    (decodes : s.barsDecode f = true) (aligned : off % 4 = 0) (inBar : off < 0x2000000) (read : busRead f off s = (w, t)) :
    exec (.registerRead f false off 4) s = .next (t.out (.readDone f 0 off (leBytes 4 w.toNat) false)) := by
  have size : sizeOk off 4 = true := by simp [sizeOk, aligned]
  calc exec (.registerRead f false off 4) s
      = .next (registerRead f false off 4 s) := ok_defined crust
    _ = .next (bar0Read f off 4 s) := by simp [registerRead, decodes, Nat.not_le.mpr inBar]
    _ = .next (t.out (.readDone f 0 off (leBytes 4 w.toNat) false)) := by simp [bar0Read, size, read]

/-- A read that is not granted finds zero, and leaves the faults of its gate. -/
theorem busRead_not_granted {f : HostFn} {off : Nat} {s : State} {g : RegGate} (pre : inPreroll off = false)
    (msix : inMsix off = false) (gate : regGate s (s.masterOf f) false off = g) (hg : g ≠ .granted) :
    busRead f off s = (0, gateFaults g (s.masterOf f) false off s) := by
  cases g with
  | granted => exact absurd rfl hg
  | _ => simp [busRead, pre, msix, gate]

/-! ## The obligations -/

/-- Settles O28: with no register at the offset the gate is void, so neither access has an effect. -/
theorem no_register_reads_zero : Obligations.no_register_reads_zero := by
  unfold Obligations.no_register_reads_zero
  intro f off v s crust decodes aligned inBar pre msix noReg
  have gate := regGate_of_no_register noReg s (s.masterOf f)
  constructor
  · exact exec_registerRead_word crust decodes aligned inBar (busRead_not_granted pre msix (gate false) nofun)
  · rw [exec_registerWrite_word crust decodes aligned inBar pre msix, hostWrite_void (.inr (gate true))]

/-- Settles O29: the gate is denied, and the denial is the whole effect. FLAGS has bit 3 (BAR0) for a read, 8, and bit 0 as well
for a write, 9 (R536). -/
theorem denied_register_access : Obligations.denied_register_access := by
  unfold Obligations.denied_register_access
  intro f off b t v s crust decodes aligned pre block reg fused
  have below := off_lt_of_blockOf block
  have inBar : off < 0x2000000 := by omega
  have msix := inMsix_eq_false_of_lt below
  constructor
  · intro deny
    have gate := regGate_of_not_permitted fused block reg deny
    rw [exec_registerWrite_word crust decodes aligned inBar pre msix, hostWrite_denied decodes gate]
    rfl
  · intro deny
    have gate := regGate_of_not_permitted fused block reg deny
    exact exec_registerRead_word crust decodes aligned inBar (busRead_not_granted pre msix gate nofun)

end Sys2Proof.Machine

/-! # O30: the loader drops a command that it cannot take

A write of RCP_CMD reaches `actRcpCmd`, which answers each of the three cases with the saturating count of RCP_DROP and nothing
else (R123). What is then left to say is what a saturating counter does to the registers. -/
namespace Sys2Proof.Machine

/-! ## Saturating counters -/

/-- A saturating counter of `w` bits fits its width. -/
theorem satInc_lt (w n : Nat) : satInc w n < 2 ^ w := by
  unfold satInc
  split
  · assumption
  · exact Nat.sub_one_lt (Nat.two_pow_pos w).ne'

/-- A saturating counter reads as one more, or as its ceiling. -/
theorem State.fget_fsat_self {s : State} (w : spWf regReset s.regs = true) {f : Fld} (h : f.lo ≤ f.hi) (hh : f.hi < 32) :
    (s.fsat f).fget f = satInc (f.hi + 1 - f.lo) (s.fget f) := by
  rw [State.fsat, State.fget_fset_self w h hh, Nat.mod_eq_of_lt (satInc_lt _ _)]

/-- A saturating counter leaves every other register alone. -/
theorem State.reg_fsat_ne {s : State} (w : spWf regReset s.regs = true) {f : Fld} {o : Nat} (h : o ≠ f.off) :
    (s.fsat f).reg o = s.reg o := State.reg_setReg_ne w h _

/-! ## The loader's commands (R123) -/

/-- The action at RCP_CMD is the loader's. -/
theorem busAction_RCP_CMD (v : Word) (s : State) : busAction Reg.RCP_CMD v s = actRcpCmd v s := rfl

/-- The command word `v` finds the loader unable to take it: STATE is neither EMPTY nor LOADED, or it is a LOAD in LOADED, or a
PATCH or DEFERRED in EMPTY (R123). -/
def RcpCmdDropped (v : Word) (s : State) : Prop :=
  (s.fget Fld.RCP_STATUS_STATE ≠ 0 ∧ s.fget Fld.RCP_STATUS_STATE ≠ 3) ∨
    (bitsOf 1 0 v = 1 ∧ s.fget Fld.RCP_STATUS_STATE = 3) ∨ (2 ≤ bitsOf 1 0 v ∧ s.fget Fld.RCP_STATUS_STATE = 0)

/-- A command that the loader cannot take is counted in RCP_DROP, and does nothing else. -/
theorem actRcpCmd_of_dropped {v : Word} {s : State} (h : RcpCmdDropped v s) :
    actRcpCmd v s = s.fsat Fld.RCP_DROP_DROPPED := by
  obtain busy | ⟨load, loaded⟩ | ⟨patchOrDeferred, empty⟩ := h
  · simp [actRcpCmd, busy]
  · simp [actRcpCmd, load, loaded]
  · have two_bits : bitsOf 1 0 v < 4 := Nat.mod_lt _ (by decide)
    obtain patch | deferred : bitsOf 1 0 v = 2 ∨ bitsOf 1 0 v = 3 := by omega
    · simp [actRcpCmd, patch, empty]
    · simp [actRcpCmd, deferred, empty]

/-- A granted REGISTER_WRITE of RCP_CMD that the loader cannot take is counted in RCP_DROP, and does nothing else. -/
theorem exec_write_RCP_CMD_dropped {f : HostFn} {v : BitVec 64} {s : State} (granted : HostGranted s f Reg.RCP_CMD)
    (dropped : RcpCmdDropped (v.setWidth 32) s) :
    exec (.registerWrite f false Reg.RCP_CMD 4 v) s = .next (s.fsat Fld.RCP_DROP_DROPPED) := by
  rw [exec_registerWrite_granted granted rfl (by decide) rfl rfl, busAction_RCP_CMD, actRcpCmd_of_dropped dropped]

/-- Settles O30: the write comes to the saturating count of RCP_DROP, which changes that register alone. -/
theorem loader_drops_commands : Obligations.loader_drops_commands := by
  unfold Obligations.loader_drops_commands
  intro f v s granted wf dropped
  obtain ⟨regsWf, -⟩ := wf_parts.mp wf
  refine ⟨s.fsat Fld.RCP_DROP_DROPPED, exec_write_RCP_CMD_dropped granted dropped, rfl, ?_, ?_⟩
  · exact State.fget_fsat_self regsWf (by decide) (by decide)
  · exact fun o other => State.reg_fsat_ne regsWf other

end Sys2Proof.Machine

/-! # O31: an instance starts as its table says, and HALT ends it

The start is a value of the model (R153). A pass is a loop over the state of the whole machine (`runRows`), while the obligation
counts rows on the instance alone (`quietRows`): as long as no row asks anything of its engine the two agree, for any engine that
reads back the instance it was given. What is left is the slot of Zenith once the loop has ended in HALT. -/
namespace Sys2Proof.Machine

/-! ## The start (R153) -/

/-- No timer of an instance that starts is running. -/
theorem begin_timers_getD (tab : TTable) (k : Nat) : tab.begin.timers.getD k .stopped = .stopped := by
  simpa [TTable.begin] using List.getElem?_getD_replicate_default_eq (d := TTimer.stopped) 4 k

/-- Every counter of an instance that starts is at 0. -/
theorem begin_counters_getD (tab : TTable) (k : Nat) : tab.begin.counters.getD k 0 = 0 := by
  simpa [TTable.begin] using List.getElem?_getD_replicate_default_eq (d := 0) 4 k

/-! ## Passes whose rows act on the instance alone (R151) -/

/-- A row that is no EMIT and no WRITE asks nothing of its engine. -/
theorem rowOut_of_quiet {emitMax writeMax : Nat} {emit : Nat → Word → List Word → State → State}
    {write : Nat → Word → State → State} {r : TRow} (quiet : ¬ (8 ≤ r.act ∧ r.act ≤ 10)) (ls : List Word) (s : State) :
    rowOut emitMax writeMax emit write r ls s = s := by
  rw [rowOut, if_neg (by omega), if_neg (by omega)]

section
variable {t : TTable} {inputs : List Word} {now : Nat}

/-- Of `n + 1` rows that act on the instance alone, the first fires, and `n` follow it. -/
theorem quietRows_succ_eq_some {n : Nat} {p q : Nat × TInst} :
    quietRows t inputs now (n + 1) p = some q ↔
      ∃ r snap x, fireRow t (fun k => inputs.getD k 0) now p.1 p.2 = some (r, snap, x) ∧
        ¬ (8 ≤ r.act ∧ r.act ≤ 10) ∧ quietRows t inputs now n (snap, x) = some q := by
  rw [quietRows]
  cases fireRow t (fun k => inputs.getD k 0) now p.1 p.2 with
  | none => simp
  | some f => obtain ⟨r, snap, x⟩ := f; simp

variable {get : State → Option TInst} {put : TInst → State → State} {out : TRow → List Word → State → State} {s : State}

/-- A row that fires: HALT ends the pass, and any other row acts outside before the next one. -/
theorem runRows_of_fired {fuel snap snap' : Nat} {i x : TInst} {r : TRow} (here : get s = some i)
    (fired : fireRow t (fun k => inputs.getD k 0) now snap i = some (r, snap', x)) :
    runRows t inputs now get put out (fuel + 1) snap s =
      if r.act = 10 then (if fuel = 0 then .haltLimit else .halt, put x s)
      else runRows t inputs now get put out fuel snap' (out r i.locals (put x s)) := by
  simp only [runRows, here, fired]

variable (get_put : ∀ x, get (put x s) = some x) (put_put : ∀ x y, put y (put x s) = put y s)
  (quiet_out : ∀ r ls u, ¬ (8 ≤ r.act ∧ r.act ≤ 10) → out r ls u = u)
include get_put put_put

include quiet_out in
/-- Rows that act on the instance alone leave the loop where it would be had it begun with the instance after them. -/
theorem runRows_of_quietRows (fuel : Nat) {n : Nat} {p q : Nat × TInst} (rows : quietRows t inputs now n p = some q) :
    runRows t inputs now get put out (n + fuel) p.1 (put p.2 s) = runRows t inputs now get put out fuel q.1 (put q.2 s) := by
  induction n generalizing p with
  | zero =>
    obtain rfl : p = q := Option.some.inj rows
    rw [Nat.zero_add]
  | succ n ih =>
    obtain ⟨r, snap, x, fired, quiet, rest⟩ := quietRows_succ_eq_some.mp rows
    have noHalt : r.act ≠ 10 := by omega
    rw [Nat.succ_add, runRows_of_fired (get_put _) fired, if_neg noHalt, put_put, quiet_out _ _ _ quiet, ih rest]

/-- The loop ends halted at a row that is HALT, with the instance after that row in place. -/
theorem runRows_of_halt (fuel : Nat) {p : Nat × TInst} {r : TRow} (next : nextRow t inputs now p = some r)
    (halt : r.act = 10) :
    ∃ e x, e.halts = true ∧ runRows t inputs now get put out (fuel + 1) p.1 (put p.2 s) = (e, put x s) := by
  obtain ⟨⟨_, _, x⟩, fired, rfl⟩ := Option.map_eq_some_iff.mp next
  refine ⟨if fuel = 0 then .haltLimit else .halt, x, by split <;> rfl, ?_⟩
  rw [runRows_of_fired (get_put _) fired, if_pos halt, put_put]

include quiet_out in
/-- A pass in which HALT follows `n` rows that act on the instance alone ends halted, and has changed the instance alone. -/
theorem runPass_of_halt {n : Nat} {i : TInst} {p : Nat × TInst} {r : TRow} (below : n < 64)
    (rows : passRows t inputs now n i = some p) (next : nextRow t inputs now p = some r) (halt : r.act = 10) :
    ∃ e x, e.halts = true ∧ runPass t inputs now get put out i s = (e, put x s) := by
  obtain ⟨fuel, full⟩ : ∃ fuel, 64 = n + (fuel + 1) := ⟨63 - n, by omega⟩
  rw [runPass, full, runRows_of_quietRows get_put put_put quiet_out (fuel + 1) rows]
  exact runRows_of_halt get_put put_put fuel next halt

end

/-! ## Zenith's slots (R153, R177) -/

section
variable {s : State} {i : Nat}

/-- An instance put into a slot that runs one is read back. -/
theorem zenInst_put {z : ZenInst} (here : s.zen.insts.getD i none = some z) (x : TInst) :
    zenInst i (onInst i (fun z => { z with inst := x }) s) = some x := by
  have slot : s.zen.insts[i]? = some (some z) := by grind
  simp [zenInst, onInst, slot]

/-- The later of two instances put into a slot stands. -/
theorem onInst_put_put (x y : TInst) :
    onInst i (fun z => { z with inst := y }) (onInst i (fun z => { z with inst := x }) s) =
      onInst i (fun z => { z with inst := y }) s := by
  simp [onInst, List.modify_modify_eq, Function.comp_def]

/-- The state with a slot of Zenith freed. -/
def freeSlot (i : Nat) (s : State) : State := { s with zen := { s.zen with insts := s.zen.insts.set i none } }

/-- What was done to an instance is gone with its slot. -/
theorem freeSlot_onInst_zen (g : ZenInst → ZenInst) : (freeSlot i (onInst i g s)).zen = (freeSlot i s).zen := by
  simp [freeSlot, onInst, List.set_eq_modify, List.modify_modify_eq, Function.comp_def]

/-- A counter leaves the slots alone. -/
theorem freeSlot_fsat_zen (f : Fld) : (freeSlot i (s.fsat f)).zen = (freeSlot i s).zen := by
  simp [freeSlot]

/-- A freed slot runs no instance. -/
theorem freeSlot_free : (freeSlot i s).zen.insts.getD i none = none := by
  simp only [freeSlot]; grind

/-- Steps that each leave Zenith's own state alone do so one after another. -/
theorem foldl_zen {α : Type} {f : State → α → State} (step : ∀ u k, (f u k).zen = u.zen) (l : List α) (s : State) :
    (l.foldl f s).zen = s.zen :=
  List.foldlRecOn (motive := fun u : State => u.zen = s.zen) l f rfl fun u hu k _ => (step u k).trans hu

/-- ZEN_STATUS and ZEN_INST follow the instances, and leave Zenith's own state alone. -/
@[simp] theorem syncZen_zen (s : State) : (syncZen s).zen = s.zen := by
  rw [syncZen]
  refine (foldl_zen ?_ _ _).trans (State.fset_zen ..)
  intro u k
  split
  · rw [State.fset_zen]
  · rw [State.fset_zen, State.fset_zen, State.fset_zen]

/-- An event for which no Procedure starts only becomes pending in the instances. -/
theorem raiseZen_of_no_role {e : Nat} (noRole : 64 ≤ s.zen.roles.getD (roleOf e) 64) :
    (raiseZen e s).zen.insts = s.zen.insts.map (Option.map fun z => { z with inst := z.inst.arrive e }) := by
  rw [raiseZen, if_neg (Nat.not_lt.mpr noRole)]

/-- A free slot stays free at an event for which no Procedure starts. -/
theorem raiseZen_keeps_free {e : Nat} (free : s.zen.insts.getD i none = none)
    (noRole : 64 ≤ s.zen.roles.getD (roleOf e) 64) : (raiseZen e s).zen.insts.getD i none = none := by
  rw [raiseZen_of_no_role noRole]
  exact (List.getD_map _ none _).trans (congrArg (Option.map _) free)

/-- A pass of Zenith that ends halted frees its slot, and counts the step limit if that was reached too. -/
theorem zenPass_of_halts {z : ZenInst} {tab : TTable} {e : PassEnd} {u : State}
    (here : s.zen.insts.getD i none = some z) (proc : s.zen.procs.lookup z.proc = some tab)
    (ready : z.inst.ready (zenInputs s z) = true) (halts : e.halts = true)
    (pass : runPass tab (zenInputs s z) s.usCount (zenInst i) (fun x => onInst i fun z => { z with inst := x })
      (rowOut 6 255 (fun d a _ => zenEmit d a) (zenWrite i)) z.inst s = (e, u)) :
    zenPass i s = syncZen (freeSlot i (if e.limited then u.fsat (Fld.ZEN_COUNT_STEPLIM z.proc) else u)) := by
  simp only [zenPass, here, proc, ready, pass]
  rw [if_neg (by decide), if_pos halts]; rfl

/-- A pass of Zenith in which HALT follows rows that act on the instance alone does nothing else to Zenith than to free the
slot. -/
theorem zenPass_of_halt {z : ZenInst} {tab : TTable} {n : Nat} {p : Nat × TInst} {r : TRow}
    (here : s.zen.insts.getD i none = some z) (proc : s.zen.procs.lookup z.proc = some tab)
    (ready : z.inst.ready (zenInputs s z) = true) (below : n < 64)
    (rows : passRows tab (zenInputs s z) s.usCount n z.inst = some p)
    (next : nextRow tab (zenInputs s z) s.usCount p = some r) (halt : r.act = 10) :
    (zenPass i s).zen = (freeSlot i s).zen := by
  obtain ⟨e, x, halts, pass⟩ := runPass_of_halt (out := rowOut 6 255 (fun d a _ => zenEmit d a) (zenWrite i))
    (zenInst_put here) onInst_put_put (fun r ls u quiet => rowOut_of_quiet quiet ls u) below rows next halt
  rw [zenPass_of_halts here proc ready halts pass, syncZen_zen]
  split
  · rw [freeSlot_fsat_zen, freeSlot_onInst_zen]
  · exact freeSlot_onInst_zen _

end

/-! ## The obligation -/

/-- Settles O31: the start is `TTable.begin`, and the pass frees its slot, where no event can become pending. -/
theorem instances_start_and_halt : Obligations.instances_start_and_halt := by
  unfold Obligations.instances_start_and_halt
  constructor
  · exact fun tab => ⟨rfl, rfl, begin_timers_getD tab, begin_counters_getD tab, rfl⟩
  · intro s i z tab n p r crust on here proc ready below rows next halt
    have zen := zenPass_of_halt here proc ready below rows next halt
    refine ⟨zenPass i.val s, ?_, by rw [zen]; rfl, fun e noRole => raiseZen_keeps_free ?_ ?_⟩
    · calc exec (.stateTablePass (.zenith i)) s
          = .next (if s.on 111 then zenPass i.val s else s) := ok_defined crust
        _ = .next (zenPass i.val s) := by rw [if_pos on]
    · rw [zen, freeSlot_free]
    · rw [zen]; exact noRole

end Sys2Proof.Machine

/-! # O35: the doorbell page is its owner's, and an ENABLED context's

The three commands are one `doorbell` each, with an action of their own that is reached in neither case: a function that does not
own the context is denied at target 59, and of a context that is not ENABLED nothing is taken (R354). -/
namespace Sys2Proof.Machine

section
variable {f : HostFn} {c off : Nat} {act : State → State} {s : State}

/-- A function that does not own the context is denied at the doorbell target. FLAGS has bits 0 (a write) and 3 (a BAR): 9
(R354, R536). -/
theorem doorbell_of_not_owner (decodes : s.barsDecode f = true) (other : ctxOwner s c ≠ some f) :
    doorbell f c off act s = denyAccess 59 (s.masterOf f) 9 (4096 * c + off) s := by
  have flags : faultFlags true false false true false = 9 := rfl
  have addr : c * 0x1000 + off = 4096 * c + off := by rw [Nat.mul_comm]
  simp [doorbell, decodes, other, flags, addr]

/-- While CRUST_NOC is ON, a context that is not ENABLED takes nothing from its owner (R155, R354). -/
theorem doorbell_of_not_enabled (owner : ctxOwner s c = some f) (on : s.on 112 = true) (idle : ctxState s c ≠ 1) :
    doorbell f c off act s = s := by
  simp [doorbell, owner, on, idle]

end

/-- The commands of the two doorbells: SQ_TAIL's is at offset 0 of the context's page and CQ_HEAD's, with ARM or without it, at
offset 4 (R353). -/
theorem exec_doorbell {i : Instr} {f : HostFn} {c : Fin 1024} {off : Nat} {s : State} (crust : Defined s)
    (command : (∃ v, (i = .sqTailDoorbell f c v ∧ off = 0)) ∨ (∃ v, (i = .cqHeadUpdate f c v ∨ i = .cqArm f c v) ∧ off = 4)) :
    ∃ act, exec i s = .next (doorbell f c.val off act s) := by
  obtain ⟨v, rfl, rfl⟩ | ⟨v, rfl | rfl, rfl⟩ := command
  · exact ⟨actSqTail c.val v.toNat, ok_defined crust⟩
  · exact ⟨actCqHead c.val v.toNat, ok_defined crust⟩
  · exact ⟨actCqArm c.val v.toNat, ok_defined crust⟩

/-- Settles O35: the command is a `doorbell`, which denies any function but the owner and leaves the state of a context that is
not ENABLED as it is. -/
theorem doorbells_are_the_owners : Obligations.doorbells_are_the_owners := by
  unfold Obligations.doorbells_are_the_owners
  intro i f c off s command crust decodes
  obtain ⟨act, run⟩ := exec_doorbell crust command
  constructor
  · intro other
    rw [run, doorbell_of_not_owner decodes other]
    rfl
  · intro owner on idle
    rw [run, doorbell_of_not_enabled owner on idle]

end Sys2Proof.Machine

/-! # O26: when a fault merges into the latest record

Taking the head of the queue changes the queue and its level alone, so the log judges the fault by the records as they stood. The
model compares whole words and the obligation their fields: `logMerges_iff` is the bridge. What a merge and a new record do to the
registers is then said once for each (R534, R537, R538). -/
namespace Sys2Proof.Machine

/-! ## The fields of a record's words (R536) -/

/-- A field is a quotient cut to its width. -/
theorem bitsOf_eq_div_mod (hi lo : Nat) (w : Word) : bitsOf hi lo w = w.toNat / 2 ^ lo % 2 ^ (hi + 1 - lo) := by
  rw [bitsOf, Nat.shiftRight_eq_div_pow]

/-- The lower half of a word. -/
theorem bitsOf_lower_half (w : Word) : bitsOf 15 0 w = w.toNat % 65536 := by
  simp [bitsOf_eq_div_mod]

/-- The upper half of a word. -/
theorem bitsOf_upper_half (w : Word) : bitsOf 31 16 w = w.toNat / 65536 := by
  have := w.isLt
  rw [bitsOf_eq_div_mod]
  omega

/-- Word 1 of a record holds a KIND, FLAGS and a MASTER exactly when its three fields do. -/
theorem kind_flags_master_iff (w : Word) {kind flags master : Nat} (hk : kind < 256) (hf : flags < 256) :
    w.toNat = kind + 256 * flags + 65536 * master ↔
      bitsOf 7 0 w = kind ∧ bitsOf 15 8 w = flags ∧ bitsOf 31 16 w = master := by
  rw [bitsOf_upper_half, bitsOf_eq_div_mod, bitsOf_eq_div_mod]
  omega

/-- One more in the upper half, below its ceiling, is one more REPEAT. -/
theorem upper_half_add_one {w : Word} (h : bitsOf 31 16 w < 65535) :
    bitsOf 31 16 (BitVec.ofNat 32 (w.toNat + 65536)) = bitsOf 31 16 w + 1 := by
  rw [bitsOf_upper_half] at h
  rw [bitsOf_upper_half, bitsOf_upper_half, BitVec.toNat_ofNat]
  omega

/-- One more in the upper half leaves the lower half, TARGET, as it is. -/
theorem lower_half_of_upper_add_one (w : Word) :
    bitsOf 15 0 (BitVec.ofNat 32 (w.toNat + 65536)) = bitsOf 15 0 w := by
  rw [bitsOf_lower_half, bitsOf_lower_half, BitVec.toNat_ofNat]
  omega

/-- The records stand above the other registers of the log and above SBD. -/
theorem FLT_REC_ne_of_lt {o : Nat} (h : o < 0x900000) (k w : Nat) : o ≠ Reg.FLT_REC k w := by
  unfold Reg.FLT_REC
  omega

/-- The counts of lost messages stand below the log. -/
theorem not_mem_msgRegs_of_lt {o : Nat} (h : 0x600418 < o) : o ∉ msgRegs := by
  simp only [msgRegs, Reg.SBD_PCIE_MSGLOST, List.mem_cons, List.not_mem_nil, or_false]
  omega

/-! ## Counters of 32 bits (R546) -/

section
variable {s : State}

/-- A field reads alike in two states that agree on its register. -/
theorem fget_congr {t : State} {f : Fld} (h : t.reg f.off = s.reg f.off) : t.fget f = s.fget f :=
  congrArg (bitsOf f.hi f.lo) h

variable (w : spWf regReset s.regs = true)
include w

/-- A counter that takes its whole register counts modulo 2³². -/
theorem fget_fadd_word {f : Fld} (lo : f.lo = 0) (hi : f.hi = 31) (n : Nat) :
    (s.fadd f n).fget f = (s.fget f + n) % 2 ^ 32 := by
  rw [State.fget_fadd_self w (by omega) (by omega), lo, hi]

/-- A counter leaves every other register alone. -/
theorem reg_fadd_ne {f : Fld} {o : Nat} (h : o ≠ f.off) (n : Nat) : (s.fadd f n).reg o = s.reg o :=
  State.reg_setReg_ne w h _

/-- A counter keeps the registers in canonical form. -/
theorem regs_wf_fadd (f : Fld) (n : Nat) : spWf regReset (s.fadd f n).regs = true := State.regs_wf_setReg w _ _

end

/-! ## The merge test (R538) -/

/-- The merge test of the model is R538's, field by field. -/
theorem logMerges_iff {s : State} {e : FaultEntry} {k T : Nat} (slot : k = logSlot (s.fget Fld.FLT_SEQ_SEQ))
    (first : T = (s.reg (Reg.FLT_REC k 6)).toNat + 2 ^ 32 * (s.reg (Reg.FLT_REC k 7)).toNat)
    (hk : e.kind < 256) (hf : e.flags < 256) :
    logMerges s e = true ↔
      s.fget Fld.FLT_SEQ_SEQ ≠ 0 ∧ bitsOf 7 0 (s.reg (Reg.FLT_REC k 1)) = e.kind ∧
        bitsOf 15 8 (s.reg (Reg.FLT_REC k 1)) = e.flags ∧ bitsOf 31 16 (s.reg (Reg.FLT_REC k 1)) = e.master ∧
        bitsOf 15 0 (s.reg (Reg.FLT_REC k 2)) = e.target ∧ T ≤ e.t ∧ e.t < T + 100000 ∧
        bitsOf 31 16 (s.reg (Reg.FLT_REC k 2)) < 65535 := by
  subst first
  simp only [logMerges, logWord, ← slot, Bool.and_eq_true, decide_eq_true_eq, kind_flags_master_iff _ hk hf,
    ← bitsOf_lower_half, ← bitsOf_upper_half, and_assoc]

/-! ## Taking the head of the queue (R537) -/

/-- The state whose queue is what is left of it, with its level in FLT_QUEUE. -/
def takeFault (q : List FaultEntry) (s : State) : State :=
  { s with flt := ⟨q⟩ }.fset Fld.FLT_QUEUE_LEVEL q.length

/-- Taking a fault changes the queue and registers alone. -/
theorem takeFault_frame (q : List FaultEntry) (s : State) :
    takeFault q s = { s with flt := ⟨q⟩, regs := (takeFault q s).regs } := rfl

/-- FAULT_LOG_WRITE takes the head of the queue and logs it. -/
theorem exec_faultLogWrite_cons {s : State} {e : FaultEntry} {q : List FaultEntry} (crust : Defined s)
    (queue : s.flt.queue = e :: q) : exec .faultLogWrite s = .next (logOne e (takeFault q s)) := by
  calc exec .faultLogWrite s = .next (faultLogWrite s) := ok_defined crust
    _ = .next (logOne e (takeFault q s)) := by rw [faultLogWrite, queue]; rfl

section
variable {s : State} (w : spWf regReset s.regs = true)
include w

/-- Taking a fault keeps the registers in canonical form. -/
theorem regs_wf_takeFault (q : List FaultEntry) : spWf regReset (takeFault q s).regs = true :=
  State.regs_wf_setReg (s := { s with flt := ⟨q⟩ }) w _ _

/-- Taking a fault changes no register but FLT_QUEUE. -/
theorem reg_takeFault_ne (q : List FaultEntry) {o : Nat} (h : o ≠ Reg.FLT_QUEUE) : (takeFault q s).reg o = s.reg o :=
  State.reg_setReg_ne (s := { s with flt := ⟨q⟩ }) w h _

/-- Taking a fault leaves the records as they are. -/
theorem reg_takeFault_record (q : List FaultEntry) (k i : Nat) :
    (takeFault q s).reg (Reg.FLT_REC k i) = s.reg (Reg.FLT_REC k i) :=
  reg_takeFault_ne w q (FLT_REC_ne_of_lt (by decide) k i).symm

/-- Taking a fault leaves FLT_SEQ as it is. -/
theorem fget_takeFault_seq (q : List FaultEntry) :
    (takeFault q s).fget Fld.FLT_SEQ_SEQ = s.fget Fld.FLT_SEQ_SEQ := fget_congr (reg_takeFault_ne w q (by decide))

/-- Taking a fault leaves FLT_MERGED as it is. -/
theorem fget_takeFault_merged (q : List FaultEntry) :
    (takeFault q s).fget Fld.FLT_MERGED_COUNT = s.fget Fld.FLT_MERGED_COUNT :=
  fget_congr (reg_takeFault_ne w q (by decide))

/-- A fault merges after it was taken exactly when it did before. -/
theorem logMerges_takeFault (q : List FaultEntry) (e : FaultEntry) :
    logMerges (takeFault q s) e = logMerges s e := by
  have word (k i : Nat) : logWord (takeFault q s) k i = logWord s k i :=
    congrArg BitVec.toNat (reg_takeFault_record w q k i)
  simp only [logMerges, fget_takeFault_seq w, word]

end

/-! ## A merge (R538) -/

/-- The state in which the record of a slot has one more REPEAT, counted in FLT_MERGED. -/
def mergeInto (k : Nat) (s : State) : State :=
  (s.setReg (Reg.FLT_REC k 2) (BitVec.ofNat 32 (logWord s k 2 + 65536))).fadd Fld.FLT_MERGED_COUNT 1

/-- The merge changes registers alone. -/
theorem mergeInto_frame (k : Nat) (s : State) : mergeInto k s = { s with regs := (mergeInto k s).regs } := by
  rw [mergeInto, State.fadd, State.fset, State.setReg, State.setReg]

/-- A fault that merges goes into the latest record. -/
theorem logOne_of_merges {s : State} {e : FaultEntry} (h : logMerges s e = true) :
    logOne e s = mergeInto (logSlot (s.fget Fld.FLT_SEQ_SEQ)) s := if_pos h

section
variable {s : State} (w : spWf regReset s.regs = true) (k : Nat)
include w

/-- The merge changes no register but the record's word 2 and FLT_MERGED. -/
theorem reg_mergeInto_ne {o : Nat} (record : o ≠ Reg.FLT_REC k 2) (merged : o ≠ Reg.FLT_MERGED) :
    (mergeInto k s).reg o = s.reg o :=
  (reg_fadd_ne (State.regs_wf_setReg w _ _) merged 1).trans (State.reg_setReg_ne w record _)

/-- The record's word 2 after the merge. -/
theorem reg_mergeInto_repeat :
    (mergeInto k s).reg (Reg.FLT_REC k 2) = BitVec.ofNat 32 ((s.reg (Reg.FLT_REC k 2)).toNat + 65536) :=
  (reg_fadd_ne (State.regs_wf_setReg w _ _) (FLT_REC_ne_of_lt (by decide) k 2).symm 1).trans
    (State.reg_setReg_self w _ _)

/-- FLT_MERGED counts the merge modulo 2³². -/
theorem fget_mergeInto_merged :
    (mergeInto k s).fget Fld.FLT_MERGED_COUNT = (s.fget Fld.FLT_MERGED_COUNT + 1) % 2 ^ 32 := by
  rw [mergeInto, fget_fadd_word (State.regs_wf_setReg w _ _) rfl rfl,
    fget_congr (State.reg_setReg_ne w (FLT_REC_ne_of_lt (by decide) k 2) _)]

end

/-! ## A new record (R537, R369) -/

/-- A signalled vector leaves the fault queue alone. -/
theorem signalMisc_flt (v : Nat) (s : State) : (signalMisc v s).flt = s.flt := by
  unfold signalMisc messageDue
  split
  · exact State.fadd_flt ..
  · dsimp only
    split
    · exact State.setMsix_flt ..
    · exact State.out_flt ..

/-- A signalled vector changes no register but a port's count of lost messages (R450). -/
theorem reg_signalMisc_ne {s : State} (w : spWf regReset s.regs = true) (v : Nat) {o : Nat} (h : o ∉ msgRegs) :
    (signalMisc v s).reg o = s.reg o := by
  have lost (p : PPort) : o ≠ (Fld.SBD_PCIE_MSGLOST_COUNT (portNum p)).off := by
    rintro rfl
    cases p with
    | a => exact h (.head _)
    | b => exact h (.tail _ (.head _))
  unfold signalMisc messageDue
  split
  · exact reg_fadd_ne w (lost _) 1
  · dsimp only
    split <;> rfl

section
variable {s : State}

/-- A record that is written leaves the fault queue alone. -/
theorem putRecord_flt (k : Nat) (ws : List Nat) : (putRecord k ws s).flt = s.flt :=
  List.foldlRecOn (motive := fun u : State => u.flt = s.flt) _ _ rfl fun _ hu _ _ => hu

/-- A record that is written keeps the registers in canonical form, and leaves those below the ring alone. -/
theorem putRecord_regs (w : spWf regReset s.regs = true) (k : Nat) (ws : List Nat) :
    spWf regReset (putRecord k ws s).regs = true ∧
      ∀ o, o < 0x900000 → (putRecord k ws s).reg o = s.reg o := by
  refine List.foldlRecOn (motive := fun u : State => spWf regReset u.regs = true ∧ ∀ o, o < 0x900000 → u.reg o = s.reg o)
    _ _ ⟨w, fun _ _ => rfl⟩ ?_
  rintro u ⟨wu, hu⟩ i -
  exact ⟨State.regs_wf_setReg wu _ _, fun o ho => (State.reg_setReg_ne wu (FLT_REC_ne_of_lt ho k i) _).trans (hu o ho)⟩

/-- A fault that does not merge is the record of the next SEQ. -/
theorem logOne_of_not_merges {e : FaultEntry} (h : logMerges s e = false) {n : Nat}
    (next : n = (s.fget Fld.FLT_SEQ_SEQ + 1) % 2 ^ 32) :
    logOne e s = advanceSeq Fld.FLT_SEQ_SEQ 0 (putRecord (logSlot n) (recordWords n e) s) := by
  subst next
  exact if_neg (by simp [h])

/-- A log that takes a fault leaves the rest of the queue alone. -/
theorem logOne_flt (e : FaultEntry) : (logOne e s).flt = s.flt := by
  cases h : logMerges s e with
  | true => rw [logOne_of_merges h, mergeInto, State.fadd_flt, State.setReg_flt]
  | false => rw [logOne_of_not_merges h rfl, advanceSeq, signalMisc_flt, State.fadd_flt, putRecord_flt]

/-- An event's sequence register advances by one (R369). -/
theorem fget_advanceSeq (w : spWf regReset s.regs = true) {f : Fld} (lo : f.lo = 0) (hi : f.hi = 31) (v : Nat)
    (h : f.off ∉ msgRegs) : (advanceSeq f v s).fget f = (s.fget f + 1) % 2 ^ 32 := by
  rw [advanceSeq, fget_congr (reg_signalMisc_ne (regs_wf_fadd w f 1) v h), fget_fadd_word w lo hi]

/-- An event changes no register but its sequence register and a port's count of lost messages. -/
theorem reg_advanceSeq_ne (w : spWf regReset s.regs = true) {f : Fld} {o : Nat} (v : Nat) (seq : o ≠ f.off)
    (msg : o ∉ msgRegs) : (advanceSeq f v s).reg o = s.reg o := by
  rw [advanceSeq, reg_signalMisc_ne (regs_wf_fadd w f 1) v msg, reg_fadd_ne w seq]

/-- A new record advances FLT_SEQ. -/
theorem fget_seq_of_new_record (w : spWf regReset s.regs = true) {e : FaultEntry} (h : logMerges s e = false) :
    (logOne e s).fget Fld.FLT_SEQ_SEQ = (s.fget Fld.FLT_SEQ_SEQ + 1) % 2 ^ 32 := by
  obtain ⟨n, next⟩ : ∃ n, n = (s.fget Fld.FLT_SEQ_SEQ + 1) % 2 ^ 32 := ⟨_, rfl⟩
  obtain ⟨wr, same⟩ := putRecord_regs w (logSlot n) (recordWords n e)
  rw [logOne_of_not_merges h next, fget_advanceSeq wr rfl rfl 0 (not_mem_msgRegs_of_lt (by decide)), fget_congr (same _ (by decide))]

/-- A new record changes no register below the ring but FLT_SEQ and a port's count of lost messages. -/
theorem reg_of_new_record (w : spWf regReset s.regs = true) {e : FaultEntry} (h : logMerges s e = false) {o : Nat}
    (below : o < 0x900000) (seq : o ≠ Reg.FLT_SEQ) (msg : o ∉ msgRegs) : (logOne e s).reg o = s.reg o := by
  obtain ⟨n, next⟩ : ∃ n, n = (s.fget Fld.FLT_SEQ_SEQ + 1) % 2 ^ 32 := ⟨_, rfl⟩
  obtain ⟨wr, same⟩ := putRecord_regs w (logSlot n) (recordWords n e)
  rw [logOne_of_not_merges h next, reg_advanceSeq_ne wr 0 seq msg, same o below]

end

/-! ## The obligation -/

/-- Settles O26: the model's merge test is R538's, and each of its two answers has the effects named. -/
theorem fault_merges_into_latest_record : Obligations.fault_merges_into_latest_record := by
  unfold Obligations.fault_merges_into_latest_record
  intro s e q k wf crust queue slot hk hf _ _ T first same hsame
  obtain ⟨regsWf, -⟩ := wf_parts.mp wf
  have takenWf := regs_wf_takeFault regsWf q
  have test : logMerges s e = true ↔ same := hsame ▸ logMerges_iff slot first hk hf
  have taken := logMerges_takeFault regsWf q e
  refine ⟨logOne e (takeFault q s), exec_faultLogWrite_cons crust queue, ?_, ?_, ?_⟩
  · rw [logOne_flt]; rfl
  · intro merges
    have run : logOne e (takeFault q s) = mergeInto k (takeFault q s) := by
      rw [logOne_of_merges (taken.trans (test.mpr merges)), fget_takeFault_seq regsWf, ← slot]
    rw [hsame] at merges
    obtain ⟨-, -, -, -, target, -, -, room⟩ := merges
    have word2 := reg_mergeInto_repeat takenWf k
    rw [reg_takeFault_record regsWf] at word2
    rw [run, word2, fget_mergeInto_merged takenWf, fget_takeFault_merged regsWf]
    refine ⟨upper_half_add_one room, (lower_half_of_upper_add_one _).trans target, rfl, ?_, ?_⟩
    · intro o record merged level
      rw [reg_mergeInto_ne takenWf k record merged, reg_takeFault_ne regsWf q level]
    · rw [mergeInto_frame, takeFault_frame]
  · intro differs
    have new : logMerges (takeFault q s) e = false := taken.trans (Bool.eq_false_iff.mpr (mt test.mp differs))
    rw [fget_seq_of_new_record takenWf new, fget_takeFault_seq regsWf,
      reg_of_new_record takenWf new (by decide) (by decide) (not_mem_msgRegs_of_lt (by decide)),
      reg_takeFault_ne regsWf q (by decide)]
    exact ⟨rfl, rfl⟩

end Sys2Proof.Machine
